-- ==== Sys2Proof/Word.lean ====
section
/-! DEFINITION. The words of the X48, sparse maps in one canonical form, and the plain data that instructions and
events carry as operands. Nothing here computes an effect. -/
namespace Sys2Proof

/-- A 32-bit scalar or lane register value (R380, R388). -/
abbrev Word := BitVec 32
/-- A 64-bit register pair or hub register. -/
abbrev DWord := BitVec 64
/-- One byte of memory. -/
abbrev Byte := BitVec 8

/-- A sparse map: pairs of key and value, with strictly rising keys in every map that `set` and `del` make of `[]`. The
operations below answer alike on a list in any other order. -/
abbrev FMap (α : Type) := List (Nat × α)

/-- The value at a key, when the map lists one. -/
def FMap.find {α : Type} : FMap α → Nat → Option α
  | [], _ => none
  | (k, v) :: m, a => if a = k then some v else FMap.find m a

/-- The value at a key; `d` where the map lists none. -/
def FMap.get {α : Type} (d : α) : FMap α → Nat → α
  | [], _ => d
  | (k, v) :: m, a => if a = k then v else FMap.get d m a

/-- List a value at a key, keeping the keys strictly rising. -/
def FMap.set {α : Type} : FMap α → Nat → α → FMap α
  | [], a, x => [(a, x)]
  | (k, v) :: m, a, x =>
    if a < k then (a, x) :: (k, v) :: m else if a = k then (a, x) :: m else (k, v) :: FMap.set m a x

/-- Drop what is listed at a key. -/
def FMap.del {α : Type} : FMap α → Nat → FMap α
  | [], _ => []
  | (k, v) :: m, a => if a = k then FMap.del m a else (k, v) :: FMap.del m a

/-- List a value at a key, or drop the entry when the value is what an unlisted key reads as: equal maps are equal
lists. -/
def FMap.put {α : Type} [DecidableEq α] (d : α) (m : FMap α) (a : Nat) (x : α) : FMap α :=
  if x = d then FMap.del m a else FMap.set m a x

/-- Every listed key is above `b`, and the keys rise strictly. -/
def FMap.above {α : Type} (b : Nat) : FMap α → Bool
  | [] => true
  | (k, _) :: m => decide (b < k) && FMap.above k m

/-- The keys rise strictly. -/
def FMap.wf {α : Type} : FMap α → Bool
  | [] => true
  | (k, _) :: m => FMap.above k m

/-- The control bits every lane word carries (R384): the S bit and the predicate field. -/
structure Hdr where
  s : Bool
  pred : BitVec 4
  deriving DecidableEq, Repr

/-- Format L3 (R386): four operand fields and M[28:0]. -/
structure L3 where
  d : BitVec 13
  a : BitVec 13
  b : BitVec 13
  c : BitVec 13
  m : BitVec 29
  deriving DecidableEq, Repr

/-- Format LI (R386). -/
structure LI where
  d : BitVec 13
  a : BitVec 13
  imm : BitVec 32
  m : BitVec 23
  deriving DecidableEq, Repr

/-- Format LM (R386). -/
structure LM where
  d : BitVec 13
  a : BitVec 13
  b : BitVec 13
  off : BitVec 20
  m : BitVec 22
  deriving DecidableEq, Repr

/-- Format LX (R386). -/
structure LX where
  zd : BitVec 8
  qa : BitVec 3
  qb : BitVec 3
  fbq : BitVec 6
  shape : BitVec 2
  x : BitVec 13
  m : BitVec 46
  deriving DecidableEq, Repr

/-- Format LC (R386). -/
structure LC where
  a : BitVec 13
  off : BitVec 24
  m : BitVec 44
  deriving DecidableEq, Repr

/-- A warp slot of the package: site, core position, slot. -/
structure WRef where
  site : Nat
  core : Nat
  slot : Nat
  deriving DecidableEq, Repr

/-- What a request on REQ asks for (R56, R118). -/
inductive ReqKind where
  | load | store | atomic | cas
  deriving DecidableEq, Repr

/-- A message of a PTP master (R147): the master that sends it, named by its rank, its domain, and the offset or the path delay in
nanoseconds that comes of its timestamps. -/
structure PtpMsg where
  master : Nat
  domain : Nat
  value : Int
  deriving DecidableEq, Repr

/-- A write of the FRCTL register of a frame slot (R179). -/
structure FrctlWrite where
  f : Nat
  val : BitVec 64
  deriving DecidableEq, Repr

/-- A request on class REQ: its tag (R56), its world (R118) and the access. -/
structure Req where
  srcSite : Nat
  srcCore : Nat
  seq : Nat
  lwm : Nat
  kind : ReqKind
  pa : Nat
  size : Nat
  data : BitVec 256
  aop : BitVec 4
  sec : Bool
  deriving DecidableEq, Repr

/-- A primitive packet on PRIM (R187): frame slot, sequence key, payload. -/
structure Prim where
  frame : Nat
  key : BitVec 48
  payload : BitVec 2048
  deriving DecidableEq, Repr

/-- What the checks of one render die found (R43, R44, R103, R104): image signature, load, the die-level units, the failed
core positions and slices, the failed vector lanes of core positions (in the layout of LMAP), the lanes of its modules that
link training repaired, the modules that training could not repair (four a direction, N, E, S, W), and the digest of the
image. -/
structure DieTest where
  site : Nat
  sigOk : Bool
  loadOk : Bool
  dieOk : Bool
  badCores : BitVec 48
  badSlices : BitVec 12
  badLanes : List (Nat × Word)
  laneReps : Nat
  badMods : BitVec 16
  digest : BitVec 256
  deriving DecidableEq, Repr

/-- The secure-world policy image (R102, R114, R132). -/
structure Policy where
  digest : BitVec 256
  ranges : List (Nat × Nat × BitVec 64)
  secSq : BitVec 10
  has1023 : Bool
  packet : Option (BitVec 1024)
  deriving DecidableEq, Repr

/-- Where an error was found (R330, R331, R334): the WHERE code, core, slot and address, whether a warp was reading the
data, whether the data was dirty, and whether the check corrected it; `e2e` says that it is a failed end-to-end check, and `tag` of which
operation of the warp (R320, R331). `port` is the site that found it where the warp runs at another, and `lane` the lane slot of the
reading instruction. -/
structure ErrAt where
  unit : Nat
  core : Nat
  slot : Nat
  addr : Nat
  reader : Bool
  dirty : Bool
  corrected : Bool
  e2e : Bool := false
  tag : Option (BitVec 16) := none
  port : Option Nat := none
  lane : Option Bool := none
  deriving DecidableEq, Repr

end Sys2Proof
end

