-- ==== Sys2Proof/Syntax.lean ====
section
/-! DEFINITION. The one syntax of the X48: a constructor for every row of the table of operations and events, in the
table's order. Scalar constructors carry the fields R381 lists for them; lane constructors carry the control bits of
R384 and the fields of their format (R386); event constructors carry what the environment or another unit supplies. -/
namespace Sys2Proof

/-- Every operation and event of the part. -/
inductive Instr where
  /-- SADD (R407). -/
  | sadd (d a b : BitVec 6)
  /-- SSUB (R407). -/
  | ssub (d a b : BitVec 6)
  /-- SMUL (R407). -/
  | smul (d a b : BitVec 6)
  /-- SMULH (R407). -/
  | smulh (d a b : BitVec 6)
  /-- SAND (R407). -/
  | sand (d a b : BitVec 6)
  /-- SOR (R407). -/
  | sor (d a b : BitVec 6)
  /-- SXOR (R407). -/
  | sxor (d a b : BitVec 6)
  /-- SSHL (R407). -/
  | sshl (d a b : BitVec 6)
  /-- SSHR (R407). -/
  | sshr (d a b : BitVec 6)
  /-- SSRA (R407). -/
  | ssra (d a b : BitVec 6)
  /-- SMIN (R407). -/
  | smin (d a b : BitVec 6)
  /-- SMAX (R407). -/
  | smax (d a b : BitVec 6)
  /-- SCMP (R407). -/
  | scmp (c : BitVec 4) (d a b : BitVec 6)
  /-- SADD64 (R407). -/
  | sadd64 (d a b : BitVec 6)
  /-- SSUB64 (R407). -/
  | ssub64 (d a b : BitVec 6)
  /-- SADDI (R408). -/
  | saddi (d a : BitVec 6) (imm : BitVec 14)
  /-- SANDI (R408). -/
  | sandi (d a : BitVec 6) (imm : BitVec 14)
  /-- SORI (R408). -/
  | sori (d a : BitVec 6) (imm : BitVec 14)
  /-- SXORI (R408). -/
  | sxori (d a : BitVec 6) (imm : BitVec 14)
  /-- SSHLI (R408). -/
  | sshli (d a : BitVec 6) (n : BitVec 5)
  /-- SSHRI (R408). -/
  | sshri (d a : BitVec 6) (n : BitVec 5)
  /-- SSRAI (R408). -/
  | ssrai (d a : BitVec 6) (n : BitVec 5)
  /-- SLUI (R409). -/
  | slui (d : BitVec 6) (imm : BitVec 20)
  /-- SLD (R411). -/
  | sld (d a mode : BitVec 6) (off : BitVec 8)
  /-- SST (R411). -/
  | sst (d a mode : BitVec 6) (off : BitVec 8)
  /-- SLDC (R413). -/
  | sldc (d a : BitVec 6) (off : BitVec 12) (w : BitVec 2)
  /-- BRA (R415). -/
  | bra (c : BitVec 4) (a : BitVec 6) (off : BitVec 16)
  /-- JMP (R415). -/
  | jmp (imm : BitVec 26)
  /-- CALL (R415). -/
  | call (imm : BitVec 26)
  /-- RET (R415). -/
  | ret (a : BitVec 6)
  /-- LOOP (R416). -/
  | loop (c : BitVec 4) (a : BitVec 6) (off : BitVec 16)
  /-- VRUN (R417). -/
  | vrun (imm : BitVec 26)
  /-- VRUNR (R417). -/
  | vrunr (a : BitVec 6)
  /-- SYNCL (R418). -/
  | syncl (d : BitVec 6)
  /-- SYNCL_RESUME (R418). -/
  | synclResume (d : BitVec 6)
  /-- SWAIT (R420). -/
  | swait (b : BitVec 6) (path : BitVec 3)
  /-- BARA (R242). -/
  | bara (d a : BitVec 6)
  /-- BARW (R243). -/
  | barw (a b : BitVec 6)
  /-- SMON (R246). -/
  | smon (a : BitVec 6)
  /-- SMWAIT (R248). -/
  | smwait (d b : BitVec 6)
  /-- FENCE (R423). -/
  | fence (scope : BitVec 3) (ord : BitVec 2)
  /-- RACQ (R301). -/
  | racq (a b : BitVec 6)
  /-- RACQ_ALL_DIE (R305). -/
  | racqAllDie (a b : BitVec 6)
  /-- RACQ_ALL_DEVICE (R305). -/
  | racqAllDevice (a : BitVec 6)
  /-- RBGET (R172). -/
  | rbget (first : BitVec 6) (count : BitVec 5)
  /-- RBPUT (R174). -/
  | rbput (first : BitVec 6) (count : BitVec 5)
  /-- PHASE (R216). -/
  | phase (a b : BitVec 6) (cls : BitVec 8)
  /-- RGN (R323). -/
  | rgn
  /-- LAUNCH (R505). -/
  | launch (a : BitVec 6)
  /-- FEED (R497). -/
  | feed (a b : BitVec 6) (scope : BitVec 3)
  /-- COPY (R501). -/
  | copy (a b : BitVec 6) (scope : BitVec 3)
  /-- COPY_RESUME (R502). -/
  | copyResume (a b : BitVec 6) (scope : BitVec 3)
  /-- NBR (R504). -/
  | nbr (a b : BitVec 6) (scope : BitVec 3)
  /-- SREAD (R427). -/
  | sread (d : BitVec 6) (num : BitVec 14)
  /-- SWRITE (R427). -/
  | swrite (a : BitVec 6) (num : BitVec 14)
  /-- TRAP (R428). -/
  | trap (code : BitVec 20)
  /-- ERET (R343). -/
  | eret
  /-- EXIT (R430). -/
  | exit
  /-- IADD (R434). -/
  | iadd (h : Hdr) (f : L3)
  /-- ISUB (R434). -/
  | isub (h : Hdr) (f : L3)
  /-- IMUL (R434). -/
  | imul (h : Hdr) (f : L3)
  /-- IMULH (R434). -/
  | imulh (h : Hdr) (f : L3)
  /-- IMAD (R434). -/
  | imad (h : Hdr) (f : L3)
  /-- IMIN (R434). -/
  | imin (h : Hdr) (f : L3)
  /-- IMAX (R434). -/
  | imax (h : Hdr) (f : L3)
  /-- IABS (R434). -/
  | iabs (h : Hdr) (f : L3)
  /-- INEG (R434). -/
  | ineg (h : Hdr) (f : L3)
  /-- IAND (R435). -/
  | iand (h : Hdr) (f : L3)
  /-- IOR (R435). -/
  | ior (h : Hdr) (f : L3)
  /-- IXOR (R435). -/
  | ixor (h : Hdr) (f : L3)
  /-- INOT (R435). -/
  | inot (h : Hdr) (f : L3)
  /-- ISHL (R435). -/
  | ishl (h : Hdr) (f : L3)
  /-- ISHR (R435). -/
  | ishr (h : Hdr) (f : L3)
  /-- ISRA (R435). -/
  | isra (h : Hdr) (f : L3)
  /-- IROT (R435). -/
  | irot (h : Hdr) (f : L3)
  /-- ISET (R436). -/
  | iset (h : Hdr) (f : L3)
  /-- ISEL (R436). -/
  | isel (h : Hdr) (f : L3)
  /-- POPC (R435). -/
  | popc (h : Hdr) (f : L3)
  /-- CLZ (R435). -/
  | clz (h : Hdr) (f : L3)
  /-- BREV (R435). -/
  | brev (h : Hdr) (f : L3)
  /-- BFX (R437). -/
  | bfx (h : Hdr) (f : L3)
  /-- BFI (R437). -/
  | bfi (h : Hdr) (f : L3)
  /-- MOV (R438). -/
  | mov (h : Hdr) (f : L3)
  /-- MOVI (R438). -/
  | movi (h : Hdr) (f : LI)
  /-- LADD (R439). -/
  | ladd (h : Hdr) (f : L3)
  /-- LSUB (R439). -/
  | lsub (h : Hdr) (f : L3)
  /-- LSHL (R439). -/
  | lshl (h : Hdr) (f : L3)
  /-- LSHR (R439). -/
  | lshr (h : Hdr) (f : L3)
  /-- LSRA (R439). -/
  | lsra (h : Hdr) (f : L3)
  /-- LSET (R439). -/
  | lset (h : Hdr) (f : L3)
  /-- LMIN (R439). -/
  | lmin (h : Hdr) (f : L3)
  /-- LMAX (R439). -/
  | lmax (h : Hdr) (f : L3)
  /-- LMULW (R439). -/
  | lmulw (h : Hdr) (f : L3)
  /-- LSEL (R439). -/
  | lsel (h : Hdr) (f : L3)
  /-- FADD (R441). -/
  | fadd (h : Hdr) (f : L3)
  /-- FSUB (R441). -/
  | fsub (h : Hdr) (f : L3)
  /-- FMUL (R441). -/
  | fmul (h : Hdr) (f : L3)
  /-- FFMA (R441). -/
  | ffma (h : Hdr) (f : L3)
  /-- FMIN (R442). -/
  | fmin (h : Hdr) (f : L3)
  /-- FMAX (R442). -/
  | fmax (h : Hdr) (f : L3)
  /-- FSET (R442). -/
  | fset (h : Hdr) (f : L3)
  /-- FRND (R443). -/
  | frnd (h : Hdr) (f : L3)
  /-- FCLASS (R443). -/
  | fclass (h : Hdr) (f : L3)
  /-- DADD (R441). -/
  | dadd (h : Hdr) (f : L3)
  /-- DSUB (R441). -/
  | dsub (h : Hdr) (f : L3)
  /-- DMUL (R441). -/
  | dmul (h : Hdr) (f : L3)
  /-- DFMA (R441). -/
  | dfma (h : Hdr) (f : L3)
  /-- DMIN (R442). -/
  | dmin (h : Hdr) (f : L3)
  /-- DMAX (R442). -/
  | dmax (h : Hdr) (f : L3)
  /-- DSET (R442). -/
  | dset (h : Hdr) (f : L3)
  /-- DRND (R443). -/
  | drnd (h : Hdr) (f : L3)
  /-- HADD2 (R444). -/
  | hadd2 (h : Hdr) (f : L3)
  /-- HMUL2 (R444). -/
  | hmul2 (h : Hdr) (f : L3)
  /-- HFMA2 (R444). -/
  | hfma2 (h : Hdr) (f : L3)
  /-- HMIN2 (R444). -/
  | hmin2 (h : Hdr) (f : L3)
  /-- HMAX2 (R444). -/
  | hmax2 (h : Hdr) (f : L3)
  /-- HSET2 (R444). -/
  | hset2 (h : Hdr) (f : L3)
  /-- CVT (R446). -/
  | cvt (h : Hdr) (f : L3)
  /-- PK8 (R447). -/
  | pk8 (h : Hdr) (f : L3)
  /-- UPK8 (R447). -/
  | upk8 (h : Hdr) (f : L3)
  /-- PK16 (R447). -/
  | pk16 (h : Hdr) (f : L3)
  /-- UPK16 (R447). -/
  | upk16 (h : Hdr) (f : L3)
  /-- RCP (R449). -/
  | rcp (h : Hdr) (f : L3)
  /-- RSQ (R449). -/
  | rsq (h : Hdr) (f : L3)
  /-- SQRT (R449). -/
  | sqrt (h : Hdr) (f : L3)
  /-- EX2 (R449). -/
  | ex2 (h : Hdr) (f : L3)
  /-- LG2 (R449). -/
  | lg2 (h : Hdr) (f : L3)
  /-- SIN (R449). -/
  | sin (h : Hdr) (f : L3)
  /-- COS (R449). -/
  | cos (h : Hdr) (f : L3)
  /-- TANH (R449). -/
  | tanh (h : Hdr) (f : L3)
  /-- DRCP (R449). -/
  | drcp (h : Hdr) (f : L3)
  /-- DRSQ (R449). -/
  | drsq (h : Hdr) (f : L3)
  /-- SHFL (R453). -/
  | shfl (h : Hdr) (f : L3)
  /-- BCAST (R454). -/
  | bcast (h : Hdr) (f : L3)
  /-- VOTE (R455). -/
  | vote (h : Hdr) (f : L3)
  /-- REDUX (R456). -/
  | redux (h : Hdr) (f : L3)
  /-- FREDUX (R457). -/
  | fredux (h : Hdr) (f : L3)
  /-- SCAN (R458). -/
  | scan (h : Hdr) (f : L3)
  /-- MATCH (R459). -/
  | matchL (h : Hdr) (f : L3)
  /-- ELECT (R459). -/
  | elect (h : Hdr) (f : L3)
  /-- LD (R463). -/
  | ld (h : Hdr) (f : LM)
  /-- ST (R465). -/
  | st (h : Hdr) (f : LM)
  /-- LDC (R467). -/
  | ldc (h : Hdr) (f : LM)
  /-- PRF (R468). -/
  | prf (h : Hdr) (f : LM)
  /-- WBL (R469). -/
  | wbl (h : Hdr) (f : LM)
  /-- INVL (R469). -/
  | invl (h : Hdr) (f : LM)
  /-- ATOM (R473). -/
  | atom (h : Hdr) (f : LM)
  /-- CAS (R474). -/
  | cas (h : Hdr) (f : LM)
  /-- RED (R476). -/
  | red (h : Hdr) (f : LM)
  /-- ATOMF (R473). -/
  | atomf (h : Hdr) (f : LM)
  /-- PAND (R478). -/
  | pand (h : Hdr) (f : L3)
  /-- POR (R478). -/
  | por (h : Hdr) (f : L3)
  /-- PXOR (R478). -/
  | pxor (h : Hdr) (f : L3)
  /-- PNOT (R478). -/
  | pnot (h : Hdr) (f : L3)
  /-- LBRA (R235). -/
  | lbra (h : Hdr) (f : LC)
  /-- LJOIN (R237). -/
  | ljoin (h : Hdr) (f : LC)
  /-- LCALL (R481). -/
  | lcall (h : Hdr) (f : LC)
  /-- LRET (R481). -/
  | lret (h : Hdr) (f : LC)
  /-- LEXIT (R238). -/
  | lexit (h : Hdr) (f : L3)
  /-- NOP (R482). -/
  | nop (h : Hdr) (f : L3)
  /-- MMA (R486). -/
  | mma (h : Hdr) (f : LX)
  /-- MMAG (R488). -/
  | mmag (h : Hdr) (f : LX)
  /-- MMAW (R486). -/
  | mmaw (h : Hdr) (f : LX)
  /-- ACCZ (R492). -/
  | accz (h : Hdr) (f : LX)
  /-- ACCLD (R493). -/
  | accld (h : Hdr) (f : LX)
  /-- ACCST (R493). -/
  | accst (h : Hdr) (f : LX)
  /-- ACCMV (R494). -/
  | accmv (h : Hdr) (f : LX)
  /-- PRIMOUT (R510). -/
  | primout (h : Hdr) (f : L3)
  /-- BINNEXT (R511). -/
  | binnext (h : Hdr) (f : L3)
  /-- RASTQ (R512). -/
  | rastq (h : Hdr) (f : L3)
  /-- TEX (R516). -/
  | tex (h : Hdr) (f : L3)
  /-- ZTEST (R513). -/
  | ztest (h : Hdr) (f : L3)
  /-- TILEW (R514). -/
  | tilew (h : Hdr) (f : L3)
  /-- TILERD (R515). -/
  | tilerd (h : Hdr) (f : L3)
  /-- TILEFL (R518). -/
  | tilefl (h : Hdr) (f : L3)
  /-- REGISTER_WRITE (R8). -/
  | registerWrite (addr : Nat) (wide : Bool) (val : BitVec 64) (sec : Bool)
  /-- PKGPWR_LIMIT_WRITE (R39). -/
  | pkgpwrLimitWrite (val : BitVec 64)
  /-- POWER_WINDOW_END (R37). -/
  | powerWindowEnd (avg : BitVec 16)
  /-- SUPPLY_EVENT (R40). -/
  | supplyEvent (milliVolt micros : Nat)
  /-- SUPPLY_RESTORE (R40). -/
  | supplyRestore (milliVolt : Nat)
  /-- THERMAL_WARNING (R41). -/
  | thermalWarning (site temp : Nat)
  /-- THERMAL_STOP (R41). -/
  | thermalStop (site temp : Nat)
  /-- THERMAL_RESTORE (R41). -/
  | thermalRestore (site temp : Nat)
  /-- FLIT_REPLAY (R43). -/
  | flitReplay (site dir : Nat)
  /-- MODULE_DISABLE (R44). -/
  | moduleDisable (site dir modl : Nat)
  /-- ROUTER_RECEIVE (R51). -/
  | routerReceive (router : Nat) (hdr : BitVec 128) (set : BitVec 48) (slot : Nat)
  /-- REQUEST_TIMEOUT (R57). -/
  | requestTimeout (w : WRef) (tag : BitVec 16)
  /-- MEMORY_PORT_REQUEST (R58). -/
  | memoryPortRequest (site : Nat) (r : Req)
  /-- UNCORRECTABLE_ERROR (R331). -/
  | uncorrectableError (site : Nat) (e : ErrAt)
  /-- MEMORY_COMPLETION (R250). -/
  | memoryCompletion (w : WRef) (tag : BitVec 16)
  /-- RTCMD_GO_SIGN (R60). -/
  | rtcmdGoSign (val : BitVec 64)
  /-- RTCMD_GO_UNSIGNED (R60). -/
  | rtcmdGoUnsigned (val : BitVec 64)
  /-- ROUTE_SIGN_DONE (R61). -/
  | routeSignDone
  /-- ROUTER_PREPARE (R62). -/
  | routerPrepare (router : Nat)
  /-- PREPARE_ANSWER (R63). -/
  | prepareAnswer (router : Nat)
  /-- PREPARE_TIMEOUT (R62). -/
  | prepareTimeout (router : Nat)
  /-- ROUTE_ABORT_RETRY (R63). -/
  | routeAbortRetry
  /-- DRAIN_MARKER_RECEIVE (R64). -/
  | drainMarkerReceive (src dst cls : Nat)
  /-- DRAIN_MARKER_ACK (R64). -/
  | drainMarkerAck (src dst cls : Nat)
  /-- DRAIN_MARKER_RESEND (R332). -/
  | drainMarkerResend (src dst cls : Nat)
  /-- DIE_RESET_START (R68). -/
  | dieResetStart (site : Nat)
  /-- NEIGHBOR_FENCE (R68). -/
  | neighborFence (site dir : Nat)
  /-- DIE_FAILURE (R69). -/
  | dieFailure (site : Nat)
  /-- DIE_DOWN_NOTICE (R68). -/
  | dieDownNotice (site down : Nat)
  /-- DIE_RELEASE (R107). -/
  | dieRelease (r : DieTest)
  /-- TRANSIENT_REQUEST (R78). -/
  | transientRequest (site line : Nat) (write : Bool)
  /-- TRANSIENT_REQUEST_RECEIVE (R78). -/
  | transientRequestReceive (holder site line : Nat) (write : Bool)
  /-- TOKEN_RECEIVE (R79). -/
  | tokenReceive (k : Nat)
  /-- TRANSIENT_RETRY (R79). -/
  | transientRetry (site line : Nat)
  /-- PERSISTENT_CONVERT (R79). -/
  | persistentConvert (site line : Nat)
  /-- PERSISTENT_REQUEST (R80). -/
  | persistentRequest (home site line : Nat)
  /-- PERSISTENT_ACTIVATE (R81). -/
  | persistentActivate (home : Nat)
  /-- ACTIVATE_RECEIVE (R81). -/
  | activateReceive (site line : Nat)
  /-- DEACTIVATE (R81). -/
  | deactivate (site line : Nat)
  /-- PERS_REBROADCAST (R332). -/
  | persRebroadcast (home line : Nat)
  /-- CLUSTER_HELD_AGE (R74). -/
  | clusterHeldAge (site slice line : Nat)
  /-- RECREATION_SWEEP (R84). -/
  | recreationSweep (home line : Nat)
  /-- CENSUS_ACTIVATE (R85). -/
  | censusActivate (site line : Nat)
  /-- CENSUS_COMPLETE (R85). -/
  | censusComplete (line : Nat)
  /-- REPLICA_READ (R94). -/
  | replicaRead (site page entry : Nat)
  /-- REPLICA_DEMOTE (R95). -/
  | replicaDemote (home page : Nat)
  /-- REPLICA_INVALIDATE (R95). -/
  | replicaInvalidate (site page : Nat)
  /-- REPLICA_DEMOTE_DONE (R95). -/
  | replicaDemoteDone (home page : Nat)
  /-- HOME_FLUSH (R97). -/
  | homeFlush (site : Nat) (val : BitVec 64)
  /-- HOME_REPLCLR (R98). -/
  | homeReplclr (site : Nat) (val : BitVec 64)
  /-- HOME_BADOP (R98). -/
  | homeBadop (site : Nat) (val : BitVec 64)
  /-- HOME_CMD_DONE (R98). -/
  | homeCmdDone (site : Nat)
  /-- BOOT_ROM (R102). -/
  | bootRom (aOk bOk : Bool) (digest : BitVec 256)
  /-- BOOT_HUB (R102). -/
  | bootHub (aOk bOk : Bool) (digest : BitVec 256)
  /-- BOOT_DIES (R102). -/
  | bootDies (rs : List DieTest)
  /-- BOOT_SELFTEST (R104). -/
  | bootSelftest (rs : List DieTest)
  /-- BOOT_ROUTE (R105). -/
  | bootRoute
  /-- BOOT_KEYS (R112). -/
  | bootKeys (p : Option Policy)
  /-- BOOT_DONE (R102). -/
  | bootDone
  /-- GET_VERSION (R110). -/
  | getVersion
  /-- GET_CAPABILITIES (R110). -/
  | getCapabilities
  /-- NEGOTIATE_ALGORITHMS (R110). -/
  | negotiateAlgorithms (asym hash meas : Nat)
  /-- GET_DIGESTS (R110). -/
  | getDigests
  /-- GET_CERTIFICATE (R110). -/
  | getCertificate (slot off len : Nat)
  /-- CHALLENGE (R110). -/
  | challenge (slot : Nat) (nonce : BitVec 256)
  /-- GET_MEASUREMENTS (R109, R110): `sign` is the slot whose key is to sign, none where no signature is asked for. -/
  | getMeasurements (op : Nat) (sign : Option Nat) (nonce : BitVec 256)
  /-- SPDM_UNSUPPORTED (R110). -/
  | spdmUnsupported (code : Nat)
  /-- SECRANGE_WRITE (R115). -/
  | secrangeWrite (site i : Nat) (val : BitVec 64) (sec : Bool)
  /-- SECRANGE_ZEROFILL_DONE (R115). -/
  | secrangeZerofillDone (site i : Nat)
  /-- BAR2_READ (R125). -/
  | bar2Read (off size : Nat)
  /-- BAR2_WRITE (R125). -/
  | bar2Write (off : Nat) (data : List Byte)
  /-- SQ_START (R129). -/
  | sqStart (q : Nat) (val : BitVec 64) (sec : Bool)
  /-- SQ_STOP (R129). -/
  | sqStop (q : Nat) (val : BitVec 64) (sec : Bool)
  /-- SQ_DOORBELL (R130). -/
  | sqDoorbell (q : Nat) (val : BitVec 64) (low sec : Bool)
  /-- CQ_DOORBELL (R130). -/
  | cqDoorbell (q : Nat) (val : BitVec 64) (low sec : Bool)
  /-- GCP_READ_ENTRY (R131). -/
  | gcpReadEntry (q : Nat)
  /-- WAITLIST_RESOLVE (R156). -/
  | waitlistResolve (g : Nat)
  /-- GRID_ADMIT (R158). -/
  | gridAdmit (g : Nat)
  /-- NOTBEFORE_RELEASE (R149). -/
  | notbeforeRelease (site g : Nat)
  /-- TEAM_PLACE (R161). -/
  | teamPlace (site : Nat)
  /-- RUN_START (R233). -/
  | runStart (w : WRef)
  /-- RUN_END (R232). -/
  | runEnd (w : WRef)
  /-- ISSUE_SELECT (R169). -/
  | issueSelect (site core dt : Nat)
  /-- STARVATION_PROMOTE (R169). -/
  | starvationPromote (w : WRef)
  /-- MATRIX_ACCEPT (R487). -/
  | matrixAccept (site core pipe : Nat)
  /-- RBGET_SERVE (R173). -/
  | rbgetServe (site core : Nat)
  /-- TEAM_END (R165). -/
  | teamEnd (team : Nat)
  /-- GRID_FINAL_STATUS (R133). -/
  | gridFinalStatus (g : Nat)
  /-- COMPLETION_ENTRY_WRITE (R133). -/
  | completionEntryWrite (q : Nat)
  /-- MSIX_COALESCE_TIMEOUT (R133). -/
  | msixCoalesceTimeout (q : Nat)
  /-- DEADLINE_EXPIRE (R166). -/
  | deadlineExpire (g : Nat)
  /-- EVTSTAT_CLEAR (R136). -/
  | evtstatClear (val : BitVec 64)
  /-- DALEC_PORT_CHANGE (R141). -/
  | dalecPortChange (port state : Nat)
  /-- PEER_REQUEST_RECEIVE (R142). -/
  | peerRequestReceive (port pkg : Nat) (r : Req)
  /-- PEER_REQUEST_TIMEOUT (R142). -/
  | peerRequestTimeout (w : WRef) (tag : BitVec 16)
  /-- PTP_SYNC (R148). -/
  | ptpSync (m : PtpMsg) (twoStep : Bool)
  /-- PTP_ANNOUNCE (R147). -/
  | ptpAnnounce (rank : Nat) (domain : Nat)
  /-- PPS_EDGE (R146): `ref` is by how much the 10 MHz input runs ahead of the device's own clock, in parts per billion. -/
  | ppsEdge (ref : Int)
  /-- ARP_REPLY (R147). -/
  | arpReply (ip : BitVec 32)
  /-- TIME_SOURCE_LOSS (R148). -/
  | timeSourceLoss
  /-- TSET_WRITE (R148). -/
  | tsetWrite (val : BitVec 64) (wide : Bool)
  /-- TCTL_WRITE (R146). -/
  | tctlWrite (val : BitVec 64)
  /-- FRAME_OPEN (R180). -/
  | frameOpen (f : Nat) (val : BitVec 64) (sec : Bool)
  /-- FRAME_ABORT (R181). -/
  | frameAbort (w : FrctlWrite) (sec : Bool)
  /-- GATE_PRIM_RECEIVE (R191). -/
  | gatePrimReceive (site f i : Nat)
  /-- GATE_MARKER_RECEIVE (R191). -/
  | gateMarkerReceive (site f draw team : Nat)
  /-- GATE_OBJECT_CHECK (R191). -/
  | gateObjectCheck (site f : Nat)
  /-- PARTIAL_RENDER_DONE (R194). -/
  | partialRenderDone (site f : Nat)
  /-- FRAME_LATCH_WRITE (R202). -/
  | frameLatchWrite (f : Nat)
  /-- ACTIVITY_WINDOW_END (R219). -/
  | activityWindowEnd (site core : Nat)
  /-- THROTTLE_END (R219). -/
  | throttleEnd (site core : Nat)
  /-- TLBI_ALL (R262). -/
  | tlbiAll (val : BitVec 64) (sec : Bool)
  /-- TLBI_ROOT (R262). -/
  | tlbiRoot (val : BitVec 64) (sec : Bool)
  /-- TLBI_PAGE (R262). -/
  | tlbiPage (val : BitVec 64) (sec : Bool)
  /-- TLBI_DONE (R262). -/
  | tlbiDone
  /-- FQBASE_ENABLE (R265). -/
  | fqbaseEnable (site world : Nat) (val : BitVec 64) (sec : Bool)
  /-- FQCMD_REPLAY (R267). -/
  | fqcmdReplay (site world : Nat) (val : BitVec 64) (sec : Bool)
  /-- FQCMD_KILL (R267). -/
  | fqcmdKill (site world : Nat) (val : BitVec 64) (sec : Bool)
  /-- FAULT_STALL_RETRY (R266). -/
  | faultStallRetry (site world : Nat)
  /-- WINDOW_ACCESS (R269). -/
  | windowAccess (core : Nat) (r : Req)
  /-- QCTL_WRITE (R280). -/
  | qctlWrite (site core k : Nat) (val : BitVec 64)
  /-- QSTAT_CLEAR (R280). -/
  | qstatClear (site core k : Nat) (val : BitVec 64)
  /-- PROMOTION_REQUEST (R302). -/
  | promotionRequest (site core line : Nat)
  /-- WATCH_FIRE (R247). -/
  | watchFire (w : WRef)
  /-- SMWAIT_TIMEOUT (R248). -/
  | smwaitTimeout (w : WRef)
  /-- FEED_ROW_APPEND (R500). -/
  | feedRowAppend (site core q : Nat)
  /-- ENGINE_COMPLETE (R307). -/
  | engineComplete (w : WRef) (tag : BitVec 16)
  /-- SSCB_COMPARE (R316). -/
  | sscbCompare (w : WRef)
  /-- WATCHDOG_EXPIRE (R349). -/
  | watchdogExpire (w : WRef)
  /-- PREEMPT (R351). -/
  | preempt (val : BitVec 64) (sec : Bool)
  /-- PREEMPT_COMPLETE (R351). -/
  | preemptComplete
  /-- RESUME (R356). -/
  | resume (val : BitVec 64) (sec : Bool)
  /-- TEAM_RESTORE (R356). -/
  | teamRestore (site : Nat)
  /-- MATRIX_UNIT_FINISH (R490). -/
  | matrixUnitFinish (site core : Nat)
  /-- GRANTED_START (R218). -/
  | grantedStart (site core : Nat)
  /-- PTP_FOLLOW_UP (R147). -/
  | ptpFollowUp (m : PtpMsg)
  /-- PTP_DELAY_RESP (R147). -/
  | ptpDelayResp (m : PtpMsg)
  /-- PTP_DELAY_REQ (R147). -/
  | ptpDelayReq
  /-- PPSSEEN_EXPIRE (R148). -/
  | ppsseenExpire
  /-- END_OF_TEAM_MARKER_ACK (R189). -/
  | endOfTeamMarkerAck (team site : Nat)
  /-- FRAME_OPEN_RECEIVE (R180). -/
  | frameOpenReceive (site f : Nat)
  /-- FRAME_OPEN_ACK (R180). -/
  | frameOpenAck (site f : Nat)
  /-- CENSUS_MARK_RECEIVE (R85). -/
  | censusMarkReceive (site src line : Nat)
  /-- HOST_CONFIGURATION_REQUEST (R106). -/
  | hostConfigurationRequest (write : Bool) (reg : Nat) (val : BitVec 32)
  deriving DecidableEq, Repr

end Sys2Proof
end

