-- ==== Sys2Proof/Machine/State.lean ====
section
/-! DEFINITION. The state of one X48 package as plain data: every piece of state the spec names (INVENTORY.md lists each
with its rule), the reasons a step can stop, and the state after package reset. -/
namespace Sys2Proof.Machine

/-- Why the machine stops. -/
inductive Fault where
  /-- Raised by the step alone: the package stays in reset because both trust or both hub firmware copies failed (R103).
  Safe: the spec lets nothing run there. -/
  | bootFailed
  deriving DecidableEq, Repr

/-- Why an operation has no meaning. -/
inductive Refusal where
  /-- Raised by an arm of the dispatch whose operation has no meaning yet, with its mnemonic. Safe: nothing is claimed. -/
  | notModelled (mnemonic : String)
  deriving DecidableEq, Repr

/-- Whose instruction is fetched next: a warp, and its scalar stream (`none`) or one of its lane PC slots. -/
structure Turn where
  site : Nat
  core : Nat
  slot : Nat
  lane : Option Bool
  deriving DecidableEq, Repr

/-- State of a lane PC slot (R233). -/
inductive SlotSt where
  | empty | live | wait | held
  deriving DecidableEq, Repr

/-- A lane PC slot: state, lane PC, lane mask, the instructions its path has issued in this run (R230), and its age: a
path with a lower number came into being earlier (R233, R235). -/
structure Path where
  st : SlotSt
  pc : Word
  mask : Word
  cnt : Nat
  age : Nat
  deriving DecidableEq, Repr

/-- An entry of the divergence stack (R233), with the count the path keeps (R230) and its age. -/
structure StackEnt where
  pc : Word
  mask : Word
  cnt : Nat
  age : Nat
  deriving DecidableEq, Repr

/-- Both lane PC slots, the age of the next path, and the divergence stack, most recent entry first. -/
structure LaneCtx where
  s0 : Path
  s1 : Path
  next : Nat
  stack : List StackEnt
  deriving DecidableEq, Repr

/-- A run entry (R227): start or resume, lane PC, captured s0-s63, and the scalar PC that enqueued it. -/
structure RunEnt where
  resume : Bool
  pc : Word
  caps : FMap Word
  enq : Word
  deriving DecidableEq, Repr

/-- The lane state that trap entry sets aside (R338), with the SYNCL.RESUME that has enqueued its entry (R418). -/
structure Aside where
  lane : LaneCtx
  queue : List RunEnt
  running : Option RunEnt
  resAt : Option Word
  deriving DecidableEq, Repr

/-- A fixed-latency result not written back yet (R213): register or predicate number, lanes, clk still missing. -/
structure Haz where
  pred : Bool
  num : Nat
  mask : Word
  left : Nat
  deriving DecidableEq, Repr

/-- Destination registers of a LOAD-path operation that no SWAIT has counted yet (R464). -/
structure LdHaz where
  tag : BitVec 16
  num : Nat
  n : Nat
  mask : Word
  deriving DecidableEq, Repr

/-- What a warp is parked on (R355). `fault` holds the SEQs of the fault records waited on, each with the lanes and the
address that faulted, whether the warp stalls, and the lane slot whose instruction faulted. -/
inductive Park where
  | none
  | barw (va : DWord) (g : BitVec 16)
  | swait (path thr : Nat)
  | smwait (d : BitVec 6) (left : Option Nat)
  | rbget (b c : Nat)
  | fault (waits : List (Nat × Word × DWord)) (stalled : Bool) (lane : Option Bool)
  deriving DecidableEq, Repr

/-- Where a translated access goes (R257): package memory, the host, or a peer. -/
inductive Kind where
  | localMem | host | peer
  deriving DecidableEq, Repr

/-- A translated address: kind, physical address in its space, placement attribute, die set, secure bit, the page
base, page-entry address and size (2 GiB or 512 KiB) that a replica needs (R94), and the DSMASK register that the page names (R88). -/
structure Tr where
  kind : Kind
  pa : Nat
  attr : Nat
  set : BitVec 48
  sec : Bool
  page : Nat
  entry : Nat
  big : Bool := false
  mask : Option Nat := none
  deriving DecidableEq, Repr

/-- One lane's share of a memory operation: lane, virtual address, where it goes, size in bytes, value read or written,
the completion status (R50), and the SEQ of the request it made (R56, R57). -/
structure LaneRes where
  lane : Nat
  va : DWord
  tr : Tr
  size : Nat
  val : BitVec 256
  status : Nat
  seq : Option Nat := none
  deriving DecidableEq, Repr

/-- An operation in flight on one of the four paths (R249, R344). `dst` is the first destination register, `width` its
registers per lane, `ext` the sign extension of a narrow load; `op` says what the accesses are (0 load, 1 store, 2 CAS,
16 + AOP an atomic, 3 none, 4 a write-back and 5 a discard of an L1 line, 6 a tile that the matrix unit has yet to move, 7 packets that gates have yet to take, 8 a bin entry not handed out yet);
`fmask` the lanes that a record of `cause` names; `held` marks accesses that the SSCB holds back (R316); `done` marks a completion not yet
counted (R250). -/
structure AsyncOp where
  tag : BitVec 16
  path : Nat
  pc : Word
  isLane : Bool
  slot1 : Bool
  dst : Option Nat
  width : Nat
  ext : Bool
  acq : Bool
  res : List LaneRes
  base : DWord
  len : Nat
  off : Nat
  cause : Nat
  detail : Nat
  fmask : Word
  retries : Nat
  engine : Bool
  held : Bool
  op : Nat
  order : Nat
  scope : Nat
  hint : Nat
  done : Bool
  deriving DecidableEq, Repr

/-- A pending asynchronous record (R344, R345). -/
structure AsyncRec where
  tag : BitVec 16
  path : Nat
  cause : Word
  tinfo : List Word
  taddr : DWord
  tfmask : Word
  extra : Nat
  deriving DecidableEq, Repr

/-- A latched guard fault (R277); `tag` is the warp's next operation tag at its first access (R345). -/
structure GuardLatch where
  off : BitVec 19
  bank : BitVec 4
  count : Nat
  tag : BitVec 16
  deriving DecidableEq, Repr

/-- An armed watch (R246): the line watched (its key names the address space), whether it can fire, and its latch. -/
structure Watch where
  line : Nat
  near : Bool
  fired : Bool
  deriving DecidableEq, Repr

/-- An LVQ entry (R314): stream tag, check entry or value, 128 bytes, and whether they have arrived (a held atomic's
result has not: `tag` names the operation). A trap of the leading warp is a check entry of its own (R317), with the
instructions of each stream that the leading warp had issued. -/
structure LvqEnt where
  lane : Bool
  check : Bool
  val : BitVec 1024
  ready : Bool
  tag : BitVec 16
  trap : Bool
  nS : Nat
  nL : Nat
  deriving DecidableEq, Repr

/-- A held leading operation in the SSCB (R316): stream tag, signature, the instruction with its PC, the asynchronous
operation it is (its tag and path), whether the signature is known yet (that of an ACCST is once its tile is read, R495),
and whether the trailing warp's has matched. -/
structure SscbEnt where
  lane : Bool
  sig : BitVec 64
  ins : Instr
  pc : Word
  tag : BitVec 16
  path : Nat
  ready : Bool
  matched : Bool
  deriving DecidableEq, Repr

/-- The current batch of a warp (R198, R509): block, covered lanes, and whether its ordered step is open (R199). -/
structure Batch where
  blk : Nat
  cov : Word
  opened : Bool
  deriving DecidableEq, Repr

/-- A warp in its slot. A pair's LVQ, SSCB, signatures of the trailing warp, issue trace (R314 to R316) and the values of
clklo its leading warp has read (R388) stand with the trailing warp. `nS` and `nL` count the instructions a warp of a pair
has issued in its streams, `leadS` and `leadL` those of its leader, which it never passes (R318); `resAt` is the PC of a SYNCL.RESUME that has enqueued its entry and drains (R418);
`signed` marks a
trailing warp's atomic that awaits its result (R319). `parkPast` counts the clk of the present park that passed on another core
(R349, R356), `drainAt` is the next operation's tag at the latest draining instruction (R290), and `restAt` the clk of the latest
restart (R328). -/
structure Warp where
  resident : Bool
  team : Nat
  wid : Nat
  shadow : Bool
  mate : Option WRef
  s : FMap Word
  pc : Word
  p : FMap Word
  t : FMap Word
  tWr : BitVec 256
  lane : LaneCtx
  exited : Word
  queue : List RunEnt
  running : Option RunEnt
  lastOne : Bool
  park : Park
  parkAt : Nat
  resAt : Option Word
  cnt : FMap Nat
  ops : List AsyncOp
  tag : BitVec 16
  haz : List Haz
  ldHaz : List LdHaz
  tcause : Word
  tpc : Word
  tlpc : DWord
  tamask : DWord
  tfmask : Word
  taddr : DWord
  tinfo : FMap Word
  hflag : Bool
  aside : Option Aside
  inRgn : Bool
  restarts : Nat
  snapPc : Word
  snap : LaneCtx
  watch : Option Watch
  recs : List AsyncRec
  guard : Option GuardLatch
  throt : Word
  pinned : BitVec 48
  startWin : Nat
  readySince : Nat
  oldest : Bool
  sSince : Nat
  sOldest : Bool
  lvq : List LvqEnt
  sscb : List SscbEnt
  sigs : List (Bool × Option (BitVec 64))
  trace : List Bool
  clks : List Word
  nS : Nat
  nL : Nat
  leadS : Nat
  leadL : Nat
  signed : Bool
  prim : Option Nat
  batch : Option Batch
  binWait : Option (Nat × AsyncOp)
  joins : FMap Nat
  parkPast : Nat := 0
  drainAt : BitVec 16 := 0
  restAt : Option Nat := none
  deriving DecidableEq, Repr

/-- A register-cache block place (R273). -/
structure Place where
  valid : Bool
  pinned : Bool
  reserve : Bool
  dirty : Bool
  slot : Nat
  block : Nat
  deriving DecidableEq, Repr

/-- A line of an L1 (R281): 128 bytes, which bytes the L1 holds, which are dirty, and whether it is one to evict first (R282). -/
structure L1Line where
  data : BitVec 1024
  valid : BitVec 128
  dirty : BitVec 128
  strm : Bool := false
  deriving DecidableEq, Repr

/-- A promotion-log entry (R298). -/
structure PlogEnt where
  line : Option Nat
  seq : BitVec 16
  slot : Nat
  deriving DecidableEq, Repr

/-- An operand queue (R279, R280); `head2` and `left2` are the trailing warps' head and rows (R312). -/
structure OpQueue where
  head : Nat
  left : Nat
  head2 : Nat
  left2 : Nat
  tail : Nat
  err : Bool
  deriving DecidableEq, Repr

/-- A class B instruction at its pipe or accepted (R206, R490): its warp, lane slot and world, whether the warp is still
there, active lanes, format block, MMAG counts, which queue heads it moves (0 both, 1 the leading warps', 2 the trailing
warps', R312), the quarter or group it has reached, its address and tile data, the operation it counts as, the granted start that it has to wait
for (R218), and the tiles that a window store has made undefined meanwhile (R491). -/
structure MatOp where
  w : WRef
  one : Bool
  sec : Bool
  alive : Bool
  ins : Instr
  act : Word
  fb : BitVec 128
  counts : List Nat
  heads : Nat
  pos : Nat
  addr : DWord
  data : BitVec 8192
  mem : Option AsyncOp
  gate : Option Nat
  bad : List Nat := []
  deriving DecidableEq, Repr

/-- A declaration record (R216), in core clk. -/
structure PhaseRec where
  tg : Nat
  te : Nat
  cls : Nat
  deriving DecidableEq, Repr

/-- A TLB entry (R260): root and world of the requester that filled it, page, the page entry and its address. -/
structure TlbEnt where
  root : Nat
  sec : Bool
  big : Bool
  vpage : Nat
  pte : DWord
  entry : Nat
  deriving DecidableEq, Repr

/-- A walk-cache entry (R260): a level-1 or level-2 table entry for a virtual prefix. -/
structure WalkEnt where
  root : Nat
  sec : Bool
  level : Nat
  vidx : Nat
  tbl : DWord
  deriving DecidableEq, Repr

/-- A scratchpad allocation: first granule, granules with both guards, team (R275). -/
structure Alloc where
  first : Nat
  n : Nat
  team : Nat
  deriving DecidableEq, Repr

/-- What an engine operation does. -/
inductive EngKind where
  | feed | copy | nbr | flush
  deriving DecidableEq, Repr

/-- A pending engine operation (R496-R507): issuer, tag, descriptor bytes, format block, scope, root and world, the
logical neighbour of an NBR, what it has done so far, why it stopped, and whether the SSCB still holds it (R316). -/
structure EngOp where
  w : WRef
  tag : BitVec 16
  kind : EngKind
  desc : BitVec 1024
  fb : BitVec 128
  scope : Nat
  root : Nat
  sec : Bool
  nbr : Option Nat
  tile : Option (Nat × Nat)
  fin : Bool
  pos : Nat
  stop : Option Nat
  held : Bool
  deriving DecidableEq, Repr

/-- A primitive handed out for a tile (R197): its place in bin order, batches RASTQ has not returned, and
blocks that have not passed TILEW. -/
structure Handed where
  ord : Nat
  prim : Prim
  todo : List (Nat × Word)
  blocks : List Nat
  deriving DecidableEq, Repr

/-- A frame in its slot (R179-R202): descriptor, owner map, owner set, acknowledgements and closed gates, the latch's
release time, and tiles done. -/
structure Frame where
  desc : BitVec 2048
  own : List Nat
  sites : BitVec 48
  acks : BitVec 48
  opening : Bool
  closed : BitVec 48
  rel : Nat
  deriving DecidableEq, Repr

/-- A tile claimed by a team (R195): the frame slot, the frame that held it then, the tile, and whether that frame has ended
(R181). -/
structure Claim where
  frame : Nat
  fr : Frame
  ended : Bool
  tile : Nat
  team : Nat
  final : Bool
  nextOrd : Nat
  handed : List Handed
  flushing : Bool
  deriving DecidableEq, Repr

/-- A core position. `throttle` is the clk at which the PHASE throttle ends (R219), `win` the windows that have ended, `winCls`
the largest class declared in the current one, `ports` the scalar issues left in this clk (R169), `atoms` its atomic requests
without a completion, oldest first: SEQ, warp slot, operation tag (R56). `matAt` is one more than the clk of the matrix unit's last
acceptance (R206); `busy` the clk of the current window that it works in, and `busyTo` the clk at which its work ends (R219); `matGone`
the grids of warps that issued matrix work in the window and are here no more; `evicts` what each block held when it was written back,
by slot and block (R272, R274). -/
structure Core where
  clk : Nat
  world : Option Bool
  words : FMap Word
  places : FMap Place
  rbWait : List (Nat × Nat × Nat × Nat)
  loan : Option Nat
  l1 : FMap L1Line
  plog : List PlogEnt
  plogSeq : BitVec 16
  asked : Nat
  eager : Nat
  queues : FMap OpQueue
  matWait0 : Option MatOp
  matWait1 : Option MatOp
  matNext0 : Option MatOp := none
  matNext1 : Option MatOp := none
  matQ : List MatOp
  matLost : Bool
  matAt : Nat
  busy : Nat
  busyTo : Nat
  actLast : Nat
  win : Nat
  winCls : Option Nat
  matWarps : BitVec 64
  matGone : List Nat
  throttle : Nat
  viol : Nat
  phase : Option PhaseRec
  phLast : PhaseRec
  feeds : List EngOp
  pipe0 : Option Nat
  pipe1 : Option Nat
  lastSel : FMap Nat
  selCtr : Nat
  ports : Nat
  tlb : List TlbEnt
  alloc : List Alloc
  seq : Nat
  lwm : Nat
  atoms : List (Nat × Nat × BitVec 16)
  claims : List Claim
  evicts : FMap Nat := []
  deriving DecidableEq, Repr

/-- A line of cluster-held bytes in a slice (R74): data, byte mask, the cores that wrote it, whether its merge has
started, the clock at which it was taken, and the world of its page (R118). -/
structure Held where
  line : Nat
  data : BitVec 1024
  mask : BitVec 128
  cores : BitVec 48
  started : Bool
  born : Nat
  sec : Bool
  deriving DecidableEq, Repr

/-- A replica-directory entry of a home (R94, R95); `big` says that the page has 2 GiB, `held` lists the sites whose replica reads
wait behind the gate. -/
structure RepEnt where
  page : Nat
  entry : Nat
  sites : BitVec 48
  acks : BitVec 48
  demoted : Bool
  gate : Bool
  big : Bool
  held : List Nat
  deriving DecidableEq, Repr

/-- A die's request for a line (R78-R81): transient attempts made, persistent or not, the ticks of its first and of its
latest broadcast, the holders that have received the latest, and the routing generation of it (R64). -/
structure PendReq where
  line : Nat
  write : Bool
  tries : Nat
  persistent : Bool
  born : Nat
  sent : Nat
  seen : List Nat
  gen : Bool := false
  deriving DecidableEq, Repr

/-- An active persistent request at an arbiter (R81): line and requester. -/
structure ArbAct where
  line : Nat
  site : Nat
  deriving DecidableEq, Repr

/-- A pending fault record (R265, R266): SEQ, ring index, page, root, reason and waiters. -/
structure FRec where
  seq : Nat
  idx : Nat
  va : DWord
  root : Nat
  reason : Nat
  waiters : List WRef
  deriving DecidableEq, Repr

/-- A page fault that its queue could not take (R266): the warp, or else the grid whose descriptor the dispatcher reads (R396), the
address with the lanes that name it, the root and world it was translated in, the record's flags. -/
structure Stall where
  who : WRef
  va : Nat
  lanes : Word
  root : Nat
  flags : Nat
  kd : Option Nat := none
  deriving DecidableEq, Repr

/-- A fault queue (R265-R267): `stalled` holds the faults it could not take, oldest first. -/
structure FaultQ where
  next : Nat
  phase : Bool
  recs : List FRec
  stalled : List Stall
  deriving DecidableEq, Repr

/-- State of a tile (R195). -/
inductive TileSt where
  | binning | ready | claimed | spilled | done
  deriving DecidableEq, Repr

/-- An order gate with its bin memory (R191-R195): position, staging, the primitives being binned with the tiles still to
get them, markers, bins, tile states, tiles spilled, tiles
whose ready state belongs to a partial render, and whether packets are held. `cur` is the completion object and TEAMS of the
draw at the position (R184), `alloc` the pool chunks in use by list: 2 × tile for a bin, 2 × (draw, team) + 1 for a staging list
(R193). -/
structure Gate where
  d : Nat
  t : Nat
  cur : Option (Nat × Nat)
  alloc : List (Nat × Nat)
  staged : List Prim
  work : List (Prim × List Nat)
  marks : List (Nat × Nat)
  closed : Bool
  bins : FMap (List Prim)
  tiles : FMap TileSt
  spilled : List Nat
  part : List Nat
  full : Bool
  deriving DecidableEq, Repr

/-- A running home command (R98): FLUSH or REPLCLR, start address and 4 KiB units. -/
structure HomeCmd where
  flush : Bool
  addr : Nat
  count : Nat
  deriving DecidableEq, Repr

/-- A page fault of the die dispatcher on a grid's kernel descriptor (R396): grid, world, SEQ of the record it waits on (0
where the queue took none), and whether the record was killed. -/
structure KdWait where
  g : Nat
  world : Nat
  seq : Nat
  killed : Bool
  deriving DecidableEq, Repr

/-- The fuse defect map of a render die (R26, R104): core positions and slices removed, and the vector lanes removed of core
positions, in the layout of LMAP. -/
structure Fuses where
  cores : BitVec 48
  slices : BitVec 12
  lanes : List (Nat × Word)
  deriving DecidableEq, Repr

/-- A replica line that a slice of a die holds without tokens (R94): line, the page it is of, slice, and the world of the page
(R118). -/
structure RepLine where
  line : Nat
  page : Nat
  slice : Nat
  sec : Bool
  deriving DecidableEq, Repr

/-- A render die; `key0` and `key1` are the memory keys its controllers hold, `pub` the public half of the package key in its
router (R111, R112); `arbNew` counts the latest persistent requests, all of the clock `arbAt`, that are ordered by site among
themselves (R80). -/
structure Die where
  key0 : BitVec 512
  key1 : BitVec 512
  pub : BitVec 512
  fenced : BitVec 4
  half : Bool
  stop : Bool
  clTlb : FMap (List TlbEnt)
  walk : List WalkEnt
  held : FMap (List Held)
  replicas : List Nat
  repLines : List RepLine := []
  repDir : List RepEnt
  filter : FMap (FMap DWord)
  lwms : FMap Nat
  peerFilter : FMap (FMap DWord)
  peerLwms : FMap Nat
  pend : List PendReq
  ptab : List (Nat × Nat)
  arbQ : List (Nat × Nat)
  arbAt : Nat := 0
  arbNew : Nat := 0
  arbAct : List ArbAct
  sweep : List Nat
  swept : List Nat
  fq0 : FaultQ
  fq1 : FaultQ
  grids : List Nat
  copies : List EngOp
  tlast : FMap Nat
  gates : FMap Gate
  kdWait : List KdWait
  home : Option HomeCmd
  seqs : FMap Nat
  deriving DecidableEq, Repr

/-- A die's share of a line's tokens, as its directory entry records it (R73), and the world of the page it was filled through
(R118). -/
structure DirEnt where
  tokens : Nat
  owner : Bool
  valid : Bool
  slices : BitVec 12
  dirty : Option Nat
  sec : Bool
  deriving DecidableEq, Repr

/-- The tokens of one line (R75, R77): serial, tokens and owner at the home port, every die's entry, and the die set (0 where no
access has named it), the world and the DSMASK register of the page of its latest access (R88, R89, R118). -/
structure Tok where
  serial : BitVec 4
  home : Nat
  homeOwner : Bool
  dies : FMap DirEnt
  set : BitVec 48
  sec : Bool
  mask : Option Nat := none
  deriving DecidableEq, Repr

/-- Tokens in flight on COH (R76): line, serial, source (64 + site for a home port), destination die or home port, tokens,
owner, dirty flag, whether data comes with them, and the routing generation they were sent in (R64). -/
structure CohMsg where
  line : Nat
  serial : BitVec 4
  src : Nat
  dst : Option Nat
  tokens : Nat
  owner : Bool
  dirty : Bool
  data : Bool
  gen : Bool := false
  deriving DecidableEq, Repr

/-- A running census (R85): line, the dies taking part, those that its ACTIVATE has reached, their acknowledgements, and the
marks each die has. -/
structure Census where
  line : Nat
  sites : BitVec 48
  active : BitVec 48
  acks : BitVec 48
  marks : FMap (BitVec 48)
  deriving DecidableEq, Repr

/-- What the hub keeps for one queue beside its registers (R128-R133). -/
structure QInt where
  tail : Nat
  cqHead : Nat
  cqPhase : Bool
  unsig : Nat
  oldest : Nat
  held : List (BitVec 256)
  deriving DecidableEq, Repr

/-- How far a grid has come. -/
inductive GridSt where
  | waiting | resolved | running | done
  deriving DecidableEq, Repr

/-- A grid at the GCP (R150-R167). `checked` says that its packet has passed the checks of R152; `src` is the team and warp that launched it (R176); `ranges` gives each site its next and end team; `ready` the sites released (R149); `seen` is the length of
the log of written lines when its packet was read (R397). -/
structure Grid where
  pkt : BitVec 1024
  src : Option (Nat × Nat)
  q : Option Nat
  sec : Bool
  root : Nat
  isFallback : Bool
  st : GridSt
  checked : Bool
  depFail : Bool
  late : Bool
  missed : Bool
  fault : Bool
  lost : Bool
  ranges : FMap (Nat × Nat)
  ready : BitVec 48
  ran : Nat
  throt : Nat
  status : Nat
  seen : Nat := 0
  deriving DecidableEq, Repr

/-- Where a team stands. -/
inductive TeamSt where
  | running | ended | saved | returning
  deriving DecidableEq, Repr

/-- A team (R161-R165, R350-R356): grid, index, core, slots, scratchpad, binding, end-of-team markers without an
acknowledgement (`marks`) and those of them that have reached their gate (`acked`), the kernel descriptor the dispatcher
read when it placed the team (R395, R396), the warps of a saved team with the headers written for them (R351, R353, R355); `gone` says that the frame of its draw has
ended (R181). -/
structure Team where
  g : Nat
  t : Nat
  site : Nat
  core : Nat
  slots : List Nat
  shSlots : List Nat
  gran : Nat
  ngran : Nat
  st : TeamSt
  hold : Bool
  target : Nat
  issued : Bool
  bound : Option (Nat × Nat)
  marks : BitVec 48
  acked : BitVec 48
  fatal : Bool
  exits : Nat
  kd : BitVec 2048
  kdOk : Bool
  kept : List Warp
  gone : Bool := false
  heads : List Nat := []
  deriving DecidableEq, Repr

/-- A routing update in progress (R60-R65): image, the answers routers have made (0 ACCEPT, else a REASON), those the hub has
collected, and whether a die has changed its state since PREPARE began. -/
structure Upd where
  img : List Byte
  made : FMap Nat
  answered : BitVec 49
  changed : Bool
  deriving DecidableEq, Repr

/-- The PTP or PPS servo (R146-R148). -/
structure Ptp where
  good : Nat
  rate : Int
  drift : Int
  delay : Int
  pendingSync : Option Int
  lastSeen : Nat
  lastPps : Nat
  master : Option Nat
  deriving DecidableEq, Repr

/-- The running pre-emption command (R350): teams still to be saved. -/
structure PeCmd where
  teams : List Nat
  deriving DecidableEq, Repr

/-- The hub; `detour` says that the hub has an update of its own to start (R44, R68), `routeSeq` is the sequence number in
force, `fenced` the ports the hub router has fenced, `pub` the public half of the package key in it (R111); `bootOut` marks
the sites mapped out when the package left boot (R34, R88), and `told` the sites that have handled the die-down notice of a
lost die (R68); `peerHold` lists the peer operations that were under way when a port of their package's set changed: site, package,
warp and tag (R141); `inval` lists the accesses that the running TLB invalidation waits for (R262). -/
structure Hub where
  queues : FMap QInt
  grids : FMap Grid
  nextGrid : Nat
  rr : Nat
  teams : FMap Team
  nextTeam : Nat
  frames : FMap Frame
  upd : Option Upd
  detour : Bool
  routeSeq : Nat
  fenced : BitVec 8
  cap : Option Nat
  limit : Nat
  supply : Bool
  ptp : Ptp
  pe : Option PeCmd
  bootOut : BitVec 48
  pub : BitVec 512
  told : FMap (BitVec 48)
  peerHold : List (Nat × Nat × WRef × BitVec 16) := []
  inval : List (WRef × BitVec 16) := []
  deriving DecidableEq, Repr

/-- A response of the SPDM responder (R110): an error with the code InvalidRequest or UnsupportedRequest, or what the request
asks for, signed where it asks for that. -/
inductive SpdmRsp where
  | version (v : Nat)
  | capabilities (cert chal meas session : Bool)
  | algorithms (spec asym hash meas : Nat)
  | digests (d : BitVec 256)
  | certificate (part : List Byte) (left : Nat)
  | challengeAuth (cert : BitVec 256) (nonce : BitVec 256) (sig : BitVec 512)
  | measurements (count : Nat) (l : List (Nat × BitVec 256)) (sig : Option (BitVec 512))
  | error (invalid : Bool)
  deriving DecidableEq, Repr

/-- The trust die (R102-R115). `fills` lists the zero-fills that run: site, secure range, first unit and end unit; `fuses` the
fuse defect maps of the dies that have one; `tableSig` is the signature of the routing tables that the boot has loaded (R52, R102),
and `doe` the response that stands in the DOE mailbox (R110). -/
structure Trust where
  meas : FMap (BitVec 256)
  chain : BitVec 256
  key0 : BitVec 512
  key1 : BitVec 512
  nonce : BitVec 256
  bootFail : Bool
  fills : List (Nat × Nat × Nat × Nat)
  fuses : FMap Fuses
  packet : Option (BitVec 1024)
  has1023 : Bool
  pci : FMap Word
  tableSig : BitVec 512 := 0
  doe : Option SpdmRsp := none
  deriving DecidableEq, Repr

/-- A packet that a router has sent on (R46): the router it goes to, its header, the die set and the frame slot its payload
names, and its data. -/
structure MeshMsg where
  router : Nat
  hdr : BitVec 128
  set : BitVec 48
  slot : Nat
  data : BitVec 256
  deriving DecidableEq, Repr

/-- A primitive packet on its way to an order gate (R187): header, whether a router has discarded it, destination site, packet,
emitting team and the operation of the warp that counts it (R510); `marker` says that it is an end-of-team marker, which carries the
team's key (R189). Its header travels in `mesh`. -/
structure PrimMsg where
  hdr : BitVec 128
  lost : Bool
  site : Nat
  prim : Prim
  team : Nat
  src : WRef
  tag : BitVec 16
  marker : Bool := false
  deriving DecidableEq, Repr

/-- What the device sends to the outside. -/
inductive OutMsg where
  | msix (vector : Nat) (addr : DWord) (data : Word)
  | read (data : List Byte)
  | unsupported
  | retryStatus
  | configData (val : Word)
  | spdm (r : SpdmRsp)
  | arp (ip : Word)
  | delayReq (time : DWord)
  | edgeDown (site dir : Nat)
  | peerReq (port pkg site core seq lwm : Nat)
  | peerRsp (pkg site core seq status : Nat) (data : BitVec 256)
  deriving DecidableEq, Repr

/-- Reductions that the write queue of a port may still merge others into (R476): the word with its size and the world, the value before
the first of them, the sum of their operands, and the length of the log of written lines after them. -/
structure RedGrp where
  pa : Nat
  size : Nat
  sec : Bool
  base : Nat
  sum : Nat
  len : Nat
  deriving DecidableEq, Repr

/-- The package. `breach` marks the DSMASK registers that software wrote while it must not (R89), and `wlog` lists the lines whose
coherent copies were written, with the bytes, latest first, while a grid was not done (R397); `reds` are the reductions that others may be merged
into (R476). -/
structure State where
  agenda : List Instr
  turns : List Turn
  cur : Turn
  rot : Nat
  free : Nat
  outbox : List OutMsg
  mem : List Host.Cell
  hostMem : List Host.Cell
  peerMem : List Host.Cell
  poison : List Nat
  regs : FMap DWord
  time : DWord
  ticks : Nat
  rt : FMap (BitVec 8)
  rtOld : FMap (BitVec 8)
  gens : BitVec 49
  markers : List (Nat × Nat × Nat)
  mesh : List MeshMsg
  prims : List PrimMsg
  tokens : FMap Tok
  coh : List CohMsg
  census : List Census
  dies : FMap Die
  cores : FMap Core
  warps : FMap Warp
  hub : Hub
  trust : Trust
  breach : BitVec 16 := 0
  wlog : List (Nat × Nat) := []
  reds : List RedGrp := []
  deriving DecidableEq, Repr

/-- An EMPTY lane PC slot. -/
def Path.none : Path := { st := .empty, pc := 0, mask := 0, cnt := 0, age := 0 }

/-- Both slots EMPTY, no stack. -/
def LaneCtx.none : LaneCtx := { s0 := Path.none, s1 := Path.none, next := 0, stack := [] }

/-- A warp slot that holds no warp; the same values are those of a warp when it is created (R163, R341, R344), with the
predicates zero (log 2). -/
def Warp.none : Warp :=
  { resident := false, team := 0, wid := 0, shadow := false, mate := Option.none, s := [], pc := 0, p := [], t := [],
    tWr := 0, lane := LaneCtx.none, exited := 0, queue := [], running := Option.none, lastOne := true, park := .none,
    parkAt := 0, resAt := Option.none, cnt := [], ops := [], tag := 0, haz := [], ldHaz := [], tcause := 0, tpc := 0, tlpc := 0, tamask := 0,
    tfmask := 0, taddr := 0, tinfo := [], hflag := false, aside := Option.none, inRgn := false, restarts := 0,
    snapPc := 0, snap := LaneCtx.none, watch := Option.none, recs := [], guard := Option.none, throt := 0, pinned := 0,
    startWin := 0, readySince := 0, oldest := false, sSince := 0, sOldest := false, lvq := [], sscb := [], sigs := [], trace := [],
    clks := [], nS := 0, nL := 0, leadS := 0, leadL := 0, signed := false,
    prim := Option.none, batch := Option.none, binWait := Option.none, joins := [] }

/-- A team number that no team has. -/
def Team.none : Team :=
  { g := 0, t := 0, site := 0, core := 0, slots := [], shSlots := [], gran := 0, ngran := 0, st := .ended, hold := false,
    target := 63, issued := false, bound := Option.none, marks := 0, acked := 0, fatal := false, exits := 0, kd := 0, kdOk := true, kept := [] }

/-- A grid number that no grid has. -/
def Grid.none : Grid :=
  { pkt := 0, src := Option.none, q := Option.none, sec := false, root := 0, isFallback := false, st := .done, checked := false, depFail := false,
    late := false, missed := false, fault := false, lost := false, ranges := [], ready := 0, ran := 0, throt := 0,
    status := 0 }

/-- An operand queue with no row. -/
def OpQueue.none : OpQueue := { head := 0, left := 0, head2 := 0, left2 := 0, tail := 0, err := false }

/-- A core position after the reset of its die. -/
def Core.reset : Core :=
  { clk := 0, world := none, words := [], places := [], rbWait := [], loan := none, l1 := [], plog := [], plogSeq := 0,
    asked := 0, eager := 0, queues := [], matWait0 := none, matWait1 := none, matQ := [],
    matLost := false, matAt := 0, busy := 0, busyTo := 0, actLast := 0, win := 0, winCls := none, matWarps := 0, matGone := [], throttle := 0, viol := 0, phase := none,
    phLast := { tg := 0, te := 0, cls := 0 }, feeds := [], pipe0 := none, pipe1 := none, lastSel := [], selCtr := 0, ports := 0,
    tlb := [], alloc := [], seq := 0, lwm := 0, atoms := [], claims := [] }

/-- A fault queue that software has not enabled. -/
def FaultQ.reset : FaultQ := { next := 1, phase := true, recs := [], stalled := [] }

/-- A render die after its reset. -/
def Die.reset : Die :=
  { key0 := 0, key1 := 0, pub := 0, fenced := 0, half := false, stop := false, clTlb := [], walk := [], held := [], replicas := [], repDir := [],
    filter := [], lwms := [], peerFilter := [], peerLwms := [], pend := [], ptab := [], arbQ := [], arbAct := [],
    sweep := [], swept := [], fq0 := FaultQ.reset, fq1 := FaultQ.reset, grids := [], copies := [], tlast := [], gates := [],
    kdWait := [], home := none, seqs := [] }

/-- A line whose 64 tokens are all at home (R75, R77). -/
def Tok.home64 : Tok := { serial := 0, home := 64, homeOwner := true, dies := [], set := 0, sec := false }

/-- A gate that has seen nothing (R191). -/
def Gate.reset : Gate :=
  { d := 0, t := 0, cur := none, alloc := [], staged := [], work := [], marks := [], closed := false, bins := [], tiles := [], spilled := [], part := [],
    full := false }

/-- A queue whose rings stand at index 0 (R129). -/
def QInt.reset : QInt := { tail := 0, cqHead := 0, cqPhase := true, unsig := 0, oldest := 0, held := [] }

/-- The hub after its reset. -/
def Hub.reset : Hub :=
  { queues := [], grids := [], nextGrid := 0, rr := 0, teams := [], nextTeam := 0, frames := [], upd := none,
    detour := false, routeSeq := 0, fenced := 0, cap := none, limit := 22000, supply := false,
    ptp := { good := 0, rate := 0, drift := 0, delay := 0, pendingSync := none, lastSeen := 0, lastPps := 0, master := none },
    pe := none, bootOut := 0, pub := 0, told := [] }

/-- The trust die after package reset. -/
def Trust.reset : Trust :=
  { meas := [], chain := 0, key0 := 0, key1 := 0, nonce := 0, bootFail := false, fills := [], fuses := [],
    packet := none, has1023 := false, pci := [] }

/-- The package right after package reset is deasserted (R102): PHASE ROM, every other die held in reset, nothing
listed in memory; a register the map does not list reads its reset value (R10). -/
def State.reset : State :=
  { agenda := [], turns := [], cur := { site := 0, core := 0, slot := 0, lane := none }, rot := 0, free := 0,
    outbox := [], mem := [], hostMem := [], peerMem := [], poison := [], regs := [], time := 0, ticks := 0, rt := [],
    rtOld := [], gens := 0, markers := [], mesh := [], prims := [], tokens := [], coh := [], census := [], dies := [],
    cores := [], warps := [], hub := Hub.reset, trust := Trust.reset }

end Sys2Proof.Machine
end

