-- ==== Sys2Proof/Machine/Hash.lean ====
section
/-! DEFINITION. SHA-256 and CRC-32C over lists of bytes, as the measurement record and routing images use them (R60, R62,
R108). -/
namespace Sys2Proof.Machine

/-- The prime numbers below a bound, lowest first. -/
def primes (n : Nat) : List Nat := (List.range n).filter fun p => 1 < p && (List.range p).all fun q => q < 2 || p % q ≠ 0
/-- The largest number whose power `e` is at most `n`, found bit by bit from the one below bit `k` down. -/
def rootFrom (e n : Nat) : Nat → Nat → Nat
  | 0, x => x
  | k + 1, x => rootFrom e n k (if (x + 2 ^ k) ^ e ≤ n then x + 2 ^ k else x)
/-- The first 32 fraction bits of a root of each prime below a bound: SHA-256 takes its constants so, the round constants
from cube roots and the first value from square roots. -/
def rootWords (e n : Nat) : List Word := (primes n).map fun p => BitVec.ofNat 32 (rootFrom e (p * 2 ^ (32 * e)) 40 0)

/-- The working values of SHA-256 as its two chains, each latest first: a round puts one word before each, and reads the
first four. -/
structure Sha where
  as : List Word
  es : List Word
  deriving DecidableEq, Repr

/-- The value before the first block. -/
def Sha.init : Sha := { as := (rootWords 2 20).take 4, es := (rootWords 2 20).drop 4 }

/-- The exclusive or of three rotations. -/
def rot3 (i j k : Nat) (x : Word) : Word := x.rotateRight i ^^^ x.rotateRight j ^^^ x.rotateRight k
/-- The exclusive or of two rotations and a shift. -/
def rotShift (i j k : Nat) (x : Word) : Word := x.rotateRight i ^^^ x.rotateRight j ^^^ x >>> k

/-- The schedule, latest word first, grown by a number of words. -/
def shaSched : Nat → List Word → List Word
  | 0, w => w
  | n + 1, w =>
    shaSched n ((rotShift 17 19 10 (w.getD 1 0) + w.getD 6 0 + rotShift 7 18 3 (w.getD 14 0) + w.getD 15 0) :: w)

/-- One round, of a round constant and a word of the schedule. -/
def Sha.round (x : Sha) (k w : Word) : Sha :=
  let a (i : Nat) : Word := x.as.getD i 0
  let e (i : Nat) : Word := x.es.getD i 0
  let t : Word := k + w + e 3 + (e 2 ^^^ e 0 &&& (e 1 ^^^ e 2)) + rot3 6 11 25 (e 0)
  { as := (t + rot3 2 13 22 (a 0) + (a 0 &&& a 1 ||| a 2 &&& (a 0 ||| a 1))) :: x.as, es := (a 3 + t) :: x.es }

/-- The value after a block, of the value before it and the chains its rounds leave. -/
def Sha.add (x y : Sha) : Sha := { as := List.zipWith (· + ·) x.as y.as, es := List.zipWith (· + ·) x.es y.es }

/-- The big-endian number of a list of bytes. -/
def beNat (l : List Byte) : Nat := l.foldl (fun n b => 256 * n + b.toNat) 0
/-- The words of a block, first word first. -/
def blockWords : Nat → List Byte → List Word
  | 0, _ => []
  | n + 1, l => BitVec.ofNat 32 (beNat (l.take 4)) :: blockWords n (l.drop 4)

/-- One block of 64 bytes. -/
def shaBlock (x : Sha) (l : List Byte) : Sha :=
  let w := (shaSched 48 (blockWords 16 l).reverse).reverse
  x.add (((rootWords 3 312).zip w).foldl (fun y p => y.round p.1 p.2) x)
/-- A number of blocks. -/
def shaBlocks : Nat → List Byte → Sha → Sha
  | 0, _, x => x
  | n + 1, l, x => shaBlocks n (l.drop 64) (shaBlock x (l.take 64))

/-- The lowest `n` bytes of a number, lowest first. -/
def bytesLe (n v : Nat) : List Byte := (List.range n).map fun i => BitVec.ofNat 8 (v / 2 ^ (8 * i))
/-- The lowest `n` bytes of a number, highest first. -/
def bytesBe (n v : Nat) : List Byte := (bytesLe n v).reverse

/-- SHA-256 of a message. The digest's first byte is its highest. -/
def sha256 (m : List Byte) : BitVec 256 :=
  let n := m.length
  let z := (119 - n % 64) % 64
  let p := m ++ [0x80] ++ List.replicate z 0 ++ bytesBe 8 (8 * n)
  let x := shaBlocks ((n + 9 + z) / 64) p Sha.init
  BitVec.ofNat 256 ((x.as ++ x.es).foldl (fun v w => 2 ^ 32 * v + w.toNat) 0)

/-- HMAC-SHA-256 of a message under a key of at most 64 bytes. -/
def hmac256 (key msg : List Byte) : BitVec 256 :=
  let k := key ++ List.replicate (64 - key.length) 0
  let inner := sha256 ((k.map fun b => b ^^^ 0x36) ++ msg)
  sha256 ((k.map fun b => b ^^^ 0x5C) ++ bytesBe 32 inner.toNat)

/-- One bit of CRC-32C. -/
def crcStep (c : Word) : Nat → Word
  | 0 => c
  | n + 1 => crcStep (if c.getLsbD 0 then (c >>> 1) ^^^ 0x82F63B78 else c >>> 1) n
/-- CRC-32C of a list of bytes. -/
def crc32c (m : List Byte) : Word := ~~~(m.foldl (fun c b => crcStep (c ^^^ b.setWidth 32) 8) (BitVec.allOnes 32))

end Sys2Proof.Machine
end

