-- ==== Sys2Proof/Machine/Fp.lean ====
section
/-! DEFINITION. The floating-point formats and the arithmetic on them (R359 to R371): values are read exactly, every
operation is exact, and a result is rounded once, by RoundTo or SatTo (R14). -/
namespace Sys2Proof.Machine

/-- A floating-point format: exponent bits, fraction bits, and whether it has infinities (R359). -/
structure Fmt where
  eb : Nat
  mb : Nat
  hasInf : Bool
  deriving DecidableEq, Repr

/-- The floating-point format of a format code; FP32 for the codes of other formats (R365). -/
def fmt (code : Nat) : Fmt :=
  match code with
  | 1 => ⟨11, 52, true⟩
  | 2 => ⟨5, 10, true⟩
  | 3 => ⟨8, 7, true⟩
  | 4 => ⟨4, 3, false⟩
  | 5 => ⟨5, 2, true⟩
  | _ => ⟨8, 23, true⟩

/-- Bits of a value of a format code (R361, R365). -/
def fmtBits (code : Nat) : Nat :=
  match code with
  | 1 | 9 | 15 => 64
  | 2 | 3 | 7 | 13 => 16
  | 4 | 5 | 6 | 12 => 8
  | 10 => 4
  | 11 => 3
  | _ => 32

/-- Whether a format code names a floating-point format (R365). -/
def isFloat (code : Nat) : Bool := decide (code ≤ 5)
/-- Whether a format code names a natural-number format (R365). -/
def isNatural (code : Nat) : Bool := decide (12 ≤ code)

/-- Total bits of a floating-point format. -/
def Fmt.width (f : Fmt) : Nat := f.eb + f.mb + 1
/-- The bias (R359). -/
def Fmt.bias (f : Fmt) : Int := 2 ^ (f.eb - 1) - 1
/-- The canonical NaN (R360). -/
def Fmt.nan (f : Fmt) : Nat :=
  if f.hasInf then (2 ^ f.eb - 1) * 2 ^ f.mb + 2 ^ (f.mb - 1) else 2 ^ (f.eb + f.mb) - 1
/-- The magnitude bits of the largest finite value (R359, R360). -/
def Fmt.maxMag (f : Fmt) : Nat :=
  if f.hasInf then (2 ^ f.eb - 1) * 2 ^ f.mb - 1 else 2 ^ (f.eb + f.mb) - 2
/-- The sign bit of an encoding. -/
def Fmt.sign (f : Fmt) (x : Nat) : Bool := x.testBit (f.eb + f.mb)
/-- The bits below the sign. -/
def Fmt.mag (f : Fmt) (x : Nat) : Nat := x % 2 ^ (f.eb + f.mb)
/-- Put a sign on magnitude bits. -/
def Fmt.pack (f : Fmt) (s : Bool) (m : Nat) : Nat := if s then 2 ^ (f.eb + f.mb) + m else m
/-- The infinity of a sign; the canonical NaN where the format has none (R360, R367). -/
def Fmt.inf (f : Fmt) (s : Bool) : Nat :=
  if f.hasInf then f.pack s ((2 ^ f.eb - 1) * 2 ^ f.mb) else f.nan
/-- Whether an encoding is a NaN (R360). -/
def Fmt.isNan (f : Fmt) (x : Nat) : Bool :=
  if f.hasInf then decide ((2 ^ f.eb - 1) * 2 ^ f.mb < f.mag x) else f.mag x == 2 ^ (f.eb + f.mb) - 1
/-- Whether an encoding is an infinity. -/
def Fmt.isInf (f : Fmt) (x : Nat) : Bool := f.hasInf && f.mag x == (2 ^ f.eb - 1) * 2 ^ f.mb
/-- Whether an encoding is subnormal. -/
def Fmt.isSub (f : Fmt) (x : Nat) : Bool := decide (f.mag x < 2 ^ f.mb) && f.mag x != 0

/-- An exact result: not a number, an infinity, or the signed quotient of two natural numbers, whose sign also marks a
zero. -/
inductive Exact where
  | nan
  | inf (s : Bool)
  | fin (s : Bool) (n d : Nat)
  deriving DecidableEq, Repr

/-- The exact value of an encoding (R360). -/
def Fmt.read (f : Fmt) (x : Nat) : Exact :=
  if f.isNan x then .nan
  else if f.isInf x then .inf (f.sign x)
  else
    let m := f.mag x
    let e := m / 2 ^ f.mb
    let frac := if e = 0 then m else 2 ^ f.mb + m % 2 ^ f.mb
    let k : Int := (if e = 0 then 1 else (e : Int)) - f.bias - f.mb
    if 0 ≤ k then .fin (f.sign x) (frac * 2 ^ k.toNat) 1 else .fin (f.sign x) frac (2 ^ (-k).toNat)

/-- Whether rounding carries away from zero: mode, sign, truncated quotient, remainder and divisor (R366). -/
def carries (rm : Nat) (s : Bool) (t r d : Nat) : Bool :=
  match rm with
  | 0 => decide (d < 2 * r) || (2 * r == d && t % 2 == 1)
  | 1 => false
  | 2 => s && r != 0
  | _ => !s && r != 0

/-- A quotient rounded to a natural number (R366, R443). -/
def roundNat (rm : Nat) (s : Bool) (n d : Nat) : Nat :=
  n / d + if carries rm s (n / d) (n % d) d then 1 else 0

/-- The exponent of the power of two at or below `n / d`, for `n` and `d` above 0. -/
def exponent (n d : Nat) : Int :=
  let e : Int := (Nat.log2 n : Int) - (Nat.log2 d : Int)
  if (if 0 ≤ e then decide (n < d * 2 ^ e.toNat) else decide (n * 2 ^ (-e).toNat < d)) then e - 1 else e

/-- The magnitude bits of a quotient above 0 rounded with unbounded range (R366, R367). -/
def Fmt.roundMag (f : Fmt) (rm : Nat) (s : Bool) (n d : Nat) : Nat :=
  let emin : Int := 1 - f.bias
  let q : Int := max (exponent n d) emin - f.mb
  let k : Nat := (q - (emin - f.mb)).toNat
  (if 0 ≤ q then roundNat rm s n (d * 2 ^ q.toNat) else roundNat rm s (n * 2 ^ (-q).toNat) d) + k * 2 ^ f.mb

/-- RoundTo, and SatTo where `sat` is set (R14, R367). -/
def Fmt.round (f : Fmt) (rm : Nat) (sat : Bool) : Exact → Nat
  | .nan => f.nan
  | .inf s => if sat then f.pack s f.maxMag else f.inf s
  | .fin s n d =>
    if n = 0 then f.pack s 0
    else
      let m := f.roundMag rm s n d
      if m ≤ f.maxMag then f.pack s m
      else if sat || rm == 1 || (rm == 2 && !s) || (rm == 3 && s) then f.pack s f.maxMag
      else f.inf s

/-- The negative of an exact value. -/
def Exact.neg : Exact → Exact
  | .nan => .nan
  | .inf s => .inf (!s)
  | .fin s n d => .fin (!s) n d

/-- An exact sum; a zero sum of opposite signs is +0, and −0 under RDN (R369). -/
def Exact.add (rm : Nat) : Exact → Exact → Exact
  | .nan, _ => .nan
  | _, .nan => .nan
  | .inf s, .inf t => if s = t then .inf s else .nan
  | .inf s, _ => .inf s
  | _, .inf t => .inf t
  | .fin s n d, .fin t m e =>
    let g := if d = e then d else if e % d = 0 then e else if d % e = 0 then d else d * e
    let a := n * (g / d)
    let b := m * (g / e)
    if s = t then .fin s (a + b) g
    else if a = b then .fin (rm == 2) 0 1
    else if b < a then .fin s (a - b) g
    else .fin t (b - a) g

/-- An exact product (R369). -/
def Exact.mul : Exact → Exact → Exact
  | .nan, _ => .nan
  | _, .nan => .nan
  | .inf s, .inf t => .inf (s != t)
  | .inf s, .fin t m _ => if m = 0 then .nan else .inf (s != t)
  | .fin s n _, .inf t => if n = 0 then .nan else .inf (s != t)
  | .fin s n d, .fin t m e => .fin (s != t) (n * m) (d * e)

/-- The exact value of an integer. -/
def Exact.ofInt (x : Int) : Exact := .fin (decide (x < 0)) x.natAbs 1

/-- The operands of an operation read with or without the BF16 exception: a subnormal source reads as a zero of its sign
(R368). -/
def Fmt.readFlush (f : Fmt) (flush : Bool) (x : Nat) : Exact :=
  if flush && f.isSub x then .fin (f.sign x) 0 1 else f.read x

/-- A rounded result with or without the BF16 exception: a subnormal result becomes a zero of its sign (R368). -/
def Fmt.roundFlush (f : Fmt) (flush : Bool) (rm : Nat) (sat : Bool) (x : Exact) : Nat :=
  let r := f.round rm sat x
  if flush && f.isSub r then f.pack (f.sign r) 0 else r

/-- a + b (R441). -/
def Fmt.add (f : Fmt) (flush : Bool) (rm : Nat) (sat : Bool) (a b : Nat) : Nat :=
  f.roundFlush flush rm sat ((f.readFlush flush a).add rm (f.readFlush flush b))
/-- a − b (R441). -/
def Fmt.sub (f : Fmt) (flush : Bool) (rm : Nat) (sat : Bool) (a b : Nat) : Nat :=
  f.roundFlush flush rm sat ((f.readFlush flush a).add rm (f.readFlush flush b).neg)
/-- a × b (R441). -/
def Fmt.mul (f : Fmt) (flush : Bool) (rm : Nat) (sat : Bool) (a b : Nat) : Nat :=
  f.roundFlush flush rm sat ((f.readFlush flush a).mul (f.readFlush flush b))
/-- a × b + c, fused (R441). -/
def Fmt.fma (f : Fmt) (flush : Bool) (rm : Nat) (sat : Bool) (a b c : Nat) : Nat :=
  f.roundFlush flush rm sat (((f.readFlush flush a).mul (f.readFlush flush b)).add rm (f.readFlush flush c))

/-- Order among encodings that are no NaN, with −0 below +0 (R369). -/
def Fmt.key (f : Fmt) (x : Nat) : Int := if f.sign x then -(f.mag x : Int) - 1 else f.mag x
/-- Order among encodings that are no NaN, with the zeros equal (R369). -/
def Fmt.value (f : Fmt) (x : Nat) : Int := if f.sign x then -(f.mag x : Int) else f.mag x

/-- The smaller operand, unchanged; the other where one is a NaN (R369, R442). -/
def Fmt.min (f : Fmt) (a b : Nat) : Nat :=
  if f.isNan a && f.isNan b then f.nan else if f.isNan a then b else if f.isNan b then a
  else if f.key b < f.key a then b else a
/-- The larger operand, unchanged; the other where one is a NaN (R369, R442). -/
def Fmt.max (f : Fmt) (a b : Nat) : Nat :=
  if f.isNan a && f.isNan b then f.nan else if f.isNan a then b else if f.isNan b then a
  else if f.key a < f.key b then b else a

/-- A value rounded to an integral value of the format (R443). -/
def Fmt.integral (f : Fmt) (rm : Nat) (x : Nat) : Nat :=
  match f.read x with
  | .nan => f.nan
  | .inf s => f.inf s
  | .fin s n d => f.round rm false (.fin s (roundNat rm s n d) 1)

/-- FCLASS: one bit, by the class of the value (R443). -/
def Fmt.classify (f : Fmt) (x : Nat) : Nat :=
  if f.isNan x then 256
  else
    let k := if f.isInf x then 3 else if f.mag x = 0 then 0 else if f.isSub x then 1 else 2
    if f.sign x then 2 ^ (3 - k) else 2 ^ (4 + k)

/-- The range of an integer format (R361): lowest and highest value. -/
def intRange (code : Nat) : Int × Int :=
  let n := fmtBits code
  if isNatural code then (0, 2 ^ n - 1) else (-(2 ^ (n - 1)), 2 ^ (n - 1) - 1)

/-- The value of an integer of a format (R361). -/
def readInt (code : Nat) (x : Nat) : Int :=
  let n := fmtBits code
  let y := x % 2 ^ n
  if !isNatural code && y.testBit (n - 1) then (y : Int) - 2 ^ n else y

/-- An integer held within two bounds. -/
def clampInt (lo hi x : Int) : Int := max lo (min hi x)

/-- A conversion from one format to another: the bits of the destination format (R446, R371). -/
def convert (df sf : Nat) (rm : Nat) (sat : Bool) (x : Nat) : Nat :=
  let src := x % 2 ^ fmtBits sf
  if isFloat sf then
    let f := fmt sf
    if isFloat df then
      if df = sf then (if f.isNan src then f.nan else src) else (fmt df).round rm sat (f.read src)
    else
      let (lo, hi) := intRange df
      let v : Int := match f.read src with
        | .nan => 0
        | .inf s => if s then lo else hi
        | .fin s n d => clampInt lo hi (if s then -(roundNat rm s n d : Int) else roundNat rm s n d)
      (v % 2 ^ fmtBits df).toNat
  else
    let v := readInt sf src
    if isFloat df then (fmt df).round rm sat (Exact.ofInt v)
    else
      let (lo, hi) := intRange df
      ((if sat then clampInt lo hi v else v) % 2 ^ fmtBits df).toNat

/-- How CVT lays a narrow result in 32 bits: sign copies for INT8 and INT16, zeros for the others (R445). -/
def spread (df : Nat) (x : Nat) : Nat :=
  if df = 6 || df = 7 then (readInt df x % 2 ^ 32).toNat else x

/-- An expanded weight (R364): weight, BF16 scale, and the activation format. -/
def expandWeight (t : Nat) (q : Int) (scale : Nat) : Nat :=
  let sc := (fmt 3).read scale
  let qx : Exact := if q = 0 then .fin false 0 1 else Exact.ofInt q
  (fmt t).round 0 true (qx.mul sc)

end Sys2Proof.Machine
end

