-- ==== Sys2Proof/Machine/Flags.lean ====
section
/-! DEFINITION. Every condition the part tests: the comparisons of SCMP and of the set instructions, and the conditions of
BRA and LOOP. The part has no flags, no carry and no condition codes (R405). -/
namespace Sys2Proof.Machine

/-- An integer comparison of two `n`-bit values by its code: EQ, NE, LT, LE, GT, GE as two's complement, LTN, LEN, GTN,
GEN as natural numbers (R407, R431). -/
def cmpInt (code : Nat) {n : Nat} (a b : BitVec n) : Bool :=
  match code with
  | 0 => a == b
  | 1 => a != b
  | 2 => a.slt b
  | 3 => a.sle b
  | 4 => b.slt a
  | 5 => b.sle a
  | 6 => a.ult b
  | 7 => a.ule b
  | 8 => b.ult a
  | _ => b.ule a

/-- A floating-point comparison by its code; with a NaN, NE alone holds (R369, R442). -/
def cmpFloat (f : Fmt) (code a b : Nat) : Bool :=
  if f.isNan a || f.isNan b then code == 1
  else
    match code with
    | 0 => f.value a == f.value b
    | 1 => f.value a != f.value b
    | 2 => decide (f.value a < f.value b)
    | 3 => decide (f.value a ≤ f.value b)
    | 4 => decide (f.value b < f.value a)
    | _ => decide (f.value b ≤ f.value a)

/-- The condition of BRA and LOOP on a register read as two's complement (R414). -/
def condHolds (c : BitVec 4) (x : Word) : Bool :=
  match c.toNat with
  | 0 => true
  | 1 => x == 0
  | 2 => x != 0
  | 3 => x.slt 0
  | 4 => !x.slt 0
  | 5 => (0 : Word).slt x
  | _ => !(0 : Word).slt x

end Sys2Proof.Machine
end

