-- ==== Sys2Proof/Decode.lean ====
section
/-! DEFINITION. Decoding: from the bytes of an instruction to the instruction, rejecting by name every word that R379 to
R391 lay out as none; and the encoder, written from the same tables. Whether the operands of a decoded instruction are
legal (R392) is WellFormed's question. -/
namespace Sys2Proof

/-- Why bytes are no instruction (R392). -/
inductive DecodeError where
  /-- Neither the 4 bytes of a scalar word nor the 12 of a lane word (R394). -/
  | badLength
  /-- An all-zero word (R392). -/
  | zeroWord
  /-- A major opcode R381 leaves unassigned. -/
  | unassignedOpcode
  /-- A function code R382 or the entry leaves unassigned. -/
  | unassignedFn
  /-- A scalar field R381 does not list is not zero. -/
  | unusedField
  /-- A lane class R391 leaves unassigned. -/
  | unassignedClass
  /-- An op number above the last of its class (R391). -/
  | unassignedOp
  /-- PRED 0b1111 (R385). -/
  | badPredicate
  deriving DecidableEq, Repr

/-- What the decoder answers. -/
inductive Decoded where
  | ok (i : Instr)
  | err (e : DecodeError)
  deriving DecidableEq, Repr

/-- The instruction, where there is one. -/
def Decoded.toOption : Decoded → Option Instr
  | .ok i => some i
  | .err _ => none

/-- The word that bytes hold, the first byte lowest (R6). -/
def leNat : List Byte → Nat
  | [] => 0
  | b :: bs => b.toNat + 256 * leNat bs

/-- The `n` lowest bytes of a number, the lowest first (R6). -/
def leBytes : Nat → Nat → List Byte
  | 0, _ => []
  | n + 1, v => BitVec.ofNat 8 v :: leBytes n (v / 256)

/-- Answer an instruction only where the fields it does not use are zero (R392). -/
def okIf (c : Bool) (i : Instr) : Decoded := if c then .ok i else .err .unusedField

/-- Format SR (R379). -/
def encSR (op d a b : BitVec 6) (fn : BitVec 8) : Word := op ++ d ++ a ++ b ++ fn
/-- Format SI (R379). -/
def encSI (op d a : BitVec 6) (imm : BitVec 14) : Word := op ++ d ++ a ++ imm
/-- Format SU (R379). -/
def encSU (op d : BitVec 6) (imm : BitVec 20) : Word := op ++ d ++ imm
/-- Format SB (R379). -/
def encSB (op : BitVec 6) (c : BitVec 4) (a : BitVec 6) (off : BitVec 16) : Word := op ++ c ++ a ++ off
/-- Format SJ (R379). -/
def encSJ (op : BitVec 6) (imm : BitVec 26) : Word := op ++ imm
/-- Format SE (R379). -/
def encSE (op d a b : BitVec 6) (imm : BitVec 8) : Word := op ++ d ++ a ++ b ++ imm

/-- Format L3 under a class, an op number and the control bits (R384, R386). -/
def encL3 (cls : BitVec 4) (op : BitVec 6) (h : Hdr) (f : L3) : BitVec 96 :=
  cls ++ op ++ BitVec.ofBool h.s ++ h.pred ++ f.d ++ f.a ++ f.b ++ f.c ++ f.m
/-- Format LI (R386). -/
def encLI (cls : BitVec 4) (op : BitVec 6) (h : Hdr) (f : LI) : BitVec 96 :=
  cls ++ op ++ BitVec.ofBool h.s ++ h.pred ++ f.d ++ f.a ++ f.imm ++ f.m
/-- Format LM (R386). -/
def encLM (cls : BitVec 4) (op : BitVec 6) (h : Hdr) (f : LM) : BitVec 96 :=
  cls ++ op ++ BitVec.ofBool h.s ++ h.pred ++ f.d ++ f.a ++ f.b ++ f.off ++ f.m
/-- Format LX (R386). -/
def encLX (cls : BitVec 4) (op : BitVec 6) (h : Hdr) (f : LX) : BitVec 96 :=
  cls ++ op ++ BitVec.ofBool h.s ++ h.pred ++ f.zd ++ f.qa ++ f.qb ++ f.fbq ++ f.shape ++ f.x ++ f.m
/-- Format LC (R386). -/
def encLC (cls : BitVec 4) (op : BitVec 6) (h : Hdr) (f : LC) : BitVec 96 :=
  cls ++ op ++ BitVec.ofBool h.s ++ h.pred ++ f.a ++ f.off ++ f.m

/-- The control bits of a lane word (R384). -/
def hdrOf (w : BitVec 96) : Hdr := { s := w.getLsbD 85, pred := w.extractLsb' 81 4 }
/-- The fields of format L3 (R386). -/
def l3Of (w : BitVec 96) : L3 :=
  { d := w.extractLsb' 68 13, a := w.extractLsb' 55 13, b := w.extractLsb' 42 13, c := w.extractLsb' 29 13,
    m := w.extractLsb' 0 29 }
/-- The fields of format LI (R386). -/
def liOf (w : BitVec 96) : LI :=
  { d := w.extractLsb' 68 13, a := w.extractLsb' 55 13, imm := w.extractLsb' 23 32, m := w.extractLsb' 0 23 }
/-- The fields of format LM (R386). -/
def lmOf (w : BitVec 96) : LM :=
  { d := w.extractLsb' 68 13, a := w.extractLsb' 55 13, b := w.extractLsb' 42 13, off := w.extractLsb' 22 20,
    m := w.extractLsb' 0 22 }
/-- The fields of format LX (R386). -/
def lxOf (w : BitVec 96) : LX :=
  { zd := w.extractLsb' 73 8, qa := w.extractLsb' 70 3, qb := w.extractLsb' 67 3, fbq := w.extractLsb' 61 6,
    shape := w.extractLsb' 59 2, x := w.extractLsb' 46 13, m := w.extractLsb' 0 46 }
/-- The fields of format LC (R386). -/
def lcOf (w : BitVec 96) : LC :=
  { a := w.extractLsb' 68 13, off := w.extractLsb' 44 24, m := w.extractLsb' 0 44 }

/-- The register forms of opcode 0x01 (R382). -/
def decodeAlu (fn : Nat) (d a b : BitVec 6) : Decoded :=
  match fn with
  | 0 => .ok (.sadd d a b)
  | 1 => .ok (.ssub d a b)
  | 2 => .ok (.smul d a b)
  | 3 => .ok (.smulh d a b)
  | 4 => .ok (.sand d a b)
  | 5 => .ok (.sor d a b)
  | 6 => .ok (.sxor d a b)
  | 7 => .ok (.sshl d a b)
  | 8 => .ok (.sshr d a b)
  | 9 => .ok (.ssra d a b)
  | 10 => .ok (.smin d a b)
  | 11 => .ok (.smax d a b)
  | 32 => .ok (.sadd64 d a b)
  | 33 => .ok (.ssub64 d a b)
  | 16 => .ok (.scmp 0 d a b)
  | 17 => .ok (.scmp 1 d a b)
  | 18 => .ok (.scmp 2 d a b)
  | 19 => .ok (.scmp 3 d a b)
  | 20 => .ok (.scmp 4 d a b)
  | 21 => .ok (.scmp 5 d a b)
  | 22 => .ok (.scmp 6 d a b)
  | 23 => .ok (.scmp 7 d a b)
  | 24 => .ok (.scmp 8 d a b)
  | 25 => .ok (.scmp 9 d a b)
  | _ => .err .unassignedFn

/-- A scalar word (R379, R381). -/
def decodeScalar (w : Word) : Decoded :=
  let d : BitVec 6 := w.extractLsb' 20 6
  let a : BitVec 6 := w.extractLsb' 14 6
  let b : BitVec 6 := w.extractLsb' 8 6
  let fn : BitVec 8 := w.extractLsb' 0 8
  let imm14 : BitVec 14 := w.extractLsb' 0 14
  let imm20 : BitVec 20 := w.extractLsb' 0 20
  let imm26 : BitVec 26 := w.extractLsb' 0 26
  let c : BitVec 4 := w.extractLsb' 22 4
  let sba : BitVec 6 := w.extractLsb' 16 6
  let off : BitVec 16 := w.extractLsb' 0 16
  if w = 0 then .err .zeroWord else
  match (w.extractLsb' 26 6).toNat with
  | 0x01 => decodeAlu fn.toNat d a b
  | 0x02 => .ok (.saddi d a imm14)
  | 0x03 => .ok (.sandi d a imm14)
  | 0x04 => .ok (.sori d a imm14)
  | 0x05 => .ok (.sxori d a imm14)
  | 0x06 => okIf (w.extractLsb' 5 9 == 0) (.sshli d a (w.extractLsb' 0 5))
  | 0x07 => okIf (w.extractLsb' 5 9 == 0) (.sshri d a (w.extractLsb' 0 5))
  | 0x08 => okIf (w.extractLsb' 5 9 == 0) (.ssrai d a (w.extractLsb' 0 5))
  | 0x09 => .ok (.slui d imm20)
  | 0x0A => .ok (.sld d a b fn)
  | 0x0B => .ok (.sst d a b fn)
  | 0x0C => .ok (.sldc d a (w.extractLsb' 2 12) (w.extractLsb' 0 2))
  | 0x10 => .ok (.bra c sba off)
  | 0x11 => .ok (.jmp imm26)
  | 0x12 => .ok (.call imm26)
  | 0x13 => okIf (d == 0 && b == 0 && fn == 0) (.ret a)
  | 0x14 => .ok (.loop c sba off)
  | 0x18 => .ok (.vrun imm26)
  | 0x19 => okIf (d == 0 && b == 0 && fn == 0) (.vrunr a)
  | 0x1A => okIf (a == 0 && b == 0 && w.extractLsb' 1 7 == 0) (if fn = 0 then .syncl d else .synclResume d)
  | 0x20 => okIf (d == 0 && a == 0 && w.extractLsb' 3 5 == 0) (.swait b (w.extractLsb' 0 3))
  | 0x21 => okIf (b == 0 && fn == 0) (.bara d a)
  | 0x22 => okIf (d == 0 && fn == 0) (.barw a b)
  | 0x23 => okIf (d == 0 && b == 0 && fn == 0) (.smon a)
  | 0x24 => okIf (a == 0 && fn == 0) (.smwait d b)
  | 0x25 => okIf (d == 0 && a == 0 && b == 0 && w.extractLsb' 5 3 == 0) (.fence (w.extractLsb' 2 3) (w.extractLsb' 0 2))
  | 0x26 =>
    match fn.toNat with
    | 0 => okIf (d == 0) (.racq a b)
    | 1 => okIf (d == 0) (.racqAllDie a b)
    | 2 => okIf (d == 0) (.racqAllDevice a)
    | _ => .err .unassignedFn
  | 0x28 => okIf (d == 0 && a == 0 && w.extractLsb' 5 3 == 0) (.rbget (w.extractLsb' 8 6) (w.extractLsb' 0 5))
  | 0x29 => okIf (d == 0 && a == 0 && w.extractLsb' 5 3 == 0) (.rbput (w.extractLsb' 8 6) (w.extractLsb' 0 5))
  | 0x2A => okIf (d == 0) (.phase a b fn)
  | 0x2B => okIf (d == 0 && a == 0 && b == 0 && fn == 0) .rgn
  | 0x2C => okIf (d == 0 && b == 0 && fn == 0) (.launch a)
  | 0x2D => okIf (d == 0 && w.extractLsb' 3 5 == 0) (.feed a b (w.extractLsb' 0 3))
  | 0x2E => okIf (d == 0 && w.extractLsb' 4 4 == 0)
      (if w.getLsbD 3 then .copyResume a b (w.extractLsb' 0 3) else .copy a b (w.extractLsb' 0 3))
  | 0x2F => okIf (d == 0 && w.extractLsb' 3 5 == 0) (.nbr a b (w.extractLsb' 0 3))
  | 0x30 => okIf (a == 0) (.sread d imm14)
  | 0x31 => okIf (d == 0) (.swrite a imm14)
  | 0x38 => okIf (d == 0) (.trap imm20)
  | 0x39 => okIf (d == 0 && a == 0 && b == 0 && fn == 0) .eret
  | 0x3A => okIf (d == 0 && a == 0 && b == 0 && fn == 0) .exit
  | _ => .err .unassignedOpcode

/-- Class 0x0, 32-bit integers: the op numbers of R391. -/
def decodeClass0 (op : Nat) (w : BitVec 96) : Decoded :=
  match op with
  | 0 => .ok (.iadd (hdrOf w) (l3Of w))
  | 1 => .ok (.isub (hdrOf w) (l3Of w))
  | 2 => .ok (.imul (hdrOf w) (l3Of w))
  | 3 => .ok (.imulh (hdrOf w) (l3Of w))
  | 4 => .ok (.imad (hdrOf w) (l3Of w))
  | 5 => .ok (.imin (hdrOf w) (l3Of w))
  | 6 => .ok (.imax (hdrOf w) (l3Of w))
  | 7 => .ok (.iabs (hdrOf w) (l3Of w))
  | 8 => .ok (.ineg (hdrOf w) (l3Of w))
  | 9 => .ok (.iand (hdrOf w) (l3Of w))
  | 10 => .ok (.ior (hdrOf w) (l3Of w))
  | 11 => .ok (.ixor (hdrOf w) (l3Of w))
  | 12 => .ok (.inot (hdrOf w) (l3Of w))
  | 13 => .ok (.ishl (hdrOf w) (l3Of w))
  | 14 => .ok (.ishr (hdrOf w) (l3Of w))
  | 15 => .ok (.isra (hdrOf w) (l3Of w))
  | 16 => .ok (.irot (hdrOf w) (l3Of w))
  | 17 => .ok (.iset (hdrOf w) (l3Of w))
  | 18 => .ok (.isel (hdrOf w) (l3Of w))
  | 19 => .ok (.popc (hdrOf w) (l3Of w))
  | 20 => .ok (.clz (hdrOf w) (l3Of w))
  | 21 => .ok (.brev (hdrOf w) (l3Of w))
  | 22 => .ok (.bfx (hdrOf w) (l3Of w))
  | 23 => .ok (.bfi (hdrOf w) (l3Of w))
  | 24 => .ok (.mov (hdrOf w) (l3Of w))
  | 25 => .ok (.movi (hdrOf w) (liOf w))
  | _ => .err .unassignedOp

/-- Class 0x1, 64-bit integers: the op numbers of R391. -/
def decodeClass1 (op : Nat) (w : BitVec 96) : Decoded :=
  match op with
  | 0 => .ok (.ladd (hdrOf w) (l3Of w))
  | 1 => .ok (.lsub (hdrOf w) (l3Of w))
  | 2 => .ok (.lshl (hdrOf w) (l3Of w))
  | 3 => .ok (.lshr (hdrOf w) (l3Of w))
  | 4 => .ok (.lsra (hdrOf w) (l3Of w))
  | 5 => .ok (.lset (hdrOf w) (l3Of w))
  | 6 => .ok (.lmin (hdrOf w) (l3Of w))
  | 7 => .ok (.lmax (hdrOf w) (l3Of w))
  | 8 => .ok (.lmulw (hdrOf w) (l3Of w))
  | 9 => .ok (.lsel (hdrOf w) (l3Of w))
  | _ => .err .unassignedOp

/-- Class 0x2, FP32: the op numbers of R391. -/
def decodeClass2 (op : Nat) (w : BitVec 96) : Decoded :=
  match op with
  | 0 => .ok (.fadd (hdrOf w) (l3Of w))
  | 1 => .ok (.fsub (hdrOf w) (l3Of w))
  | 2 => .ok (.fmul (hdrOf w) (l3Of w))
  | 3 => .ok (.ffma (hdrOf w) (l3Of w))
  | 4 => .ok (.fmin (hdrOf w) (l3Of w))
  | 5 => .ok (.fmax (hdrOf w) (l3Of w))
  | 6 => .ok (.fset (hdrOf w) (l3Of w))
  | 7 => .ok (.frnd (hdrOf w) (l3Of w))
  | 8 => .ok (.fclass (hdrOf w) (l3Of w))
  | _ => .err .unassignedOp

/-- Class 0x3, FP64: the op numbers of R391. -/
def decodeClass3 (op : Nat) (w : BitVec 96) : Decoded :=
  match op with
  | 0 => .ok (.dadd (hdrOf w) (l3Of w))
  | 1 => .ok (.dsub (hdrOf w) (l3Of w))
  | 2 => .ok (.dmul (hdrOf w) (l3Of w))
  | 3 => .ok (.dfma (hdrOf w) (l3Of w))
  | 4 => .ok (.dmin (hdrOf w) (l3Of w))
  | 5 => .ok (.dmax (hdrOf w) (l3Of w))
  | 6 => .ok (.dset (hdrOf w) (l3Of w))
  | 7 => .ok (.drnd (hdrOf w) (l3Of w))
  | _ => .err .unassignedOp

/-- Class 0x4, paired half: the op numbers of R391. -/
def decodeClass4 (op : Nat) (w : BitVec 96) : Decoded :=
  match op with
  | 0 => .ok (.hadd2 (hdrOf w) (l3Of w))
  | 1 => .ok (.hmul2 (hdrOf w) (l3Of w))
  | 2 => .ok (.hfma2 (hdrOf w) (l3Of w))
  | 3 => .ok (.hmin2 (hdrOf w) (l3Of w))
  | 4 => .ok (.hmax2 (hdrOf w) (l3Of w))
  | 5 => .ok (.hset2 (hdrOf w) (l3Of w))
  | _ => .err .unassignedOp

/-- Class 0x5, convert: the op numbers of R391. -/
def decodeClass5 (op : Nat) (w : BitVec 96) : Decoded :=
  match op with
  | 0 => .ok (.cvt (hdrOf w) (l3Of w))
  | 1 => .ok (.pk8 (hdrOf w) (l3Of w))
  | 2 => .ok (.upk8 (hdrOf w) (l3Of w))
  | 3 => .ok (.pk16 (hdrOf w) (l3Of w))
  | 4 => .ok (.upk16 (hdrOf w) (l3Of w))
  | _ => .err .unassignedOp

/-- Class 0x6, special functions: the op numbers of R391. -/
def decodeClass6 (op : Nat) (w : BitVec 96) : Decoded :=
  match op with
  | 0 => .ok (.rcp (hdrOf w) (l3Of w))
  | 1 => .ok (.rsq (hdrOf w) (l3Of w))
  | 2 => .ok (.sqrt (hdrOf w) (l3Of w))
  | 3 => .ok (.ex2 (hdrOf w) (l3Of w))
  | 4 => .ok (.lg2 (hdrOf w) (l3Of w))
  | 5 => .ok (.sin (hdrOf w) (l3Of w))
  | 6 => .ok (.cos (hdrOf w) (l3Of w))
  | 7 => .ok (.tanh (hdrOf w) (l3Of w))
  | 8 => .ok (.drcp (hdrOf w) (l3Of w))
  | 9 => .ok (.drsq (hdrOf w) (l3Of w))
  | _ => .err .unassignedOp

/-- Class 0x7, cross-lane: the op numbers of R391. -/
def decodeClass7 (op : Nat) (w : BitVec 96) : Decoded :=
  match op with
  | 0 => .ok (.shfl (hdrOf w) (l3Of w))
  | 1 => .ok (.bcast (hdrOf w) (l3Of w))
  | 2 => .ok (.vote (hdrOf w) (l3Of w))
  | 3 => .ok (.redux (hdrOf w) (l3Of w))
  | 4 => .ok (.fredux (hdrOf w) (l3Of w))
  | 5 => .ok (.scan (hdrOf w) (l3Of w))
  | 6 => .ok (.matchL (hdrOf w) (l3Of w))
  | 7 => .ok (.elect (hdrOf w) (l3Of w))
  | _ => .err .unassignedOp

/-- Class 0x8, memory: the op numbers of R391. -/
def decodeClass8 (op : Nat) (w : BitVec 96) : Decoded :=
  match op with
  | 0 => .ok (.ld (hdrOf w) (lmOf w))
  | 1 => .ok (.st (hdrOf w) (lmOf w))
  | 2 => .ok (.ldc (hdrOf w) (lmOf w))
  | 3 => .ok (.prf (hdrOf w) (lmOf w))
  | 4 => .ok (.wbl (hdrOf w) (lmOf w))
  | 5 => .ok (.invl (hdrOf w) (lmOf w))
  | _ => .err .unassignedOp

/-- Class 0x9, atomic: the op numbers of R391. -/
def decodeClass9 (op : Nat) (w : BitVec 96) : Decoded :=
  match op with
  | 0 => .ok (.atom (hdrOf w) (lmOf w))
  | 1 => .ok (.cas (hdrOf w) (lmOf w))
  | 2 => .ok (.red (hdrOf w) (lmOf w))
  | 3 => .ok (.atomf (hdrOf w) (lmOf w))
  | _ => .err .unassignedOp

/-- Class 0xA, predicate and lane control: the op numbers of R391. -/
def decodeClass10 (op : Nat) (w : BitVec 96) : Decoded :=
  match op with
  | 0 => .ok (.pand (hdrOf w) (l3Of w))
  | 1 => .ok (.por (hdrOf w) (l3Of w))
  | 2 => .ok (.pxor (hdrOf w) (l3Of w))
  | 3 => .ok (.pnot (hdrOf w) (l3Of w))
  | 4 => .ok (.lbra (hdrOf w) (lcOf w))
  | 5 => .ok (.ljoin (hdrOf w) (lcOf w))
  | 6 => .ok (.lcall (hdrOf w) (lcOf w))
  | 7 => .ok (.lret (hdrOf w) (lcOf w))
  | 8 => .ok (.lexit (hdrOf w) (l3Of w))
  | 9 => .ok (.nop (hdrOf w) (l3Of w))
  | _ => .err .unassignedOp

/-- Class 0xB, matrix: the op numbers of R391. -/
def decodeClass11 (op : Nat) (w : BitVec 96) : Decoded :=
  match op with
  | 0 => .ok (.mma (hdrOf w) (lxOf w))
  | 1 => .ok (.mmag (hdrOf w) (lxOf w))
  | 2 => .ok (.mmaw (hdrOf w) (lxOf w))
  | 3 => .ok (.accz (hdrOf w) (lxOf w))
  | 4 => .ok (.accld (hdrOf w) (lxOf w))
  | 5 => .ok (.accst (hdrOf w) (lxOf w))
  | 6 => .ok (.accmv (hdrOf w) (lxOf w))
  | _ => .err .unassignedOp

/-- Class 0xC, render: the op numbers of R391. -/
def decodeClass12 (op : Nat) (w : BitVec 96) : Decoded :=
  match op with
  | 0 => .ok (.primout (hdrOf w) (l3Of w))
  | 1 => .ok (.binnext (hdrOf w) (l3Of w))
  | 2 => .ok (.rastq (hdrOf w) (l3Of w))
  | 3 => .ok (.tex (hdrOf w) (l3Of w))
  | 4 => .ok (.ztest (hdrOf w) (l3Of w))
  | 5 => .ok (.tilew (hdrOf w) (l3Of w))
  | 6 => .ok (.tilerd (hdrOf w) (l3Of w))
  | 7 => .ok (.tilefl (hdrOf w) (l3Of w))
  | _ => .err .unassignedOp

/-- A lane word (R384, R391). -/
def decodeLane (w : BitVec 96) : Decoded :=
  let op := (w.extractLsb' 86 6).toNat
  if w = 0 then .err .zeroWord else
  if w.extractLsb' 81 4 = 15 then .err .badPredicate else
  match (w.extractLsb' 92 4).toNat with
  | 0 => decodeClass0 op w
  | 1 => decodeClass1 op w
  | 2 => decodeClass2 op w
  | 3 => decodeClass3 op w
  | 4 => decodeClass4 op w
  | 5 => decodeClass5 op w
  | 6 => decodeClass6 op w
  | 7 => decodeClass7 op w
  | 8 => decodeClass8 op w
  | 9 => decodeClass9 op w
  | 10 => decodeClass10 op w
  | 11 => decodeClass11 op w
  | 12 => decodeClass12 op w
  | _ => .err .unassignedClass

/-- The bytes of one instruction, in memory order: 4 for a scalar word, 12 for a lane word (R394). -/
def decode (bs : List Byte) : Decoded :=
  if bs.length = 4 then decodeScalar (BitVec.ofNat 32 (leNat bs))
  else if bs.length = 12 then decodeLane (BitVec.ofNat 96 (leNat bs))
  else .err .badLength

/-- The word of a scalar instruction (R379 to R382); zero, which is no instruction, for the others. -/
def encodeScalar : Instr → Word
  | .sadd d a b => encSR 0x01 d a b 0
  | .ssub d a b => encSR 0x01 d a b 1
  | .smul d a b => encSR 0x01 d a b 2
  | .smulh d a b => encSR 0x01 d a b 3
  | .sand d a b => encSR 0x01 d a b 4
  | .sor d a b => encSR 0x01 d a b 5
  | .sxor d a b => encSR 0x01 d a b 6
  | .sshl d a b => encSR 0x01 d a b 7
  | .sshr d a b => encSR 0x01 d a b 8
  | .ssra d a b => encSR 0x01 d a b 9
  | .smin d a b => encSR 0x01 d a b 10
  | .smax d a b => encSR 0x01 d a b 11
  | .scmp c d a b => encSR 0x01 d a b (0b0001#4 ++ c)
  | .sadd64 d a b => encSR 0x01 d a b 32
  | .ssub64 d a b => encSR 0x01 d a b 33
  | .saddi d a imm => encSI 0x02 d a imm
  | .sandi d a imm => encSI 0x03 d a imm
  | .sori d a imm => encSI 0x04 d a imm
  | .sxori d a imm => encSI 0x05 d a imm
  | .sshli d a n => encSI 0x06 d a (0#9 ++ n)
  | .sshri d a n => encSI 0x07 d a (0#9 ++ n)
  | .ssrai d a n => encSI 0x08 d a (0#9 ++ n)
  | .slui d imm => encSU 0x09 d imm
  | .sld d a mode off => encSE 0x0A d a mode off
  | .sst d a mode off => encSE 0x0B d a mode off
  | .sldc d a off w => encSI 0x0C d a (off ++ w)
  | .bra c a off => encSB 0x10 c a off
  | .jmp imm => encSJ 0x11 imm
  | .call imm => encSJ 0x12 imm
  | .ret a => encSR 0x13 0 a 0 0
  | .loop c a off => encSB 0x14 c a off
  | .vrun imm => encSJ 0x18 imm
  | .vrunr a => encSR 0x19 0 a 0 0
  | .syncl d => encSR 0x1A d 0 0 0
  | .synclResume d => encSR 0x1A d 0 0 1
  | .swait b path => encSR 0x20 0 0 b (0#5 ++ path)
  | .bara d a => encSR 0x21 d a 0 0
  | .barw a b => encSR 0x22 0 a b 0
  | .smon a => encSR 0x23 0 a 0 0
  | .smwait d b => encSR 0x24 d 0 b 0
  | .fence scope ord => encSR 0x25 0 0 0 (0#3 ++ scope ++ ord)
  | .racq a b => encSR 0x26 0 a b 0
  | .racqAllDie a b => encSR 0x26 0 a b 1
  | .racqAllDevice a => encSR 0x26 0 a 0 2
  | .rbget first count => encSI 0x28 0 0 (first ++ 0#3 ++ count)
  | .rbput first count => encSI 0x29 0 0 (first ++ 0#3 ++ count)
  | .phase a b cls => encSE 0x2A 0 a b cls
  | .rgn => encSR 0x2B 0 0 0 0
  | .launch a => encSR 0x2C 0 a 0 0
  | .feed a b scope => encSR 0x2D 0 a b (0#5 ++ scope)
  | .copy a b scope => encSR 0x2E 0 a b (0#5 ++ scope)
  | .copyResume a b scope => encSR 0x2E 0 a b (0b00001#5 ++ scope)
  | .nbr a b scope => encSR 0x2F 0 a b (0#5 ++ scope)
  | .sread d num => encSI 0x30 d 0 num
  | .swrite a num => encSI 0x31 0 a num
  | .trap code => encSU 0x38 0 code
  | .eret => encSR 0x39 0 0 0 0
  | .exit => encSR 0x3A 0 0 0 0
  | _ => 0

/-- The word of a lane instruction (R384 to R391); zero, which is no instruction, for the others. -/
def encodeLane : Instr → BitVec 96
  | .iadd h f => encL3 0x0 0 h f
  | .isub h f => encL3 0x0 1 h f
  | .imul h f => encL3 0x0 2 h f
  | .imulh h f => encL3 0x0 3 h f
  | .imad h f => encL3 0x0 4 h f
  | .imin h f => encL3 0x0 5 h f
  | .imax h f => encL3 0x0 6 h f
  | .iabs h f => encL3 0x0 7 h f
  | .ineg h f => encL3 0x0 8 h f
  | .iand h f => encL3 0x0 9 h f
  | .ior h f => encL3 0x0 10 h f
  | .ixor h f => encL3 0x0 11 h f
  | .inot h f => encL3 0x0 12 h f
  | .ishl h f => encL3 0x0 13 h f
  | .ishr h f => encL3 0x0 14 h f
  | .isra h f => encL3 0x0 15 h f
  | .irot h f => encL3 0x0 16 h f
  | .iset h f => encL3 0x0 17 h f
  | .isel h f => encL3 0x0 18 h f
  | .popc h f => encL3 0x0 19 h f
  | .clz h f => encL3 0x0 20 h f
  | .brev h f => encL3 0x0 21 h f
  | .bfx h f => encL3 0x0 22 h f
  | .bfi h f => encL3 0x0 23 h f
  | .mov h f => encL3 0x0 24 h f
  | .movi h f => encLI 0x0 25 h f
  | .ladd h f => encL3 0x1 0 h f
  | .lsub h f => encL3 0x1 1 h f
  | .lshl h f => encL3 0x1 2 h f
  | .lshr h f => encL3 0x1 3 h f
  | .lsra h f => encL3 0x1 4 h f
  | .lset h f => encL3 0x1 5 h f
  | .lmin h f => encL3 0x1 6 h f
  | .lmax h f => encL3 0x1 7 h f
  | .lmulw h f => encL3 0x1 8 h f
  | .lsel h f => encL3 0x1 9 h f
  | .fadd h f => encL3 0x2 0 h f
  | .fsub h f => encL3 0x2 1 h f
  | .fmul h f => encL3 0x2 2 h f
  | .ffma h f => encL3 0x2 3 h f
  | .fmin h f => encL3 0x2 4 h f
  | .fmax h f => encL3 0x2 5 h f
  | .fset h f => encL3 0x2 6 h f
  | .frnd h f => encL3 0x2 7 h f
  | .fclass h f => encL3 0x2 8 h f
  | .dadd h f => encL3 0x3 0 h f
  | .dsub h f => encL3 0x3 1 h f
  | .dmul h f => encL3 0x3 2 h f
  | .dfma h f => encL3 0x3 3 h f
  | .dmin h f => encL3 0x3 4 h f
  | .dmax h f => encL3 0x3 5 h f
  | .dset h f => encL3 0x3 6 h f
  | .drnd h f => encL3 0x3 7 h f
  | .hadd2 h f => encL3 0x4 0 h f
  | .hmul2 h f => encL3 0x4 1 h f
  | .hfma2 h f => encL3 0x4 2 h f
  | .hmin2 h f => encL3 0x4 3 h f
  | .hmax2 h f => encL3 0x4 4 h f
  | .hset2 h f => encL3 0x4 5 h f
  | .cvt h f => encL3 0x5 0 h f
  | .pk8 h f => encL3 0x5 1 h f
  | .upk8 h f => encL3 0x5 2 h f
  | .pk16 h f => encL3 0x5 3 h f
  | .upk16 h f => encL3 0x5 4 h f
  | .rcp h f => encL3 0x6 0 h f
  | .rsq h f => encL3 0x6 1 h f
  | .sqrt h f => encL3 0x6 2 h f
  | .ex2 h f => encL3 0x6 3 h f
  | .lg2 h f => encL3 0x6 4 h f
  | .sin h f => encL3 0x6 5 h f
  | .cos h f => encL3 0x6 6 h f
  | .tanh h f => encL3 0x6 7 h f
  | .drcp h f => encL3 0x6 8 h f
  | .drsq h f => encL3 0x6 9 h f
  | .shfl h f => encL3 0x7 0 h f
  | .bcast h f => encL3 0x7 1 h f
  | .vote h f => encL3 0x7 2 h f
  | .redux h f => encL3 0x7 3 h f
  | .fredux h f => encL3 0x7 4 h f
  | .scan h f => encL3 0x7 5 h f
  | .matchL h f => encL3 0x7 6 h f
  | .elect h f => encL3 0x7 7 h f
  | .ld h f => encLM 0x8 0 h f
  | .st h f => encLM 0x8 1 h f
  | .ldc h f => encLM 0x8 2 h f
  | .prf h f => encLM 0x8 3 h f
  | .wbl h f => encLM 0x8 4 h f
  | .invl h f => encLM 0x8 5 h f
  | .atom h f => encLM 0x9 0 h f
  | .cas h f => encLM 0x9 1 h f
  | .red h f => encLM 0x9 2 h f
  | .atomf h f => encLM 0x9 3 h f
  | .pand h f => encL3 0xA 0 h f
  | .por h f => encL3 0xA 1 h f
  | .pxor h f => encL3 0xA 2 h f
  | .pnot h f => encL3 0xA 3 h f
  | .lbra h f => encLC 0xA 4 h f
  | .ljoin h f => encLC 0xA 5 h f
  | .lcall h f => encLC 0xA 6 h f
  | .lret h f => encLC 0xA 7 h f
  | .lexit h f => encL3 0xA 8 h f
  | .nop h f => encL3 0xA 9 h f
  | .mma h f => encLX 0xB 0 h f
  | .mmag h f => encLX 0xB 1 h f
  | .mmaw h f => encLX 0xB 2 h f
  | .accz h f => encLX 0xB 3 h f
  | .accld h f => encLX 0xB 4 h f
  | .accst h f => encLX 0xB 5 h f
  | .accmv h f => encLX 0xB 6 h f
  | .primout h f => encL3 0xC 0 h f
  | .binnext h f => encL3 0xC 1 h f
  | .rastq h f => encL3 0xC 2 h f
  | .tex h f => encL3 0xC 3 h f
  | .ztest h f => encL3 0xC 4 h f
  | .tilew h f => encL3 0xC 5 h f
  | .tilerd h f => encL3 0xC 6 h f
  | .tilefl h f => encL3 0xC 7 h f
  | _ => 0

/-- How many bytes an instruction has: 4 scalar, 12 lane, none for an event. -/
def instrBytes : Instr → Nat
  | .sadd _ _ _ => 4
  | .ssub _ _ _ => 4
  | .smul _ _ _ => 4
  | .smulh _ _ _ => 4
  | .sand _ _ _ => 4
  | .sor _ _ _ => 4
  | .sxor _ _ _ => 4
  | .sshl _ _ _ => 4
  | .sshr _ _ _ => 4
  | .ssra _ _ _ => 4
  | .smin _ _ _ => 4
  | .smax _ _ _ => 4
  | .scmp _ _ _ _ => 4
  | .sadd64 _ _ _ => 4
  | .ssub64 _ _ _ => 4
  | .saddi _ _ _ => 4
  | .sandi _ _ _ => 4
  | .sori _ _ _ => 4
  | .sxori _ _ _ => 4
  | .sshli _ _ _ => 4
  | .sshri _ _ _ => 4
  | .ssrai _ _ _ => 4
  | .slui _ _ => 4
  | .sld _ _ _ _ => 4
  | .sst _ _ _ _ => 4
  | .sldc _ _ _ _ => 4
  | .bra _ _ _ => 4
  | .jmp _ => 4
  | .call _ => 4
  | .ret _ => 4
  | .loop _ _ _ => 4
  | .vrun _ => 4
  | .vrunr _ => 4
  | .syncl _ => 4
  | .synclResume _ => 4
  | .swait _ _ => 4
  | .bara _ _ => 4
  | .barw _ _ => 4
  | .smon _ => 4
  | .smwait _ _ => 4
  | .fence _ _ => 4
  | .racq _ _ => 4
  | .racqAllDie _ _ => 4
  | .racqAllDevice _ => 4
  | .rbget _ _ => 4
  | .rbput _ _ => 4
  | .phase _ _ _ => 4
  | .rgn => 4
  | .launch _ => 4
  | .feed _ _ _ => 4
  | .copy _ _ _ => 4
  | .copyResume _ _ _ => 4
  | .nbr _ _ _ => 4
  | .sread _ _ => 4
  | .swrite _ _ => 4
  | .trap _ => 4
  | .eret => 4
  | .exit => 4
  | .iadd _ _ => 12
  | .isub _ _ => 12
  | .imul _ _ => 12
  | .imulh _ _ => 12
  | .imad _ _ => 12
  | .imin _ _ => 12
  | .imax _ _ => 12
  | .iabs _ _ => 12
  | .ineg _ _ => 12
  | .iand _ _ => 12
  | .ior _ _ => 12
  | .ixor _ _ => 12
  | .inot _ _ => 12
  | .ishl _ _ => 12
  | .ishr _ _ => 12
  | .isra _ _ => 12
  | .irot _ _ => 12
  | .iset _ _ => 12
  | .isel _ _ => 12
  | .popc _ _ => 12
  | .clz _ _ => 12
  | .brev _ _ => 12
  | .bfx _ _ => 12
  | .bfi _ _ => 12
  | .mov _ _ => 12
  | .movi _ _ => 12
  | .ladd _ _ => 12
  | .lsub _ _ => 12
  | .lshl _ _ => 12
  | .lshr _ _ => 12
  | .lsra _ _ => 12
  | .lset _ _ => 12
  | .lmin _ _ => 12
  | .lmax _ _ => 12
  | .lmulw _ _ => 12
  | .lsel _ _ => 12
  | .fadd _ _ => 12
  | .fsub _ _ => 12
  | .fmul _ _ => 12
  | .ffma _ _ => 12
  | .fmin _ _ => 12
  | .fmax _ _ => 12
  | .fset _ _ => 12
  | .frnd _ _ => 12
  | .fclass _ _ => 12
  | .dadd _ _ => 12
  | .dsub _ _ => 12
  | .dmul _ _ => 12
  | .dfma _ _ => 12
  | .dmin _ _ => 12
  | .dmax _ _ => 12
  | .dset _ _ => 12
  | .drnd _ _ => 12
  | .hadd2 _ _ => 12
  | .hmul2 _ _ => 12
  | .hfma2 _ _ => 12
  | .hmin2 _ _ => 12
  | .hmax2 _ _ => 12
  | .hset2 _ _ => 12
  | .cvt _ _ => 12
  | .pk8 _ _ => 12
  | .upk8 _ _ => 12
  | .pk16 _ _ => 12
  | .upk16 _ _ => 12
  | .rcp _ _ => 12
  | .rsq _ _ => 12
  | .sqrt _ _ => 12
  | .ex2 _ _ => 12
  | .lg2 _ _ => 12
  | .sin _ _ => 12
  | .cos _ _ => 12
  | .tanh _ _ => 12
  | .drcp _ _ => 12
  | .drsq _ _ => 12
  | .shfl _ _ => 12
  | .bcast _ _ => 12
  | .vote _ _ => 12
  | .redux _ _ => 12
  | .fredux _ _ => 12
  | .scan _ _ => 12
  | .matchL _ _ => 12
  | .elect _ _ => 12
  | .ld _ _ => 12
  | .st _ _ => 12
  | .ldc _ _ => 12
  | .prf _ _ => 12
  | .wbl _ _ => 12
  | .invl _ _ => 12
  | .atom _ _ => 12
  | .cas _ _ => 12
  | .red _ _ => 12
  | .atomf _ _ => 12
  | .pand _ _ => 12
  | .por _ _ => 12
  | .pxor _ _ => 12
  | .pnot _ _ => 12
  | .lbra _ _ => 12
  | .ljoin _ _ => 12
  | .lcall _ _ => 12
  | .lret _ _ => 12
  | .lexit _ _ => 12
  | .nop _ _ => 12
  | .mma _ _ => 12
  | .mmag _ _ => 12
  | .mmaw _ _ => 12
  | .accz _ _ => 12
  | .accld _ _ => 12
  | .accst _ _ => 12
  | .accmv _ _ => 12
  | .primout _ _ => 12
  | .binnext _ _ => 12
  | .rastq _ _ => 12
  | .tex _ _ => 12
  | .ztest _ _ => 12
  | .tilew _ _ => 12
  | .tilerd _ _ => 12
  | .tilefl _ _ => 12
  | .registerWrite _ _ _ _ => 0
  | .pkgpwrLimitWrite _ => 0
  | .powerWindowEnd _ => 0
  | .supplyEvent _ _ => 0
  | .supplyRestore _ => 0
  | .thermalWarning _ _ => 0
  | .thermalStop _ _ => 0
  | .thermalRestore _ _ => 0
  | .flitReplay _ _ => 0
  | .moduleDisable _ _ _ => 0
  | .routerReceive _ _ _ _ => 0
  | .requestTimeout _ _ => 0
  | .memoryPortRequest _ _ => 0
  | .uncorrectableError _ _ => 0
  | .memoryCompletion _ _ => 0
  | .rtcmdGoSign _ => 0
  | .rtcmdGoUnsigned _ => 0
  | .routeSignDone => 0
  | .routerPrepare _ => 0
  | .prepareAnswer _ => 0
  | .prepareTimeout _ => 0
  | .routeAbortRetry => 0
  | .drainMarkerReceive _ _ _ => 0
  | .drainMarkerAck _ _ _ => 0
  | .drainMarkerResend _ _ _ => 0
  | .dieResetStart _ => 0
  | .neighborFence _ _ => 0
  | .dieFailure _ => 0
  | .dieDownNotice _ _ => 0
  | .dieRelease _ => 0
  | .transientRequest _ _ _ => 0
  | .transientRequestReceive _ _ _ _ => 0
  | .tokenReceive _ => 0
  | .transientRetry _ _ => 0
  | .persistentConvert _ _ => 0
  | .persistentRequest _ _ _ => 0
  | .persistentActivate _ => 0
  | .activateReceive _ _ => 0
  | .deactivate _ _ => 0
  | .persRebroadcast _ _ => 0
  | .clusterHeldAge _ _ _ => 0
  | .recreationSweep _ _ => 0
  | .censusActivate _ _ => 0
  | .censusComplete _ => 0
  | .replicaRead _ _ _ => 0
  | .replicaDemote _ _ => 0
  | .replicaInvalidate _ _ => 0
  | .replicaDemoteDone _ _ => 0
  | .homeFlush _ _ => 0
  | .homeReplclr _ _ => 0
  | .homeBadop _ _ => 0
  | .homeCmdDone _ => 0
  | .bootRom _ _ _ => 0
  | .bootHub _ _ _ => 0
  | .bootDies _ => 0
  | .bootSelftest _ => 0
  | .bootRoute => 0
  | .bootKeys _ => 0
  | .bootDone => 0
  | .getVersion => 0
  | .getCapabilities => 0
  | .negotiateAlgorithms _ _ _ => 0
  | .getDigests => 0
  | .getCertificate _ _ _ => 0
  | .challenge _ _ => 0
  | .getMeasurements _ _ _ => 0
  | .spdmUnsupported _ => 0
  | .secrangeWrite _ _ _ _ => 0
  | .secrangeZerofillDone _ _ => 0
  | .bar2Read _ _ => 0
  | .bar2Write _ _ => 0
  | .sqStart _ _ _ => 0
  | .sqStop _ _ _ => 0
  | .sqDoorbell _ _ _ _ => 0
  | .cqDoorbell _ _ _ _ => 0
  | .gcpReadEntry _ => 0
  | .waitlistResolve _ => 0
  | .gridAdmit _ => 0
  | .notbeforeRelease _ _ => 0
  | .teamPlace _ => 0
  | .runStart _ => 0
  | .runEnd _ => 0
  | .issueSelect _ _ _ => 0
  | .starvationPromote _ => 0
  | .matrixAccept _ _ _ => 0
  | .rbgetServe _ _ => 0
  | .teamEnd _ => 0
  | .gridFinalStatus _ => 0
  | .completionEntryWrite _ => 0
  | .msixCoalesceTimeout _ => 0
  | .deadlineExpire _ => 0
  | .evtstatClear _ => 0
  | .dalecPortChange _ _ => 0
  | .peerRequestReceive _ _ _ => 0
  | .peerRequestTimeout _ _ => 0
  | .ptpSync _ _ => 0
  | .ptpAnnounce _ _ => 0
  | .ppsEdge _ => 0
  | .arpReply _ => 0
  | .timeSourceLoss => 0
  | .tsetWrite _ _ => 0
  | .tctlWrite _ => 0
  | .frameOpen _ _ _ => 0
  | .frameAbort _ _ => 0
  | .gatePrimReceive _ _ _ => 0
  | .gateMarkerReceive _ _ _ _ => 0
  | .gateObjectCheck _ _ => 0
  | .partialRenderDone _ _ => 0
  | .frameLatchWrite _ => 0
  | .activityWindowEnd _ _ => 0
  | .throttleEnd _ _ => 0
  | .tlbiAll _ _ => 0
  | .tlbiRoot _ _ => 0
  | .tlbiPage _ _ => 0
  | .tlbiDone => 0
  | .fqbaseEnable _ _ _ _ => 0
  | .fqcmdReplay _ _ _ _ => 0
  | .fqcmdKill _ _ _ _ => 0
  | .faultStallRetry _ _ => 0
  | .windowAccess _ _ => 0
  | .qctlWrite _ _ _ _ => 0
  | .qstatClear _ _ _ _ => 0
  | .promotionRequest _ _ _ => 0
  | .watchFire _ => 0
  | .smwaitTimeout _ => 0
  | .feedRowAppend _ _ _ => 0
  | .engineComplete _ _ => 0
  | .sscbCompare _ => 0
  | .watchdogExpire _ => 0
  | .preempt _ _ => 0
  | .preemptComplete => 0
  | .resume _ _ => 0
  | .teamRestore _ => 0
  | .matrixUnitFinish _ _ => 0
  | .grantedStart _ _ => 0
  | .ptpFollowUp _ => 0
  | .ptpDelayResp _ => 0
  | .ptpDelayReq => 0
  | .ppsseenExpire => 0
  | .endOfTeamMarkerAck _ _ => 0
  | .frameOpenReceive _ _ => 0
  | .frameOpenAck _ _ => 0
  | .censusMarkReceive _ _ _ => 0
  | .hostConfigurationRequest _ _ _ => 0

/-- The bytes of an instruction in memory order (R394, R6). -/
def encode (i : Instr) : List Byte :=
  if instrBytes i = 4 then leBytes 4 (encodeScalar i).toNat
  else if instrBytes i = 12 then leBytes 12 (encodeLane i).toNat
  else []

/-- What the decoder reads from an instruction whose bits are `w`, numbered as the table of operations numbers them: a
scalar word has 32 bits, a lane word 96; the bits above `nbits` are zero. -/
def decodeTableWord (nbits w : Nat) : Option Instr :=
  if nbits ≤ 32 then (decode (leBytes 4 (w % 2 ^ nbits))).toOption
  else (decode (leBytes 12 (w % 2 ^ nbits))).toOption

end Sys2Proof
end

