-- ==== Sys2Proof/Config.lean ====
section
/-! DEFINITION. What the spec leaves open and the model leaves free: constants with no body, of which nothing can be
proved (R3, log 4, log 11, log 13), and the bounds the part fixes. -/
namespace Sys2Proof.Config

/-- The undefined value number `i` of the reading numbered `n` (R3, log 4). -/
opaque free (n i : Nat) : BitVec 1024
/-- Which of the values within its bound a special function gives: the form's op number, the source (R433, R449,
log 11). -/
opaque sfu (op : Nat) (src : BitVec 64) : Nat
/-- The order and grouping a port picks for merged floating-point reductions: a pick (R476, log 12). -/
opaque mergeOrder (n : Nat) : Bool
/-- The ECDSA P-256 signature the trust die makes over a message with a key (R60, R110, log 13). -/
opaque sign (key : BitVec 512) (msg : List Byte) : BitVec 512
/-- Whether a routing image's signature verifies under a public key (R62, log 13). -/
opaque verify (pub : BitVec 512) (image : List Byte) : Bool
/-- The digest of the image in use of a kind: 1 the trust firmware, 2 the hub firmware, 3 + s the die controller firmware of
site s (R102, R108, log 1). -/
opaque imageDigest (n : Nat) : BitVec 256
/-- The secure-world policy image in package flash, where it is present and its check against the owner key hash passes (R102,
R114, log 1). -/
opaque policy (ownerHash : BitVec 256) : Option Policy
/-- The certificate chain of a slot (R110, log 13). -/
opaque certChain (slot : Nat) : List Byte
/-- The public half of a key (R111, log 13). -/
opaque publicOf (key : BitVec 512) : BitVec 512
/-- The device root secret, fused at manufacture (R111, log 13). -/
opaque rootSecret : BitVec 256
/-- The owner key hash, fused at provisioning (R111, log 13). -/
opaque ownerHash : BitVec 256
/-- The private key derived from the root secret for a use: 2 the package key, 3 the device identity key (R111, log 13). -/
opaque deriveKey (secret : BitVec 256) (use : Nat) : BitVec 512
/-- AES-256-XTS of one data unit of 128 bytes: key, tweak, plaintext (R113, log 13). -/
opaque xts (key : BitVec 512) (tweak : Nat) (plain : BitVec 1024) : BitVec 1024
/-- A fresh nonce (R109, R112, log 13). -/
opaque nonce (n : Nat) : BitVec 256
/-- A word of configuration space that identifies the part, or of a capability that the model holds no state of (R123, log 16). -/
opaque pciConst (word : Nat) : BitVec 32
/-- By how much a die's copy of device time is ahead of the hub's, within the bound of R144 (log 8). -/
opaque skew (site : Nat) : Nat
/-- The hash of the source core and SPA[47:12] that picks a Dalec port (R140, log 4). -/
opaque portHash (core page : Nat) : Nat
/-- Whether the root port completes a host atomic of an operation and a size in bytes; CAS has the number 16 (R127, log 4). -/
opaque hostAtomics (op size : Nat) : Bool
/-- The table entry the trust die chooses for a router and a destination whose X-then-Y route meets a removed die or a down
edge (R105, log 4). -/
opaque detour (n router dest : Nat) : BitVec 8

end Sys2Proof.Config
end

