-- ==== Sys2Proof/Machine/Regs.lean ====
section
/-! DEFINITION. Where things are: the parts of State by site, core and slot; the package physical address map (R32,
R33); and the 64-bit registers of the hub, the trust die and the core control pages with their reset values (R10). -/
namespace Sys2Proof.Machine

/-- The result of a meaning. -/
abbrev Out := Host.Outcome State Fault Refusal

/-- The key of a core position. -/
def coreKey (site core : Nat) : Nat := site * 64 + core
/-- The key of a warp slot. -/
def warpKey (site core slot : Nat) : Nat := coreKey site core * 64 + slot

/-- The core position `core` of site `site`. -/
def State.core (s : State) (site core : Nat) : Core := FMap.get Core.reset s.cores (coreKey site core)
/-- Change a core position. -/
def State.setCore (s : State) (site core : Nat) (c : Core) : State :=
  { s with cores := FMap.set s.cores (coreKey site core) c }
/-- The warp in a slot. -/
def State.warp (s : State) (site core slot : Nat) : Warp := FMap.get Warp.none s.warps (warpKey site core slot)
/-- Change the warp in a slot. -/
def State.setWarp (s : State) (site core slot : Nat) (w : Warp) : State :=
  { s with warps := FMap.set s.warps (warpKey site core slot) w }
/-- A render die. -/
def State.die (s : State) (site : Nat) : Die := FMap.get Die.reset s.dies site
/-- Change a render die. -/
def State.setDie (s : State) (site : Nat) (d : Die) : State := { s with dies := FMap.set s.dies site d }
/-- The warp at a reference. -/
def State.wref (s : State) (w : WRef) : Warp := s.warp w.site w.core w.slot
/-- Change the warp at a reference. -/
def State.setWref (s : State) (r : WRef) (w : Warp) : State := s.setWarp r.site r.core r.slot w

/-- The slot whose instruction is being executed. -/
def State.curRef (s : State) : WRef := { site := s.cur.site, core := s.cur.core, slot := s.cur.slot }
/-- The warp whose instruction is being executed. -/
def State.curW (s : State) : Warp := s.warp s.cur.site s.cur.core s.cur.slot
/-- Change the warp whose instruction is being executed. -/
def State.setW (s : State) (w : Warp) : State := s.setWarp s.cur.site s.cur.core s.cur.slot w
/-- The core whose instruction is being executed. -/
def State.curCore (s : State) : Core := s.core s.cur.site s.cur.core
/-- Change the core whose instruction is being executed. -/
def State.setC (s : State) (c : Core) : State := s.setCore s.cur.site s.cur.core c

/-- A team of the hub's table. -/
def State.team (s : State) (t : Nat) : Team := FMap.get Team.none s.hub.teams t
/-- Change a team. -/
def State.setTeam (s : State) (t : Nat) (x : Team) : State :=
  { s with hub := { s.hub with teams := FMap.set s.hub.teams t x } }
/-- A grid of the GCP's table. -/
def State.grid (s : State) (g : Nat) : Grid := FMap.get Grid.none s.hub.grids g
/-- Change a grid. -/
def State.setGrid (s : State) (g : Nat) (x : Grid) : State :=
  { s with hub := { s.hub with grids := FMap.set s.hub.grids g x } }

/-- `n` bytes at offset `off` of a record, lowest byte first (R6). -/
def fieldAt {w : Nat} (v : BitVec w) (off n : Nat) : Nat := v.toNat / 2 ^ (8 * off) % 2 ^ (8 * n)

/-- Bits `hi` to `lo` of a register (R5). -/
def getF (v : DWord) (hi lo : Nat) : Nat := v.toNat / 2 ^ lo % 2 ^ (hi + 1 - lo)
/-- A register with bits `hi` to `lo` replaced. -/
def setF (v : DWord) (hi lo x : Nat) : DWord :=
  BitVec.ofNat 64 (v.toNat - getF v hi lo * 2 ^ lo + x % 2 ^ (hi + 1 - lo) * 2 ^ lo)
/-- A count that stays at the largest value of its field. -/
def satAdd (bits x k : Nat) : Nat := min (x + k) (2 ^ bits - 1)
/-- A register whose saturating field rises by `k`. -/
def bumpF (v : DWord) (hi lo k : Nat) : DWord := setF v hi lo (satAdd (hi + 1 - lo) (getF v hi lo) k)

/-- The Dalec port of a site; 0xFF for an interior die (R21). -/
def sitePort (site : Nat) : Nat :=
  let x := site % 8
  let y := site / 8
  if y = 0 then x else if x = 7 then 7 + y else if y = 5 then 19 - x else if x = 0 then 24 - y else 0xFF

/-- First address of a site's HBM (R32). -/
def hbmBase (site : Nat) : Nat := site * 0x1000000000
/-- First address of a core's window (R33). -/
def winAddr (site core : Nat) : Nat := 0xF00000000000 + site * 0x10000000 + core * 0x400000
/-- Address of a register of a core control page (R33, R222). -/
def ctlAddr (site core off : Nat) : Nat := winAddr site core + 0x220000 + off
/-- First address of the hub and trust registers (R32). -/
def hubBase : Nat := 0xFF0000000000

/-- What a package physical address is (R32, R33). -/
inductive Region where
  /-- HBM of a site. -/
  | hbm (site : Nat)
  /-- The window of a core, with the offset in the window. -/
  | window (site core off : Nat)
  /-- The register region of the hub and trust dies, with the offset. -/
  | hubReg (off : Nat)
  /-- A reserved address. -/
  | reserved
  deriving DecidableEq, Repr

/-- The place of a package physical address in the map (R32, R33). -/
def region (pa : Nat) : Region :=
  if pa < 0x30000000000 then .hbm (pa / 0x1000000000)
  else if pa < 0xF00000000000 then .reserved
  else if pa < 0xF00300000000 then
    let o := pa - 0xF00000000000
    let r := o % 0x10000000
    if r < 0xC000000 then .window (o / 0x10000000) (r / 0x400000) (r % 0x400000) else .reserved
  else if hubBase ≤ pa ∧ pa < hubBase + 0x100000000 then .hubReg (pa - hubBase)
  else .reserved

/-- DCORE of a site (R30). -/
def dcoreA (site : Nat) : Nat := hubBase + 0x10000 + site * 0x40
/-- DSLICE of a site (R30). -/
def dsliceA (site : Nat) : Nat := dcoreA site + 8
/-- DSTATE of a site (R30). -/
def dstateA (site : Nat) : Nat := dcoreA site + 0x10
/-- PKGPWR (R38). -/
def pkgpwrA : Nat := hubBase + 0x20000
/-- RTCMD (R60). -/
def rtcmdA : Nat := hubBase + 0x30000
/-- RTSTAT (R60). -/
def rtstatA : Nat := hubBase + 0x30008
/-- Entry L of the logical neighbour table (R55). -/
def nbrA (l : Nat) : Nat := hubBase + 0x31000 + l * 8
/-- MLINK of a site (R71). -/
def mlinkA (site : Nat) : Nat := hubBase + 0x32000 + site * 0x40
/-- MERR of a site (R71). -/
def merrA (site : Nat) : Nat := mlinkA site + 8
/-- DSMASK i (R88). -/
def dsmaskA (i : Nat) : Nat := hubBase + 0x40000 + i * 8
/-- HADDR of a site (R98). -/
def haddrA (site : Nat) : Nat := hubBase + 0x41000 + site * 0x20
/-- HSTAT of a site (R98). -/
def hstatA (site : Nat) : Nat := haddrA site + 0x10
/-- COHCNT of a site (R101). -/
def cohcntA (site : Nat) : Nat := hubBase + 0x42000 + site * 8
/-- BOOTSTAT (R121). -/
def bootstatA : Nat := hubBase + 0x50000
/-- WORLDCFG (R121). -/
def worldcfgA : Nat := hubBase + 0x50008
/-- SECRANGE i of a site (R121). -/
def secrangeA (site i : Nat) : Nat := hubBase + 0x51000 + site * 0x40 + i * 8
/-- SECLOG of a site, 48 for the hub (R121). -/
def seclogA (site : Nat) : Nat := hubBase + 0x53000 + site * 0x10
/-- SECADDR of a site, 48 for the hub (R121). -/
def secaddrA (site : Nat) : Nat := seclogA site + 8
/-- SQBASE of a queue (R128). -/
def sqbaseA (q : Nat) : Nat := hubBase + 0x60000 + q * 0x40
/-- SQCFG of a queue (R128). -/
def sqcfgA (q : Nat) : Nat := sqbaseA q + 8
/-- CQBASE of a queue (R128). -/
def cqbaseA (q : Nat) : Nat := sqbaseA q + 0x10
/-- CQCFG of a queue (R128). -/
def cqcfgA (q : Nat) : Nat := sqbaseA q + 0x18
/-- APMAP i (R125). -/
def apmapA (i : Nat) : Nat := hubBase + 0x78000 + i * 8
/-- EVTCFG (R136). -/
def evtcfgA : Nat := hubBase + 0x79000
/-- EVTSTAT (R136). -/
def evtstatA : Nat := hubBase + 0x79008
/-- TCTL (R149 and the registers of device time). -/
def tctlA : Nat := hubBase + 0x80010
/-- TSTAT. -/
def tstatA : Nat := hubBase + 0x80018
/-- PKGID (R142). -/
def pkgidA : Nat := hubBase + 0x90000
/-- PKGRT n (R142). -/
def pkgrtA (n : Nat) : Nat := hubBase + 0x91000 + n * 8
/-- DLSTAT p (R142). -/
def dlstatA (p : Nat) : Nat := hubBase + 0x94000 + p * 8
/-- Word pair i of the MSI-X table: address, then data and vector control (R135). -/
def msixA (v i : Nat) : Nat := hubBase + 0xA0000 + v * 16 + i * 8
/-- Word i of the MSI-X pending bits (R135). -/
def pbaA (i : Nat) : Nat := hubBase + 0xA8000 + i * 8
/-- FRCTL of a frame slot (R179). -/
def frctlA (f : Nat) : Nat := hubBase + 0xB0000 + f * 0x20
/-- FRSTAT of a frame slot (R179). -/
def frstatA (f : Nat) : Nat := frctlA f + 8
/-- TLBIVA (R262). -/
def tlbivaA : Nat := hubBase + 0xC1008
/-- TLBISTAT (R262). -/
def tlbistatA : Nat := hubBase + 0xC1010
/-- FQBASE of a site and world (R267). -/
def fqbaseA (site w : Nat) : Nat := hubBase + 0xC2000 + site * 0x40 + w * 0x20
/-- FQHEAD of a site and world (R267). -/
def fqheadA (site w : Nat) : Nat := fqbaseA site w + 8
/-- FQTAIL of a site and world (R267). -/
def fqtailA (site w : Nat) : Nat := fqbaseA site w + 0x10
/-- RASCNT of a site, 48 for the hub (R334). -/
def rascntA (site : Nat) : Nat := hubBase + 0xD0000 + site * 0x20
/-- RASREC (R334). -/
def rasrecA (site : Nat) : Nat := rascntA site + 8
/-- RASADDR (R334). -/
def rasaddrA (site : Nat) : Nat := rascntA site + 0x10
/-- PEROOT (R350). -/
def perootA : Nat := hubBase + 0xE0000
/-- PESTAT (R350). -/
def pestatA : Nat := hubBase + 0xE0010

/-- Reset value of a hub or trust register by its offset (R30, R38, R55, R60, R121, R135, R136, R179): zero where the
tables give no other. The vector control words of the MSI-X table reset masked (log 16). -/
def hubReset (o : Nat) : DWord :=
  if 0x10000 ≤ o ∧ o < 0x10C00 ∧ o % 0x40 = 0x10 then BitVec.ofNat 64 (0xFFFF0000 + sitePort ((o - 0x10000) / 0x40) * 256)
  else if o = 0x20000 then 0x55F0
  else if o = 0x30008 then 0x0000FF0000000000
  else if 0x31000 ≤ o ∧ o < 0x31200 then 0xFFFFFFFFFFFFFFFF
  else if o = 0x50000 then 0xFF0000
  else if o = 0x50008 then 0x3FF
  else if o = 0x79000 then 0x0000FFFF00000000
  else if 0xA0000 ≤ o ∧ o < 0xA8000 ∧ o % 16 = 8 then 0x0000000100000000
  else if 0xB0000 ≤ o ∧ o < 0xB0200 ∧ o % 32 = 8 then 0xFF000000
  else 0

/-- Reset value of a register by its address: LMAP with every lane good (log 14), zero for the other registers of a core
control page that hold what they are written. -/
def regReset (pa : Nat) : DWord :=
  match region pa with
  | .hubReg o => hubReset o
  | .window _ _ o => if o = 0x220000 then 0xFFFFFFFF else 0
  | _ => 0

/-- The value a register holds. -/
def State.reg (s : State) (pa : Nat) : DWord :=
  match FMap.find s.regs pa with
  | some v => v
  | none => regReset pa
/-- Change what a register holds. -/
def State.setReg (s : State) (pa : Nat) (v : DWord) : State := { s with regs := FMap.set s.regs pa v }
/-- Bits of a register. -/
def State.regF (s : State) (pa hi lo : Nat) : Nat := getF (s.reg pa) hi lo
/-- Change bits of a register. -/
def State.setRegF (s : State) (pa hi lo x : Nat) : State := s.setReg pa (setF (s.reg pa) hi lo x)
/-- Raise a saturating field of a register. -/
def State.bumpReg (s : State) (pa hi lo k : Nat) : State := s.setReg pa (bumpF (s.reg pa) hi lo k)

/-- Device time as a site's copy has it (R144): the hub's own at the hub, and at a die at most 2 ns more. -/
def State.timeAt (s : State) (site : Nat) : DWord := if site < 48 then s.time + BitVec.ofNat 64 (Config.skew site % 3) else s.time

/-- Whether the function is in D3hot (R123): the power state of its Power Management capability (log 16). -/
def State.asleep (s : State) : Bool := (FMap.get (0 : Word) s.trust.pci 0x11).extractLsb' 0 2 == 3
/-- Whether MSI-X messages are sent at all (R135): Enable set, Function Mask clear, and the function not in D3hot. -/
def State.msixOn (s : State) : Bool :=
  let v := FMap.get (0 : Word) s.trust.pci 0x14
  v.getLsbD 31 && !v.getLsbD 30 && !s.asleep

/-- The tables of the generation in force (R64, R538): the old ones until the hub enters DRAIN. -/
def State.tables (s : State) : FMap (BitVec 8) := if s.regF rtstatA 2 0 = 3 then s.rtOld else s.rt
/-- RTENT r, j (R538): the entries of router r for DEST 8j to 8j + 7, from PHASE DONE on. -/
def State.rtent (s : State) (r j : Nat) : DWord :=
  if s.regF bootstatA 3 0 ≠ 6 then 0
  else BitVec.ofNat 64 ((List.range 8).foldl (fun n i => n + (FMap.get (0 : BitVec 8) s.tables (64 * r + 8 * j + i)).toNat * 2 ^ (8 * i)) 0)
/-- What a register of the hub and trust region reads (R8, R149, R538), by its offset: RTENT shows the tables in force, TNOW
device time, and every other register what it holds. A write-only register holds 0. -/
def State.hubRead (s : State) (o : Nat) : DWord :=
  if 0x34000 ≤ o ∧ o < 0x34C40 then s.rtent ((o - 0x34000) / 0x40) (o % 0x40 / 8)
  else if o = 0x80000 then s.time
  else s.reg (hubBase + o)

/-- DSTATE.STATE of a site: 0 OFF, 1 TEST, 2 UP, 3 MAPOUT, 4 QUIESCE (R30). -/
def State.dieSt (s : State) (site : Nat) : Nat := s.regF (dstateA site) 2 0
/-- Whether a render die is UP (R30). -/
def State.dieUp (s : State) (site : Nat) : Bool := s.dieSt site == 2
/-- The logical number of a die; 0xFFFF when it has none (R30, R53). -/
def State.logical (s : State) (site : Nat) : Nat := s.regF (dstateA site) 31 16
/-- Whether a core position is enabled (R30). -/
def State.coreOn (s : State) (site core : Nat) : Bool := (s.reg (dcoreA site)).getLsbD core
/-- The slice that serves a core: its cluster's, or the partner's when its own is fused off (R26). -/
def State.sliceOf (s : State) (site core : Nat) : Nat :=
  if (s.reg (dsliceA site)).getLsbD (12 + core / 4) then core / 4 ^^^ 1 else core / 4
/-- Passes of a pipe of a core: 2 with 16 good lanes, else 3 (R208). -/
def State.passes (s : State) (site core pipe : Nat) : Nat :=
  let m := s.regF (ctlAddr site core 0) (16 * pipe + 15) (16 * pipe)
  if m = 0xFFFF then 2 else 3

end Sys2Proof.Machine
end

