-- ==== Sys2Proof/Machine/Mem.lean ====
section
/-! DEFINITION. Memory: the bytes of the coherent copy, event reports, worlds of memory, tokens of lines, the L1 and the
cluster slices with what releases and acquires do in them (R72 to R98, R281, R297, log 7, log 9). -/
namespace Sys2Proof.Machine

/-- The byte an address holds; 0 where nothing is listed (log 3). -/
def byteAt (m : List Host.Cell) (a : Nat) : Byte := FMap.get 0 m a
/-- Write one byte, keeping the canonical form: a byte that reads as an unlisted one is not listed. -/
def putByte (m : List Host.Cell) (a : Nat) (b : Byte) : List Host.Cell := FMap.put 0 m a b
/-- The canonical form of memory: addresses rise strictly and no listed byte is 0. -/
def Memory.wf (m : List Host.Cell) : Bool := FMap.wf m && m.all fun c => c.2 != 0

/-- `n` bytes from an address on, lowest first (R6). -/
def readBytes (m : List Host.Cell) (a : Nat) : Nat → Nat
  | 0 => 0
  | n + 1 => (byteAt m a).toNat + 256 * readBytes m (a + 1) n
/-- Write `n` bytes from an address on, lowest first (R6). -/
def writeBytes (m : List Host.Cell) (a : Nat) : Nat → Nat → List Host.Cell
  | 0, _ => m
  | n + 1, v => writeBytes (putByte m a (BitVec.ofNat 8 v)) (a + 1) n (v / 256)
/-- Write those of `n` bytes whose bit of a mask is set. -/
def writeMasked (m : List Host.Cell) (a : Nat) : Nat → Nat → Nat → List Host.Cell
  | 0, _, _ => m
  | n + 1, v, k =>
    writeMasked (if k % 2 = 1 then putByte m a (BitVec.ofNat 8 v) else m) (a + 1) n (v / 256) (k / 2)
/-- Write the bytes of a list from an address on. -/
def writeList (m : List Host.Cell) (a : Nat) : List Byte → List Host.Cell
  | [] => m
  | b :: bs => writeList (putByte m a b) (a + 1) bs
/-- The bytes from an address on as a list. -/
def readList (m : List Host.Cell) (a : Nat) : Nat → List Byte
  | 0 => []
  | n + 1 => byteAt m a :: readList m (a + 1) n

/-- The line of an address: 128 bytes (R72). -/
def lineOf (pa : Nat) : Nat := pa / 128
/-- The home site of a line (R90, R91). -/
def homeOf (line : Nat) : Nat := line * 128 / 0x1000000000

/-- Send MSI-X vector `v`, or set its pending bit while the vector or the function is masked (R135, log 16). -/
def sendMsix (s : State) (v : Nat) : State :=
  let ctl := s.reg (msixA v 1)
  if getF ctl 32 32 = 1 || !s.msixOn then
    let a := pbaA (v / 64)
    s.setReg a (s.reg a ||| BitVec.ofNat 64 (2 ^ (v % 64)))
  else { s with outbox := s.outbox ++ [.msix v (s.reg (msixA v 0)) (BitVec.ofNat 32 ctl.toNat)] }

/-- Set a bit of EVTSTAT, and send the event vector when the bit rises unmasked (R136). -/
def raiseEvt (s : State) (k : Nat) : State :=
  let old := s.reg evtstatA
  let s1 := s.setReg evtstatA (old ||| BitVec.ofNat 64 (2 ^ k))
  if !old.getLsbD k && !(s.reg evtcfgA).getLsbD (32 + k) then sendMsix s1 (s.regF evtcfgA 10 0) else s1

/-- Record a security event at a site, 48 for the hub: requester and address (R121, R122); a count that rises is reported (R136). -/
def secEvent (s : State) (site srcSite srcCore addr : Nat) : State :=
  let v := setF (setF (bumpF (s.reg (seclogA site)) 63 48 1) 47 42 srcSite) 41 36 srcCore
  let s1 := (s.setReg (seclogA site) v).setReg (secaddrA site) (BitVec.ofNat 64 (addr % 2 ^ 48))
  if s.regF (seclogA site) 63 48 = 0xFFFF then s1 else raiseEvt s1 1

/-- Log an error at a site: KIND, WHERE, CORE, SLOT, UNIT, PC and address (R334, R335). -/
def rasLog (s : State) (site kind wher core slot unit pc addr : Nat) : State :=
  let v := kind % 256 * 2 ^ 56 + wher % 256 * 2 ^ 48 + core % 64 * 2 ^ 42 + slot % 64 * 2 ^ 36 + unit % 4 * 2 ^ 34 + pc % 2 ^ 32
  (s.setReg (rasrecA site) (BitVec.ofNat 64 v)).setReg (rasaddrA site) (BitVec.ofNat 64 (addr % 2 ^ 48))

/-- Whether secure range `i` of a site covers a 512 KiB unit (R114, R121). -/
def rangeCovers (s : State) (site u i : Nat) : Bool :=
  let v := s.reg (secrangeA site i)
  v.getLsbD 63 && decide (getF v 16 0 ≤ u) && decide (u < getF v 16 0 + getF v 49 32)
/-- Whether a zero-fill reaches a unit: it is one of those whose world the write of the range changed (R115). -/
def fillCovers (site u : Nat) (f : Nat × Nat × Nat × Nat) : Bool :=
  f.1 == site && decide (f.2.2.1 ≤ u) && decide (u < f.2.2.2)
/-- Whether an address of HBM is in a secure range, and whether its unit is being zero-filled (R114, R115). -/
def secAt (s : State) (pa : Nat) : Bool × Bool :=
  let site := pa / 0x1000000000
  let u := pa % 0x1000000000 / 0x80000
  ((List.range 8).any (rangeCovers s site u), s.trust.fills.any (fillCovers site u))

/-- Completion statuses of the mesh (R50). -/
def stOk : Nat := 0
/-- Reserved target (R34). -/
def stAddr : Nat := 1
/-- Refused at the destination (R119). -/
def stPerm : Nat := 2
/-- Destination die down (R34). -/
def stDieDown : Nat := 3
/-- No route (R50). -/
def stUnreach : Nat := 4
/-- Uncorrectable data (R86). -/
def stPoison : Nat := 5
/-- Given up by the requester (R57). -/
def stTimeout : Nat := 6

/-- Who makes an access: site, core position or die-level code (R46), warp slot, world, whether its accesses are a core's own
(through L1) or an engine's, the tag of the operation it is part of, and, for a request made again, its SEQ (R57). -/
structure Who where
  site : Nat
  core : Nat
  slot : Nat
  sec : Bool
  own : Bool
  tag : Option (BitVec 16) := none
  again : Option Nat := none
  deriving DecidableEq, Repr
/-- A die-level requester of a world (R46). -/
def dieWho (site code : Nat) (sec : Bool) : Who := { site := site, core := code, slot := 0, sec := sec, own := false }

/-- The key of a requester in a replay filter (R56). -/
def reqKey (site core : Nat) : Nat := site * 64 + core
/-- Whether a SEQ lies at or above a low-water mark (R56). -/
def seqAbove (seq lwm : Nat) : Bool := decide ((seq + 4096 - lwm) % 4096 < 2048)
/-- The ports that know a requester learn its low-water mark, and drop the entries of its replay filter below it and, as of a SEQ
used before, at the SEQ its next request takes (R58). -/
def noteMark (s : State) (rq lwm seq : Nat) : State :=
  let learn (d : Die) : Die :=
    { d with lwms := FMap.set d.lwms rq lwm,
             filter := FMap.put [] d.filter rq ((FMap.get [] d.filter rq).filter fun x => seqAbove x.1 lwm && x.1 != seq) }
  { s with dies := s.dies.map fun e => if (FMap.find e.2.lwms rq).isSome then (e.1, learn e.2) else e }
/-- The low-water mark of a core (R56): the SEQ of its oldest atomic without a completion, or its next SEQ. -/
def Core.mark (c : Core) : Nat := match c.atoms with | e :: _ => e.1 | [] => c.seq
/-- The tag of a requester's next request (R56): its SEQ and its LWM. A core keeps its own SEQs, and with them its atomics that
have no completion; a die-level requester's completes within its step, so its own SEQ is its LWM. A request made again keeps its
tag (R57). -/
def takeSeq (s : State) (who : Who) (atomic : Bool) : State × Nat × Nat :=
  match who.again with
  | some q => (s, q, if who.core < 48 then (s.core who.site who.core).mark else q)
  | none =>
  if who.core < 48 then
    let c := s.core who.site who.core
    let l := match atomic, who.tag with
      | true, some tag => c.atoms ++ [(c.seq, who.slot, tag)]
      | _, _ => c.atoms
    let c1 := { c with seq := (c.seq + 1) % 4096, atoms := l }
    let m := if atomic && l.isEmpty then c.seq else c1.mark
    (noteMark (s.setCore who.site who.core { c1 with lwm := c1.mark }) (reqKey who.site who.core) m c.seq, c.seq, m)
  else
    let d := s.die who.site
    let n := FMap.get 0 d.seqs who.core
    (noteMark (s.setDie who.site { d with seqs := FMap.set d.seqs who.core ((n + 1) % 4096) }) (reqKey who.site who.core) n n, n, n)
/-- A request leaves for another site: it takes the next SEQ of its requester (R56). -/
def sendReq (s : State) (who : Who) (site : Nat) : State := if site = who.site then s else (takeSeq s who false).1
/-- Atomics of a warp that have completed leave their core's list (R56). -/
def dropAtoms (s : State) (r : WRef) (gone : BitVec 16 → Bool) : State :=
  let c := s.core r.site r.core
  if c.atoms.isEmpty then s
  else
    let c1 := { c with atoms := c.atoms.filter fun e => !(e.2.1 == r.slot && gone e.2.2) }
    s.setCore r.site r.core { c1 with lwm := c1.mark }
/-- Whether a core can make `n` more requests (R56): no SEQ lies 2048 or more above its low-water mark, and no more than 256
atomics are without a completion. -/
def seqRoom (s : State) (site core : Nat) (atomic : Bool) (n : Nat) : Bool :=
  let c := s.core site core
  (!atomic || decide (c.atoms.length + n ≤ 256)) && decide ((c.seq + 4096 - c.mark) % 4096 + n < 2048)

/-- What the memory port of an address meets besides its site's state: the world check and a range being zero-filled
(R115, R119). -/
def portSt (s : State) (pa : Nat) (sec : Bool) : Nat :=
  let (inSec, busy) := secAt s pa
  if busy || (inSec && !sec) then stPerm else stOk
/-- What a refusal at a memory port leaves (R119): a security event at its site where the requester's world is the reason. -/
def portEvent (s : State) (site srcSite srcCore pa : Nat) (sec : Bool) : State :=
  if (secAt s pa).1 && !sec then secEvent s site srcSite srcCore pa else s

/-- The routing table entry of a router for a destination: ports 0 to 5, or none (R51). -/
def rtEntry (s : State) (router dest : Nat) : BitVec 8 := FMap.get 0 s.rt (router * 64 + dest)

/-- The router at the far end of a port: 48 is the hub's, which joins the west edges of sites 16 and 24 (R20, R42, R51). -/
def linkOf (router port : Nat) : Option Nat :=
  if router < 48 then
    (match port with
     | 0 => if 8 ≤ router then some (router - 8) else none
     | 1 => if router % 8 < 7 then some (router + 1) else none
     | 2 => if router < 40 then some (router + 8) else none
     | 3 => if 0 < router % 8 then some (router - 1) else if router = 16 || router = 24 then some 48 else none
     | _ => none)
  else match port with | 1 => some 16 | 5 => some 24 | _ => none
/-- The port at the far end of a link that leads back. -/
def backPort (router port : Nat) : Nat :=
  if router = 48 then 3
  else if port = 3 && router % 8 = 0 then (if router = 16 then 1 else 5)
  else (port + 2) % 4
/-- Working modules of an edge (R44, R71): the hub's edges are counted at sites 16 and 24. -/
def edgeMask (s : State) (router port : Nat) : Nat :=
  if router = 48 then s.regF (mlinkA (if port = 1 then 16 else 24)) 63 60
  else s.regF (mlinkA router) (16 * port + 15) (16 * port + 12)
/-- Whether a router has fenced its edge (R68). -/
def edgeFenced (s : State) (router port : Nat) : Bool :=
  if router = 48 then s.hub.fenced.getLsbD port else (s.die router).fenced.getLsbD port
/-- The status a table entry without a port names (R51). -/
def nonest (e : BitVec 8) : Nat := match (e.extractLsb' 3 2).toNat with | 1 => stAddr | 2 => stDieDown | _ => stUnreach

/-- What a router answers a request that meets a fenced edge: DIEDOWN where the destination die is down, else there is no
working route (R50, R68, R69). -/
def fencedSt (s : State) (dest : Nat) : Nat := if dest < 48 && !s.dieUp dest then stDieDown else stUnreach
/-- Follow a request's route from one router on: the status it meets, and the router that answers or that it reaches (R44,
R50, R51, R68). -/
def routeEnd (s : State) (dest : Nat) : Nat → Nat → Nat × Nat
  | 0, r => (stUnreach, r)
  | fuel + 1, r =>
    if r = dest then (stOk, r)
    else
      let e := rtEntry s r dest
      let p := (e.extractLsb' 0 3).toNat
      if p = 7 then (nonest e, r)
      else
        match linkOf r p with
        | none => (stUnreach, r)
        | some x =>
          if edgeFenced s r p then (fencedSt s dest, r) else if edgeMask s r p = 0 then (stUnreach, r) else routeEnd s dest fuel x
/-- The status a request meets on its route from one router on. -/
def followRoute (s : State) (dest fuel r : Nat) : Nat := (routeEnd s dest fuel r).1

/-- Whether a request from a site reaches a destination site: OK, or the status that answers it on its way (R50, R51). A
request to the own site passes no route. -/
def routeSt (s : State) (src dest : Nat) : Nat := followRoute s dest 64 src

/-- What an access to a site meets before it reaches the site's memory or windows (R34, R50). -/
def siteSt (s : State) (src site : Nat) : Nat :=
  if s.dieUp site then routeSt s src site
  else if s.dieSt site = 3 && s.hub.bootOut.getLsbD site then stAddr else stDieDown

/-- Count an error completion, or a packet discarded, in MERR.ERRCPL of a die's router (R51, R71). -/
def errCpl (s : State) (router : Nat) : State := if router < 48 then s.bumpReg (merrA router) 31 16 1 else s
/-- A request from a site to another that fails on its way: the router that answers it counts an error completion (R71). -/
def siteFail (s : State) (src site : Nat) : State :=
  if src = site then s
  else
    let e := routeEnd s site 64 src
    if e.1 = stOk then s else errCpl s e.2

/-- Tokens of a line (R75). -/
def tokOf (s : State) (line : Nat) : Tok := FMap.get Tok.home64 s.tokens line
/-- Fire the watches that a write of a line's coherent copy meets (R247). -/
def fireWatches (s : State) (p : Nat → Warp → Bool) : State :=
  { s with warps := s.warps.map fun e =>
      match e.2.watch with
      | some x => if p e.1 e.2 then (e.1, { e.2 with watch := some { x with fired := true } }) else e
      | Option.none => e }
/-- Whether a warp's armed watch names a line. -/
def watches (line : Nat) (w : Warp) : Bool :=
  match w.watch with
  | some x => x.near && x.line == line
  | Option.none => false

/-- Change the tokens of a line; a line all of whose tokens are at home under serial 0 is not listed. A die that loses its
tokens or its slice copies fires the watches of its warps on the line (R247). -/
def setTok (s : State) (line : Nat) (t : Tok) : State :=
  let old := tokOf s line
  let lost : List Nat := (old.dies.filter fun e =>
    match FMap.find t.dies e.1 with
    | some x => (e.2.tokens != 0 && x.tokens == 0) || (e.2.valid && !x.valid)
    | none => e.2.tokens != 0 || e.2.valid).map fun e => e.1
  fireWatches { s with tokens := FMap.put Tok.home64 s.tokens line t } fun k w => lost.contains (k / 4096) && watches line w

/-- Tokens of the line's serial that exist: at home, at dies and in flight (R75). -/
def tokTotal (s : State) (line : Nat) : Nat :=
  let t := tokOf s line
  t.home + t.dies.foldl (fun n d => n + d.2.tokens) 0 +
    (s.coh.filter fun m => m.line == line && m.serial == t.serial).foldl (fun n m => n + m.tokens) 0
/-- Whether the owner token of the line's serial still exists. -/
def ownerLives (s : State) (line : Nat) : Bool :=
  let t := tokOf s line
  t.homeOwner || t.dies.any (fun d => d.2.owner) || s.coh.any fun m => m.line == line && m.serial == t.serial && m.owner

/-- Poison a line (R84, R86). -/
def poisonLine (s : State) (line : Nat) : State :=
  { s with poison := if s.poison.contains line then s.poison else line :: s.poison }

/-- No token of a line. -/
def DirEnt.none : DirEnt := { tokens := 0, owner := false, valid := false, slices := 0, dirty := Option.none, sec := false }
/-- A die's directory entry of a line. -/
def dirOf (s : State) (line site : Nat) : DirEnt := FMap.get DirEnt.none (tokOf s line).dies site
/-- Whether a die may read or write a line (R76). -/
def satisfied (s : State) (line site : Nat) (write : Bool) : Bool :=
  let e := dirOf s line site
  e.valid && (if write then e.tokens == 64 else decide (0 < e.tokens))
/-- The die set of a line (R88): that of the page of its latest access, or every site not mapped out at boot. -/
def lineSet (s : State) (line : Nat) : BitVec 48 :=
  let b := (tokOf s line).set
  if b = 0 then BitVec.allOnes 48 &&& ~~~s.hub.bootOut else b
/-- Note the die set, the world and the DSMASK register of the page that an access reaches a line through (R88, R89, R118). -/
def notePage (s : State) (line : Nat) (p : Tr) : State :=
  let t := tokOf s line
  if p.set = 0 || (t.set = p.set && t.sec = p.sec && t.mask = p.mask) then s
  else setTok s line { t with set := p.set, sec := p.sec, mask := p.mask }

/-- A die sends tokens of a line that it holds: all of them, or one without the owner token but with data (R78). -/
def dieSends (s : State) (site line : Nat) (dst : Option Nat) (all : Bool) : State :=
  let t := tokOf s line
  let e := dirOf s line site
  if e.tokens = 0 then s
  else
    let n := if all then e.tokens else 1
    let own := all && e.owner
    let m : CohMsg := { line := line, serial := t.serial, src := site, dst := dst, tokens := n, owner := own,
                        dirty := own && e.dirty.isSome, data := own || !all, gen := s.gens.getLsbD site }
    let ds := if all then FMap.del t.dies site else FMap.set t.dies site { e with tokens := e.tokens - 1 }
    setTok { s with coh := s.coh ++ [m] } line { t with dies := ds }
/-- The home memory port sends tokens that it holds. -/
def portSends (s : State) (line site : Nat) (all : Bool) : State :=
  let t := tokOf s line
  if t.home = 0 then s
  else
    let n := if all then t.home else 1
    let own := all && t.homeOwner
    let m : CohMsg := { line := line, serial := t.serial, src := 64 + homeOf line, dst := some site, tokens := n, owner := own,
                        dirty := false, data := own || !all, gen := s.gens.getLsbD (homeOf line) }
    setTok { s with coh := s.coh ++ [m] } line { t with home := t.home - n, homeOwner := t.homeOwner && !own }

/-- The requester of the active persistent request for a line, as its arbiter knows it (R81). -/
def activeAt (s : State) (line : Nat) : Option Nat :=
  ((s.die (homeOf line)).arbAct.find? fun a => a.line == line).map fun a => a.site
/-- The running census of a line (R85). -/
def censusOf (s : State) (line : Nat) : Option Census := s.census.find? fun c => c.line == line
/-- A die's request for a line. -/
def pendOf (s : State) (site line : Nat) : Option PendReq := (s.die site).pend.find? fun p => p.line == line
/-- Drop a die's request for a line. -/
def dropPend (s : State) (site line : Nat) : State :=
  let d := s.die site
  s.setDie site { d with pend := d.pend.filter fun p => p.line != line }
/-- A transient request that a die's tokens satisfy is over (R79). -/
def endPend (s : State) (site line : Nat) : State :=
  match pendOf s site line with
  | some p => if !p.persistent && satisfied s line site p.write then dropPend s site line else s
  | none => s
/-- The active persistent request for a line ends: every table and the arbiter forget it (R81). -/
def deactivateLine (s : State) (line site : Nat) : State :=
  let clear (e : Nat × Die) : Nat × Die :=
    (e.1, { e.2 with ptab := e.2.ptab.filter fun x => x.1 != line, arbAct := e.2.arbAct.filter fun a => a.line != line })
  dropPend { s with dies := s.dies.map clear } site line

/-- Whether a sweep of a line's home has still to recreate it (R84): a die of its die set was lost, AH is 0, and the sweep has
not reached it. A sweep of 63 is for every line (R332). -/
def sweepDue (s : State) (line : Nat) : Bool :=
  let d := s.die (homeOf line)
  (tokOf s line).home != 64 && !d.swept.contains line && d.sweep.any fun x => x == 63 || (lineSet s line).getLsbD x
/-- A sweep that has reached every line of its home is over. -/
def sweepEnds (s : State) (home : Nat) : State :=
  let d := s.die home
  if d.sweep.isEmpty || (s.tokens.any fun e => homeOf e.1 == home && sweepDue s e.1) then s
  else s.setDie home { d with sweep := [], swept := [] }

/-- Give a line 64 tokens of a new serial at home, and poison it when the owner token was lost (R85, R86). The active request of
a die that is down ends with it (R83), and that of another die receives the tokens (R81). -/
def recreate (s : State) (line : Nat) : State :=
  let t := tokOf s line
  let lost := !ownerLives s line
  let h := homeOf line
  let s1 := setTok { s with coh := s.coh.filter fun m => m.line != line } line
    { t with serial := t.serial + 1, home := 64, homeOwner := true, dies := [] }
  let d := s1.die h
  let s2 := if d.sweep.isEmpty then s1 else s1.setDie h { d with swept := line :: d.swept }
  let s3 := s2.bumpReg (cohcntA h) 31 16 1
  let s4 := if lost then poisonLine (s3.bumpReg (cohcntA h) 15 0 1) line else s3
  sweepEnds (match activeAt s4 line with
    | some q => if s4.dieUp q then portSends s4 line q true else deactivateLine s4 line q
    | none => s4) h

/-- A line is recreated at once, with the end of its census where one runs (R84, R85). -/
def recreateNow (s : State) (line : Nat) : State := recreate { s with census := s.census.filter fun c => c.line != line } line
/-- Gather what an access needs of a line's tokens in one step (R76, R77, log 7): a running census ends first (R85), and a lost
line is recreated first (R84). -/
def heal (s : State) (line : Nat) : State :=
  if (censusOf s line).isSome || tokTotal s line != 64 then recreateNow s line else s

/-- The slice whose directory holds a line's entry on a die: the d-th enabled one (R73). It is the slice too that takes a line which
the die reads or writes for no core of its own (log 20). -/
def dirSlice (s : State) (site line : Nat) : Nat :=
  let l := (List.range 12).filter fun k => (s.reg (dsliceA site)).getLsbD k
  l.getD (((line % 4096) ^^^ (line / 4096 % 4096) ^^^ (line / 2 ^ 24 % 4096)) % max 1 l.length) 0
/-- The lines whose entries a directory slice of a die holds (R73), of replicas too (R94). -/
def dirLines (s : State) (site slice : Nat) : List Nat :=
  let owned := (s.tokens.filter fun e => (FMap.find e.2.dies site).isSome).map fun e => e.1
  (owned ++ ((s.die site).repLines.map fun p => p.line).filter fun l => !owned.contains l).filter fun l => dirSlice s site l == slice
/-- Whether a die has room for a line's directory entry (R73, R79). -/
def dirRoom (s : State) (site line : Nat) : Bool :=
  (FMap.find (tokOf s line).dies site).isSome || decide ((dirLines s site (dirSlice s site line)).length < 98304)
/-- A die drops replica lines (R94, R95); the watches of its warps on them fire (R247). -/
def dropReps (s : State) (site : Nat) (p : RepLine → Bool) : State :=
  let d := s.die site
  let gone := (d.repLines.filter p).map fun x => x.line
  if gone.isEmpty then s
  else
    fireWatches (s.setDie site { d with repLines := d.repLines.filter fun x => !p x }) fun k w =>
      k / 4096 == site && gone.any fun l => watches l w
/-- A die lets a line go that it evicts: tokens go to the home memory port with the data (R73), a replica is dropped (R94). -/
def evictLine (s : State) (site line : Nat) : State :=
  dieSends (dropReps s site fun x => x.line == line) site line none true
/-- A directory slice that is full evicts an entry (R73): every slice copy is dropped, and the tokens, with dirty data, go to
the home memory port. The entry evicted is the first (log 9). -/
def makeRoom (s : State) (site line : Nat) : State :=
  if dirRoom s site line then s
  else match dirLines s site (dirSlice s site line) with | x :: _ => evictLine s site x | [] => s
/-- The lines that a slice holds copies of. -/
def sliceLines (s : State) (site slice : Nat) : List Nat :=
  (s.tokens.filter fun e => (match FMap.find e.2.dies site with | some x => x.slices.getLsbD slice | none => false)).map (fun e => e.1) ++
    ((s.die site).repLines.filter fun x => x.slice == slice).map fun x => x.line
/-- A slice of 8 MiB that is full drops a line, whose tokens go home with its data (R17, R23, log 9). -/
def sliceRoom (s : State) (site line slice : Nat) : State :=
  if (dirOf s line site).slices.getLsbD slice then s
  else
    let l := sliceLines s site slice
    if l.length < 65536 then s else match l with | x :: _ => evictLine s site x | [] => s
/-- A slice takes a replica line of a page (R94). -/
def addReplica (s : State) (site line slice page : Nat) (sec : Bool) : State :=
  if (s.die site).repLines.any fun x => x.line == line && x.slice == slice then s
  else
    let s1 := sliceRoom (makeRoom s site line) site line slice
    let d := s1.die site
    s1.setDie site { d with repLines := d.repLines ++ [{ line := line, page := page, slice := slice, sec := sec }] }

/-- All tokens of a line at a die, which holds the data dirty in a slice. -/
def takeAll (s : State) (site line slice : Nat) : State :=
  let t := tokOf s line
  setTok { s with coh := s.coh.filter fun m => m.line != line } line
    { t with home := 0, homeOwner := false,
             dies := [(site, { tokens := 64, owner := true, valid := true, slices := 1 <<< slice, dirty := some slice, sec := t.sec })] }

/-- Before a die other than the requester takes tokens of a line, the active persistent request for the line is satisfied and
deactivated (R81, log 7); one of a die that is not UP ends with the line's recreation (R83). -/
def yieldActive (s : State) (line : Nat) (site : Option Nat) : State :=
  match activeAt s line with
  | some q =>
    let k := dirSlice s q line
    if some q = site then s
    else if s.dieUp q then deactivateLine (takeAll (sliceRoom (makeRoom s q line) q line k) q line k) line q
    else recreateNow s line
  | none => s

/-- Gather all 64 tokens of a line at the home memory port, as an atomic does (R77). -/
def gatherHome (s : State) (line : Nat) : State :=
  let s1 := heal (yieldActive s line none) line
  let t := tokOf s1 line
  setTok { s1 with coh := s1.coh.filter fun m => m.line != line } line { t with home := 64, homeOwner := true, dies := [] }

/-- What precedes an access of a die to a line (R73, R81, R84): another die's active request is served, the line is whole, and
the die's directory and slice have room. -/
def readyLine (s : State) (site line slice : Nat) : State :=
  sliceRoom (makeRoom (heal (yieldActive s line (some site)) line) site line) site line slice

/-- Gather all 64 tokens of a line at a die, as a write does (R76): `slice` holds the data dirty. -/
def gatherWrite (s : State) (site line slice : Nat) : State :=
  endPend (takeAll (readyLine s site line slice) site line slice) site line

/-- Give a die that reads a line one token with data (R76, R78): the owner sends one of its others, or the owner token with its
dirty flag. -/
def gatherRead (s : State) (site line slice : Nat) : State :=
  let s1 := readyLine s site line slice
  let t := tokOf s1 line
  let e := FMap.get DirEnt.none t.dies site
  let bit : BitVec 12 := 1 <<< slice
  let taken (own : Bool) (dirty : Bool) : DirEnt :=
    { e with tokens := e.tokens + 1, owner := own, valid := true, slices := e.slices ||| bit,
             dirty := if dirty then some slice else e.dirty, sec := t.sec }
  let s2 :=
    if e.tokens ≠ 0 && e.valid then
      setTok s1 line { t with dies := FMap.set t.dies site { e with slices := e.slices ||| bit, sec := t.sec } }
    else if t.homeOwner then
      let own := t.home == 1
      setTok s1 line { t with home := t.home - 1, homeOwner := !own, dies := FMap.set t.dies site (taken own false) }
    else
      match t.dies.find? (fun d => d.2.owner) with
      | some (d, o) =>
        let own := o.tokens == 1
        let ds := if own then FMap.del t.dies d else FMap.set t.dies d { o with tokens := o.tokens - 1 }
        setTok s1 line { t with dies := FMap.set ds site (taken own (own && o.dirty.isSome)) }
      | Option.none => takeAll s1 site line slice
  endPend s2 site line

/-- The lines of cluster-held bytes of a slice (R74). -/
def heldOf (s : State) (site slice : Nat) : List Held := FMap.get [] (s.die site).held slice
/-- Change the lines of cluster-held bytes of a slice. -/
def setHeld (s : State) (site slice : Nat) (l : List Held) : State :=
  let d := s.die site
  s.setDie site { d with held := FMap.put [] d.held slice l }

/-- Write bytes of one line of the coherent copy: status, and the watches it fires (R86, R247). A poisoned line takes
only a write of all its 128 bytes. -/
def cohWrite (s : State) (line data mask : Nat) : State × Nat :=
  if s.poison.contains line && mask % 2 ^ 128 != 2 ^ 128 - 1 then (s, stPoison)
  else
    let log := if s.hub.grids.any fun e => e.2.st != .done then (line, mask % 2 ^ 128) :: s.wlog else s.wlog
    let s1 := { s with mem := writeMasked s.mem (line * 128) 128 data mask, poison := s.poison.filter fun l => l != line, wlog := log }
    (fireWatches s1 (fun _ w => watches line w), stOk)

/-- The bits of the byte lanes a byte mask names. -/
def spreadMask (mask : Nat) : Nat → Nat
  | 0 => 0
  | n + 1 => (if mask % 2 = 1 then 255 else 0) + 256 * spreadMask (mask / 2) n
/-- Bytes of `new` where a byte mask says so, of `old` elsewhere. -/
def overlay (old new mask : Nat) : Nat := (new &&& spreadMask mask 128) ||| (old &&& spreadMask (2 ^ 128 - 1 - mask % 2 ^ 128) 128)

/-- Write bytes of a line, and the slice's cluster-held bytes of it under them, into the coherent copy in one write, for which
the die gathers all its tokens (R74, R76). Where the line's home cannot be reached nothing is written, and the bytes are lost
(R34, R86). -/
def writeOver (s : State) (site slice line data mask : Nat) : State × Nat :=
  let st := siteSt s site (homeOf line)
  match (heldOf s site slice).find? fun h => h.line == line with
  | Option.none => if st ≠ stOk then (siteFail s site (homeOf line), st) else cohWrite (gatherWrite s site line slice) line data mask
  | some h =>
    let s1 := setHeld s site slice ((heldOf s site slice).filter fun h => h.line != line)
    if st ≠ stOk then (siteFail s1 site (homeOf line), st)
    else cohWrite (gatherWrite s1 site line slice) line (overlay h.data.toNat data mask) (h.mask.toNat ||| mask % 2 ^ 128)

/-- Merge a line's cluster-held bytes into the coherent copy (R74). -/
def mergeHeld (s : State) (site slice line : Nat) : State :=
  if (heldOf s site slice).any fun h => h.line == line then (writeOver s site slice line 0 0).1 else s

/-- Take bytes written back at core or cluster scope into a slice (R74); a slice that holds 1024 lines merges its oldest
first. The watches of the warps whose cores the slice serves fire (R247). -/
def holdBytes (s : State) (site core line data mask : Nat) : State :=
  let slice := s.sliceOf site core
  let l := heldOf s site slice
  let bit : BitVec 48 := 1 <<< core
  let (s1, l1) := match l.find? (fun h => h.line == line) with
    | some h =>
      (s, l.map fun x => if x.line == line then
        { h with data := BitVec.ofNat 1024 (overlay h.data.toNat data mask), mask := h.mask ||| BitVec.ofNat 128 mask,
                 cores := h.cores ||| bit } else x)
    | Option.none =>
      let s1 := if 1024 ≤ l.length then (match l with | h :: _ => mergeHeld s site slice h.line | [] => s) else s
      (s1, heldOf s1 site slice ++ [{ line := line, data := BitVec.ofNat 1024 (overlay 0 data mask), mask := BitVec.ofNat 128 mask,
                                      cores := bit, started := false, born := s.ticks, sec := (tokOf s line).sec }])
  fireWatches (setHeld s1 site slice l1) fun k w =>
    watches line w && k / 4096 == site && s.sliceOf site (k / 64 % 64) == slice

/-- Write bytes of a line through to the coherent copy with every cluster-held byte of the line in the slice, the new
bytes last, in one write (R74). -/
def writeThrough (s : State) (site core line data mask : Nat) : State × Nat :=
  writeOver s site (s.sliceOf site core) line data mask

/-- The dirty bytes of an L1 line leave it: to the slice, or to the coherent copy, with the status of that write (R297). -/
def writeBackSt (s : State) (site core line : Nat) (deep : Bool) : State × Nat :=
  match FMap.find (s.core site core).l1 line with
  | Option.none => (s, stOk)
  | some x =>
    if x.dirty = 0 then (s, stOk)
    else
      let c := s.core site core
      let s1 := s.setCore site core { c with l1 := FMap.set c.l1 line { x with dirty := 0 } }
      if deep then writeThrough s1 site core line x.data.toNat x.dirty.toNat
      else (holdBytes s1 site core line x.data.toNat x.dirty.toNat, stOk)
/-- The same, whatever comes of the write. -/
def writeBack (s : State) (site core line : Nat) (deep : Bool) : State := (writeBackSt s site core line deep).1

/-- Discard the L1 copy of a line, its dirty bytes written back first. -/
def dropL1 (s : State) (site core line : Nat) (deep : Bool) : State :=
  let s1 := writeBack s site core line deep
  let c := s1.core site core
  s1.setCore site core { c with l1 := FMap.del c.l1 line }

/-- The cache action of a release at a scope (R297): 2 cluster, 3 and wider die, device, system. -/
def releaseAct (s : State) (site core scope : Nat) : State :=
  if scope < 2 then s
  else
    let lines := (s.core site core).l1.map fun e => e.1
    let s1 := lines.foldl (fun t l => writeBack t site core l (decide (3 ≤ scope))) s
    if scope < 3 then s1
    else
      let slice := s1.sliceOf site core
      let own := (heldOf s1 site slice).filter fun h => h.cores.getLsbD core
      let s2 := own.foldl (fun t h => mergeHeld t site slice h.line) s1
      setHeld s2 site slice ((heldOf s2 site slice).map fun h => { h with started := true })

/-- The cache action of an acquire at a scope: the L1 keeps its dirty bytes only (R297, log 9). -/
def acquireAct (s : State) (site core scope : Nat) : State :=
  if scope < 2 then s
  else
    let c := s.core site core
    s.setCore site core { c with l1 := (c.l1.map fun e => (e.1, { e.2 with valid := e.2.dirty })).filter fun e => e.2.dirty != 0 }

/-- The action of a promotion (R301): a device-scope release by the core that also merges, and waits for, what other cores of
the slice wrote and the log's entries may cover (R292). -/
def promoteAct (s : State) (site core : Nat) : State :=
  let s1 := releaseAct s site core 4
  let slice := s1.sliceOf site core
  (heldOf s1 site slice).foldl (fun t h => mergeHeld t site slice h.line) s1

/-- Append a promotion-log entry (R298); a full log promotes its oldest entry first (R300). -/
def plogAppend (s : State) (site core slot : Nat) (line : Option Nat) : State :=
  let c := s.core site core
  let (s1, eager) := if 32 ≤ c.plog.length then (promoteAct s site core, true) else (s, false)
  let c := s1.core site core
  s1.setCore site core
    { c with plog := (if eager then c.plog.drop 1 else c.plog) ++ [{ line := line, seq := c.plogSeq, slot := slot }],
             plogSeq := c.plogSeq + 1, eager := if eager then satAdd 16 c.eager 1 else c.eager }

/-- Promote the first `n` entries of a core's promotion log: a device-scope release by the core (R301). -/
def promote (s : State) (site core n : Nat) : State :=
  if n = 0 then s
  else
    let s1 := promoteAct s site core
    let c := s1.core site core
    s1.setCore site core { c with plog := c.plog.drop n }

/-- A release at a scope by a warp of a core: its cache action, and the log entry of the narrow scopes (R297, R298). -/
def releaseAt (s : State) (site core slot scope : Nat) (line : Option Nat) : State :=
  let s1 := releaseAct s site core scope
  if scope = 1 || scope = 2 then plogAppend s1 site core slot line else s1

/-- What a core reads of a line: those bytes of its L1 that a mask names over the slice's cluster-held bytes over the coherent
copy (R74). -/
def lineView (s : State) (site core line : Nat) (seen : BitVec 128) : Nat :=
  let base := readBytes s.mem (line * 128) 128
  let v1 := match (heldOf s site (s.sliceOf site core)).find? fun h => h.line == line with
    | some h => overlay base h.data.toNat h.mask.toNat
    | Option.none => base
  match FMap.find (s.core site core).l1 line with
  | some x => overlay v1 x.data.toNat seen.toNat
  | Option.none => v1

/-- The L1 of 128 KiB holds 1024 lines: a new line drops another, its dirty bytes written back to the slice: one that the hint STRM
marks, or else the first (R281, R282, log 9). -/
def l1Room (s : State) (site core line : Nat) : State :=
  let l := (s.core site core).l1
  if (FMap.find l line).isSome || decide (l.length < 1024) then s
  else match (l.filter fun x => x.2.strm) ++ l with | x :: _ => dropL1 s site core x.1 false | [] => s

/-- Load `size` bytes of a cached page at a core: state, value and status (R86, R281, R282); `tok` says that the die needs
tokens of the line, as all but replicas do (R94). A line that comes with the hint STRM is one to evict first. A load with the hint NOL1 is served from the slice, under the core's dirty
bytes. -/
def cachedLoad (s : State) (site core pa size hint : Nat) (tok : Bool) : State × Nat × Nat :=
  let line := lineOf pa
  let x := FMap.get { data := 0, valid := 0, dirty := 0 : L1Line } (s.core site core).l1 line
  let seen : BitVec 128 := if hint = 2 then x.dirty else x.valid
  let full := decide (seen.toNat / 2 ^ (pa % 128) % 2 ^ size = 2 ^ size - 1)
  let s1 := if full || !tok then s else gatherRead s site line (s.sliceOf site core)
  if !full && s1.poison.contains line then (s1, 0, stPoison)
  else
    let view := lineView s1 site core line seen
    let val := view / 2 ^ (8 * (pa % 128)) % 2 ^ (8 * size)
    if hint = 2 then (s1, val, stOk)
    else
      let s2 := l1Room s1 site core line
      let c := s2.core site core
      let old := FMap.find c.l1 line
      let strm := match old with | some y => y.strm | Option.none => hint == 1
      let s3 := s2.setCore site core
        { c with l1 := FMap.set c.l1 line { data := BitVec.ofNat 1024 view, valid := BitVec.allOnes 128, dirty := x.dirty, strm := strm } }
      (if hint = 3 then dropL1 s3 site core line false else s3, val, stOk)

/-- Store `size` bytes of a cached page at a core at a depth: 0 the L1, 1 the slice, 2 the coherent copy (R74, R281,
R282). -/
def cachedStore (s : State) (site core pa size val depth hint : Nat) : State × Nat :=
  let line := lineOf pa
  let k := pa % 128
  let data := val % 2 ^ (8 * size) * 2 ^ (8 * k)
  let mask := (2 ^ size - 1) * 2 ^ k
  let old := FMap.find (s.core site core).l1 line
  let upd (t : State) (dirty : Bool) : State :=
    let c := t.core site core
    let x := match old with | some x => x | Option.none => { data := 0, valid := 0, dirty := 0 }
    let y : L1Line :=
      { data := BitVec.ofNat 1024 (overlay x.data.toNat data mask), valid := x.valid ||| BitVec.ofNat 128 mask,
        dirty := if dirty then x.dirty ||| BitVec.ofNat 128 mask else x.dirty &&& ~~~(BitVec.ofNat 128 mask),
        strm := match old with | some x => x.strm | Option.none => hint == 1 }
    t.setCore site core { c with l1 := FMap.set c.l1 line y }
  match depth with
  | 0 =>
    let s1 := upd (l1Room s site core line) true
    (if hint = 3 then dropL1 s1 site core line false else s1, stOk)
  | 1 =>
    let s1 := if hint = 3 then dropL1 s site core line false else if old.isSome then upd s false else s
    (holdBytes s1 site core line data mask, stOk)
  | _ =>
    let s1 := if hint = 3 then dropL1 s site core line true else if old.isSome then upd s false else s
    writeThrough s1 site core line data mask

end Sys2Proof.Machine
end

