-- ==== Sys2Proof/Machine/Translate.lean ====
section
/-! DEFINITION. Translation: page-table walks, the translation caches, the checks of an access in their order, placement
of a page's lines, and the fault queues (R87 to R91, R119, R254 to R267). -/
namespace Sys2Proof.Machine

/-- The sites a die set names, whoever was mapped out (R88). -/
def rawSet (s : State) (kind arg : Nat) : BitVec 48 :=
  match kind with
  | 0 => BitVec.allOnes 48
  | 1 => BitVec.ofNat 48 (0xFF * 2 ^ (8 * arg))
  | 2 => BitVec.ofNat 48 (0x010101010101 * 2 ^ arg)
  | _ => (s.reg (dsmaskA arg)).setWidth 48
/-- The members of a die set: the sites it names less those mapped out at boot (R88). -/
def dieSet (s : State) (place : Nat) : BitVec 48 :=
  rawSet s (place / 4096 % 4) (place / 64 % 64) &&& ~~~s.hub.bootOut
/-- The sites of a set in ascending order. -/
def sitesOf (b : BitVec 48) : List Nat := (List.range 48).filter fun i => b.getLsbD i

/-- Whether a placement field is malformed for a frame (R87). -/
def placeBad (s : State) (place frame : Nat) : Bool :=
  let attr := place / 16384
  let kind := place / 4096 % 4
  let arg := place / 64 % 64
  place % 64 != 0 ||
  !(match kind with | 0 => arg == 0 | 1 => decide (arg ≤ 5) | 2 => decide (arg ≤ 7) | _ => decide (arg ≤ 15)) ||
  (attr == 3 && (kind != 0 || arg != 0)) ||
  (attr == 1 && (frame / 0x1000000000 != 0 || dieSet s place == 0)) ||
  ((attr == 0 || attr == 2) && !(rawSet s kind arg).getLsbD (frame / 0x1000000000))

/-- Whether a valid table entry is malformed (R257, R258). -/
def tableBad (level e : Nat) : Bool :=
  level == 3 || e / 2 ^ 48 != 0 || e / 2 ^ 11 % 16 != 0 || e / 4 % 512 != 0 ||
    decide (0x30000000000 ≤ e % 2 ^ 48 / 32768 * 32768)

/-- Frame address of a page entry (R257). -/
def frameOf (e : Nat) : Nat := e % 2 ^ 48 / 2 ^ 19 * 2 ^ 19
/-- KIND of a page entry (R257): 0 LOCAL, 1 HOST, 2 PEER. -/
def kindOf (e : Nat) : Nat := e / 512 % 4
/-- ATTR of a page entry (R87): 0 HOME, 1 INTERLEAVE, 2 REPLICATE, 3 WINDOW. -/
def attrOf (e : Nat) : Nat := e / 2 ^ 62

/-- Whether a valid page entry is malformed (R257, R258). -/
def pageBad (s : State) (level e : Nat) : Bool :=
  let place := e / 2 ^ 48
  let frame := frameOf e
  let windows := decide (0xF00000000000 ≤ frame) && decide (frame < 0xF00300000000)
  level == 1 || e / 2 ^ 15 % 16 != 0 || e / 2 ^ 11 % 16 != 0 || e / 4 % 8 != 0 || kindOf e == 3 ||
  (level == 2 && frame % 2 ^ 31 != 0) ||
  (match kindOf e with
   | 0 => placeBad s place frame || (if attrOf e = 3 then level == 2 || !windows else decide (0x30000000000 ≤ frame))
   | 2 => place % 64 != 0 || place / 64 == s.regF pkgidA 9 0 || decide (0x30000000000 ≤ frame)
   | _ => false)

/-- The outcome of a walk: a page entry with its address and size, or a page fault's reason and level (R258, R266). -/
inductive Walked where
  | page (e : Nat) (entry : Nat) (big : Bool)
  | fault (reason level : Nat)
  deriving DecidableEq, Repr

/-- Read a table entry of the coherent copy, at the home of its line, for a requester of a world (R92, R119, R259): the entry,
or none when its line cannot be read. -/
def readEntry (s : State) (site : Nat) (sec : Bool) (a : Nat) : State × Option Nat :=
  let home := homeOf (lineOf a)
  if siteSt s site home ≠ stOk then (siteFail s site home, none)
  else
    let s1 := sendReq s (dieWho site 50 sec) home
    if portSt s a sec ≠ stOk then (portEvent s1 home site 50 a sec, none)
    else
      let s2 := gatherRead s1 home (lineOf a) (dirSlice s1 home (lineOf a))
      (s2, if s2.poison.contains (lineOf a) then none else some (readBytes s2.mem a 8))

/-- Walk from one level on (R256 to R259): `tbl` is the table's address. -/
def walkFrom (s : State) (site : Nat) (sec : Bool) (va : Nat) : Nat → Nat → Nat → State × Walked
  | 0, level, _ => (s, .fault 2 level)
  | fuel + 1, level, tbl =>
    let a := tbl + va / 2 ^ (55 - 12 * level) % 4096 * 8
    match readEntry s site sec a with
    | (s1, none) => (s1, .fault 3 level)
    | (s1, some e) =>
      if e % 2 = 0 then (s1, .fault 1 level)
      else if e / 2 % 2 = 1 then (s1, if pageBad s level e then .fault 2 level else .page e a (level == 2))
      else if tableBad level e then (s1, .fault 2 level)
      else walkFrom s1 site sec va fuel (level + 1) (e % 2 ^ 48 / 32768 * 32768)

/-- The physical address of a byte of a page (R90, R91, R257). -/
def pageAddr (s : State) (e va : Nat) (big : Bool) : Nat :=
  let size := if big then 2 ^ 31 else 2 ^ 19
  let off := va % size
  let frame := frameOf e
  match kindOf e with
  | 0 =>
    if attrOf e = 1 then
      let sites := sitesOf (dieSet s (e / 2 ^ 48))
      let m := sites.length
      let i := off / 4096
      let j := (i + va / size % m) % m
      sites.getD j 0 * 0x1000000000 + frame + i / m * 0x1000 + off % 4096
    else frame + off
  | 1 => e / 2 ^ 48 * 2 ^ 48 + frame + off
  | _ => e / 2 ^ 48 / 64 * 2 ^ 48 + frame + off

/-- The translated address a page entry gives (R257). -/
def trOf (s : State) (e va entry : Nat) (big : Bool) : Tr :=
  let size := if big then 2 ^ 31 else 2 ^ 19
  { kind := match kindOf e with | 0 => .localMem | 1 => .host | _ => .peer
    pa := pageAddr s e va big, attr := attrOf e, set := dieSet s (e / 2 ^ 48), sec := e / 256 % 2 == 1,
    page := pageAddr s e (va / size * size) big, entry := entry, big := big,
    mask := if kindOf e = 0 && attrOf e != 3 && e / 2 ^ 60 % 4 = 3 then some (e / 2 ^ 54 % 64) else none }

/-- Kinds of access that permission bits tell apart (R257). -/
inductive Acc where
  | load | store | atomic | fetch
  deriving DecidableEq, Repr

/-- Whether a page entry's bits allow an access: an atomic needs R and W (R257). -/
def allows (e : Nat) : Acc → Bool
  | .load => e / 32 % 2 == 1
  | .store => e / 64 % 2 == 1
  | .atomic => e / 32 % 2 == 1 && e / 64 % 2 == 1
  | .fetch => e / 128 % 2 == 1

/-- What the world check at translation refuses: a non-secure requester on a secure page, a secure fetch from a
non-secure page (R119). -/
def worldBad (e : Nat) (sec : Bool) (k : Acc) : Bool :=
  let p := e / 256 % 2 == 1
  (!sec && p) || (sec && !p && k == .fetch)

/-- The world of the frame a page entry reaches at an address (R114, R117): none where there is none to compare. Where a page of
2 GiB or an interleaved page spans units of both worlds, the spec does not say which counts, and that of the address that
caused the walk does; a WINDOW page of a core position that has held no team yet has no world to compare (log 20). -/
def frameWorld (s : State) (t : Tr) : Option Bool :=
  match t.kind with
  | .localMem =>
    (match region t.pa with
     | .hbm _ => some (secAt s t.pa).1
     | .window site core _ => (s.core site core).world
     | _ => none)
  | _ => none

/-- The outcome of checking one address: where it goes, a trap of cause PERM or MISALIGN, or a page fault with its reason
and level (R255). -/
inductive Checked where
  | ok (t : Tr)
  | perm
  | misalign
  | page (reason level : Nat)
  deriving DecidableEq, Repr

/-- Look a page up in a list of TLB entries (R260). -/
def tlbFind (l : List TlbEnt) (root : Nat) (sec : Bool) (va : Nat) : Option TlbEnt :=
  l.find? fun x => x.root == root && x.sec == sec && x.vpage == (if x.big then va / 2 ^ 31 else va / 2 ^ 19)

/-- Put an entry at the front of a list that holds at most `n` (R260). -/
def keepNewest {α : Type} (n : Nat) (l : List α) (x : α) : List α := (x :: l).take n

/-- The first table a walk can start from: the walk cache's deepest entry for the address, or the root (R260). -/
def walkStart (s : State) (site root : Nat) (sec : Bool) (va : Nat) : Nat × Nat :=
  let hit (level idx : Nat) : Option WalkEnt :=
    (s.die site).walk.find? fun x => x.root == root && x.sec == sec && x.level == level && x.vidx == idx
  match hit 2 (va / 2 ^ 31) with
  | some x => (3, x.tbl.toNat)
  | none =>
    match hit 1 (va / 2 ^ 43) with
    | some x => (2, x.tbl.toNat)
    | none => (1, root)

/-- The page of an address: from the core's TLB, the cluster's, or a walk that fills both (R260). A walk whose page's
secure bit disagrees with the world of its frame answers `none` and is a security event at the frame's site (R119), logged
with the page walker as its requester (log 20). -/
def findPage (s : State) (site : Nat) (core : Option Nat) (root : Nat) (sec : Bool) (va : Nat) :
    State × Option (Walked) :=
  let cl := match core with | some c => c / 4 | none => 12
  let ctlb := FMap.get [] (s.die site).clTlb cl
  let near := match core with | some c => tlbFind (s.core site c).tlb root sec va | none => none
  match near with
  | some x => (s, some (.page x.pte.toNat x.entry x.big))
  | none =>
    match tlbFind ctlb root sec va with
    | some x => (s, some (.page x.pte.toNat x.entry x.big))
    | none =>
      let (level, tbl) := walkStart s site root sec va
      match walkFrom s site sec va (4 - level) level tbl with
      | (s, .fault r l) => (s, some (.fault r l))
      | (s, .page e a big) =>
        let t := trOf s e va a big
        let bad := match frameWorld s t with | some w => w != t.sec | none => false
        if bad then
          let home := match region t.pa with | .hbm h => h | .window h _ _ => h | _ => 48
          (secEvent s home site 50 t.pa, none)
        else
          let x : TlbEnt :=
            { root := root, sec := sec, big := big, vpage := if big then va / 2 ^ 31 else va / 2 ^ 19,
              pte := BitVec.ofNat 64 e, entry := a }
          let d := s.die site
          let w : WalkEnt :=
            { root := root, sec := sec, level := if big then 1 else 2, vidx := if big then va / 2 ^ 43 else va / 2 ^ 31,
              tbl := BitVec.ofNat 64 (a / 32768 * 32768) }
          let s1 := s.setDie site { d with clTlb := FMap.set d.clTlb cl (keepNewest 2048 ctlb x), walk := keepNewest 4096 d.walk w }
          let s2 := match core with
            | some c => let y := s1.core site c; s1.setCore site c { y with tlb := keepNewest 64 y.tlb x }
            | none => s1
          (s2, some (.page e a big))

/-- Check one address in the order of R255: high bits, alignment, translation, permission and world. -/
def checkVa (s : State) (site : Nat) (core : Option Nat) (root : Nat) (sec : Bool) (va : DWord) (align : Nat) (k : Acc) :
    State × Checked :=
  let a := va.toNat
  if 2 ^ 55 ≤ a then (s, .perm)
  else if a % align ≠ 0 then (s, .misalign)
  else
    match findPage s site core root sec a with
    | (s1, none) => (s1, .perm)
    | (s1, some (.fault r l)) => (s1, .page r l)
    | (s1, some (.page e entry big)) =>
      if allows e k && !worldBad e sec k then (s1, .ok (trOf s1 e a entry big)) else (s1, .perm)

/-- A fault queue of a die by world: 0 non-secure, 1 secure (R265). -/
def Die.fq (d : Die) (w : Nat) : FaultQ := if w = 0 then d.fq0 else d.fq1
/-- Change a fault queue of a die. -/
def Die.setFq (d : Die) (w : Nat) (q : FaultQ) : Die := if w = 0 then { d with fq0 := q } else { d with fq1 := q }
/-- The number of a world. -/
def worldNo (sec : Bool) : Nat := if sec then 1 else 0

end Sys2Proof.Machine
end

