-- ==== Sys2Proof/Machine/Access.lean ====
section
/-! DEFINITION. Performing an access once it is translated: the window port of a core with its control page (R222, R269,
R273, R275 to R280, R299, R349), the memory port with its replay filter (R56 to R58), host and peer memory, and the
loads, stores and atomics of a warp or an engine (R92, R95, R289, R475). -/
namespace Sys2Proof.Machine

/-- Reserve a fresh free value (R3, log 4). -/
def State.fresh (s : State) : State := { s with free := s.free + 1 }
/-- The free value number `i` of the current reading. -/
def State.any (s : State) (i : Nat) : Nat := (Config.free s.free i).toNat

/-- The matrix issue rate in force at a core, in sixteenths: the lowest of the throttle, the package cap and the thermal
response; 0 while issue is stopped (R219, R220, R37, R40, R41). -/
def coreRate (s : State) (site core : Nat) : Nat :=
  let d := s.die site
  if d.stop || s.hub.supply then 0
  else min (min (if (s.core site core).clk < (s.core site core).throttle then 8 else 16) (if d.half then 8 else 16))
    (match s.hub.cap with | some k => k | none => 16)

/-- Rows of an operand queue that some head has yet to pop (R279, R312). -/
def OpQueue.count (q : OpQueue) : Nat := max q.left q.left2
/-- The older of the two heads (R312). -/
def OpQueue.first (q : OpQueue) : Nat := if q.left < q.left2 then q.head2 else q.head

/-- The places of a core that hold no pinned block (R172): the reserve is full while they are 16 or more (R173). -/
def freePlaces (ps : FMap Place) : List Nat :=
  (List.range 256).filter fun p => match FMap.find ps p with | some x => !x.pinned | none => true
/-- The places that belong to the reserve (R172, R173, R273): up to 16 of those without a pinned block, those that refilled it first
and then the highest ones; none is told apart before the core's first pin, since RESERVE resets to 0 (log 20). -/
def Core.reserveOf (c : Core) : List Nat :=
  if c.places.isEmpty then []
  else
    let kept (p : Nat) : Bool := match FMap.find c.places p with | some x => x.reserve | none => false
    let l := freePlaces c.places
    (l.filter kept ++ (l.filter fun p => !kept p).reverse).take 16

/-- What a register of a core control page reads (R222, R273, R280, R299, R349); none at an offset the page does not
define. -/
def ctlRead (s : State) (site core off : Nat) : Option DWord :=
  let c := s.core site core
  let r := s.reg (ctlAddr site core off)
  if off = 0 then some r
  else if off = 8 then
    some (BitVec.ofNat 64 (site * 2 ^ 16 + s.passes site core 1 * 2 ^ 12 + s.passes site core 0 * 2 ^ 8 + core))
  else if off = 0x10 then
    let decl : Nat := match c.phase with | some p => if c.clk < p.te then 2 ^ 19 + p.cls * 2 ^ 16 else 0 | none => 0
    some (BitVec.ofNat 64 (c.viol * 2 ^ 48 + coreRate s site core * 2 ^ 40 + c.actLast * 2 ^ 32 + decl + (c.throttle - c.clk)))
  else if off = 0x18 then some (BitVec.ofNat 64 (c.phLast.te % 2 ^ 32 * 2 ^ 32 + c.phLast.tg % 2 ^ 32))
  else if off = 0x20 || off = 0x30 then some r
  else if off = 0x28 then
    some (BitVec.ofNat 64 (c.eager * 2 ^ 48 + c.asked * 2 ^ 32 + c.plogSeq.toNat * 2 ^ 16 + c.plog.length))
  else if 0x100 ≤ off && off < 0x140 && off % 8 = 0 then
    let q := FMap.get OpQueue.none c.queues ((off - 0x100) / 8)
    some (BitVec.ofNat 64 ((if q.err then 2 ^ 32 else 0) + q.count * 2 ^ 16 + q.tail * 2 ^ 8 + q.first))
  else if 0x140 ≤ off && off < 0x180 && off % 8 = 0 then some 0
  else if 0x1000 ≤ off && off < 0x1800 && off % 8 = 0 then
    let k := (off - 0x1000) / 8
    let spare := if c.reserveOf.contains k then 2 ^ 61 else 0
    match FMap.find c.places k with
    | some p => some (BitVec.ofNat 64 ((if p.valid then 2 ^ 63 else 0) + (if p.pinned then 2 ^ 62 else 0) +
        spare + (if p.dirty then 2 ^ 60 else 0) + p.slot * 2 ^ 8 + p.block))
    | none => some (BitVec.ofNat 64 spare)
  else none

/-- A write of QCTL k: CLEAR, then ADD, ignored with ERR where COUNT would pass 128 (R280). -/
def qctl (q : OpQueue) (val : Nat) : OpQueue :=
  let q1 := if val / 256 % 2 = 1 then { q with head := 0, left := 0, head2 := 0, left2 := 0, tail := 0 } else q
  let n := val % 256
  if 128 < q1.count + n then { q with err := true }
  else { q1 with left := q1.left + n, left2 := q1.left2 + n, tail := (q1.tail + n) % 128 }

/-- A write of a register of a core control page (R222, R268, R280, R349); none at an offset the page does not define. -/
def ctlWrite (s : State) (site core off val : Nat) : Option State :=
  let c := s.core site core
  if off = 0x20 then some (s.setReg (ctlAddr site core off) (BitVec.ofNat 64 (val % 2 ^ 55 / 2 ^ 22 * 2 ^ 22)))
  else if off = 0x30 then some (s.setReg (ctlAddr site core off) (BitVec.ofNat 64 (val % 2 ^ 16)))
  else if 0x100 ≤ off && off < 0x140 && off % 8 = 0 then
    let k := (off - 0x100) / 8
    let q := FMap.get OpQueue.none c.queues k
    some (s.setCore site core { c with queues := FMap.set c.queues k { q with err := q.err && val / 2 ^ 32 % 2 == 0 } })
  else if 0x140 ≤ off && off < 0x180 && off % 8 = 0 then
    let k := (off - 0x140) / 8
    some (s.setCore site core { c with queues := FMap.set c.queues k (qctl (FMap.get OpQueue.none c.queues k) val) })
  else (ctlRead s site core off).map fun _ => s

/-- Whether an offset of a window lies in storage held as words: a valid block place, a tile, a queue row (R273, R278,
R279). -/
def wordAt (s : State) (site core off : Nat) : Bool :=
  if off < 0x100000 then
    (match FMap.find (s.core site core).places (off / 4096) with | some p => p.valid | none => false)
  else decide (0x180000 ≤ off) && decide (off < 0x220000)

/-- `n` 32-bit words of a core's storage from word number `w` on. -/
def readWords (m : FMap Word) (w : Nat) : Nat → Nat
  | 0 => 0
  | n + 1 => (FMap.get 0 m w).toNat + 2 ^ 32 * readWords m (w + 1) n
/-- Write `n` 32-bit words of a core's storage from word number `w` on. -/
def writeWords (m : FMap Word) (w : Nat) : Nat → Nat → FMap Word
  | 0, _ => m
  | n + 1, v => writeWords (FMap.put 0 m w (BitVec.ofNat 32 v)) (w + 1) n (v / 2 ^ 32)

/-- Tiles per quarter of a shape (R484): twice as many for FP64. -/
def tilesPer (shape : BitVec 2) (fb : BitVec 128) : Nat :=
  (if shape = 0 then 1 else 2) * (if fb.extractLsb' 8 2 = 2 then 2 else 1)

/-- Whether a quarter of eight lanes has an active one (R485). -/
def quarterOn (act : Word) (q : Nat) : Bool := act.extractLsb' (8 * q) 8 != 0

/-- The tiles an accepted class B instruction writes (R312, R484, R491). -/
def MatOp.writes (m : MatOp) : List Nat :=
  let up := if m.heads = 2 then 128 else 0
  let span (f : LX) : List Nat :=
    let tq := tilesPer f.shape m.fb
    ((List.range 4).filter (quarterOn m.act)).flatMap fun q => (List.range tq).map fun i => f.zd.toNat + q * tq + i + up
  match m.ins with
  | .mma _ f => span f
  | .mmaw _ f => span f
  | .mmag _ f => (List.range (m.counts.length * tilesPer 0 m.fb)).map fun i => f.zd.toNat + i + up
  | .accz _ f => (List.range ((f.m.extractLsb' 0 8).toNat + 1)).map fun i => f.zd.toNat + i + up
  | .accld _ f => [f.zd.toNat + up]
  | .accmv _ f => if f.m.getLsbD 0 then [f.zd.toNat + up] else []
  | _ => []

/-- Whether an accepted, unfinished class B instruction of a core writes the tile of an offset of its accumulator memory
(R491). -/
def tileBusy (s : State) (site core off : Nat) : Bool :=
  decide (0x180000 ≤ off) && decide (off < 0x1C0000) &&
    (s.core site core).matQ.any fun m => m.writes.contains ((off - 0x180000) / 1024)

/-- A tile becomes undefined, and so does what the instructions that write it leave there (R491). -/
def spoilTile (s : State) (site core tile : Nat) : State :=
  let c := s.core site core
  let w := (List.range 256).foldl (fun m i => FMap.put 0 m (0x60000 + 256 * tile + i) ((Config.free s.free i).setWidth 32)) c.words
  let spoil (m : MatOp) : MatOp := if m.writes.contains tile then { m with bad := tile :: m.bad } else m
  (s.setCore site core { c with words := w, matQ := c.matQ.map spoil }).fresh

/-- What an access to a core's window meets before its port (R34, R117, R119): the die, the position, the world. -/
def windowSt (s : State) (src site core : Nat) (sec : Bool) : Nat :=
  let st := siteSt s src site
  if st ≠ stOk then st
  else if !s.coreOn site core then stAddr
  else if !sec && (s.core site core).world == some true then stPerm
  else stOk

/-- What a refusal before a port leaves: a refusal for its world is a security event at the site that refuses (R119), and a
request that fails on its way is counted where it is answered (R71). -/
def refuse (s : State) (who : Who) (site pa st : Nat) : State :=
  if st = stPerm then secEvent s site who.site who.core pa
  else if siteSt s who.site site ≠ stOk then siteFail s who.site site else s

/-- A load at a core's window port (R269): value and status. -/
def windowLoad (s : State) (site core off size : Nat) : Nat × Nat :=
  if 0x100000 ≤ off && off < 0x180000 then (readBytes s.mem (winAddr site core + off) size, stOk)
  else if wordAt s site core off then
    if size < 4 then (0, stAddr)
    else if tileBusy s site core off then ((Config.free s.free (off / 4)).toNat % 2 ^ (8 * size), stOk)
    else (readWords (s.core site core).words (off / 4) (size / 4), stOk)
  else if 0x220000 ≤ off && off < 0x230000 && (size = 4 || size = 8) then
    match ctlRead s site core ((off - 0x220000) / 8 * 8) with
    | some v => (v.toNat / 2 ^ (off % 8 * 8) % 2 ^ (8 * size), stOk)
    | none => (0, stAddr)
  else (0, stAddr)

/-- A store at a core's window port (R269): state and status. The watches on the line fire (R247). -/
def windowStore (s : State) (site core off size val : Nat) : State × Nat :=
  let fire (t : State) : State :=
    fireWatches t (fun k w => k / 64 == coreKey site core && watches (lineOf (winAddr site core + off)) w)
  if 0x100000 ≤ off && off < 0x180000 then
    (fire { s with mem := writeBytes s.mem (winAddr site core + off) size val }, stOk)
  else if wordAt s site core off then
    if size < 4 then (s, stAddr)
    else if tileBusy s site core off then (fire (spoilTile s site core ((off - 0x180000) / 1024)), stOk)
    else
      let c := s.core site core
      let c1 := { c with words := writeWords c.words (off / 4) (size / 4) val }
      let touch : Nat × Place → Nat × Place := fun e => if e.1 = off / 4096 then (e.1, { e.2 with dirty := true }) else e
      let c2 : Core := if off < 0x100000 then { c1 with places := c1.places.map touch } else c1
      (fire (s.setCore site core c2), stOk)
  else if 0x220000 ≤ off && off < 0x230000 && (size = 4 || size = 8) then
    let o := (off - 0x220000) / 8 * 8
    let old := match ctlRead s site core o with | some v => if o < 0x100 then v.toNat else 0 | none => 0
    let v := if size = 8 then val else if off % 8 = 0 then old / 2 ^ 32 * 2 ^ 32 + val % 2 ^ 32 else old % 2 ^ 32 + val % 2 ^ 32 * 2 ^ 32
    match ctlWrite s site core o v with
    | some t => (fire t, stOk)
    | none => (s, stAddr)
  else (s, stAddr)

/-- The new value of an atomic (R472, R474): operation, size in bytes, old value, operand; for CAS the operand holds the
expected value below the new one. -/
def atomicNew (cas : Bool) (op : Nat) (size old b : Nat) : Nat :=
  let n := 8 * size
  let old := old % 2 ^ n
  let f := fmt (if size = 8 then 1 else 0)
  if cas then (if old = b % 2 ^ n then b / 2 ^ n % 2 ^ n else old)
  else
    let b := b % 2 ^ n
    let sg (x : Nat) : Int := if x.testBit (n - 1) then (x : Int) - 2 ^ n else x
    match op with
    | 0 => (old + b) % 2 ^ n
    | 1 => old &&& b
    | 2 => old ||| b
    | 3 => old ^^^ b
    | 4 => if sg b < sg old then b else old
    | 5 => if sg old < sg b then b else old
    | 6 => min old b
    | 7 => max old b
    | 8 => b
    | 12 => f.add false 0 false old b
    | 13 => f.min old b
    | 14 => f.max old b
    | _ => old

/-- A store of up to 128 bytes of one line performed by a die as a requester of its own: all tokens are gathered, then the bytes
are written (R76, R92). A requester at die level has no slice of its own, and the line goes into the slice of its directory entry (log
20, R73). -/
def dieStore (s : State) (site pa size val : Nat) : State × Nat :=
  let line := lineOf pa
  cohWrite (gatherWrite s site line (dirSlice s site line)) line (val % 2 ^ (8 * size) * 2 ^ (8 * (pa % 128))) ((2 ^ size - 1) * 2 ^ (pa % 128))

/-- The bytes of a page that a replica-directory entry names. -/
def RepEnt.span (r : RepEnt) : Nat := if r.big then 2 ^ 31 else 2 ^ 19
/-- A die drops its replica lines of a page (R95), the copies of its L1s too, so that no later load returns an older value. -/
def dropReplica (s : State) (site page span : Nat) : State :=
  let d := s.die site
  let mine (l : Nat) : Bool := decide (page ≤ 128 * l) && decide (128 * l < page + span)
  let cut : Nat × Core → Nat × Core := fun e =>
    if e.1 / 64 = site then (e.1, { e.2 with l1 := e.2.l1.filter fun x => !(mine x.1 && x.2.dirty == 0) }) else e
  dropReps { s.setDie site { d with replicas := d.replicas.filter fun p => p != page } with cores := s.cores.map cut } site fun x =>
    x.page == page
/-- A replica read that the home answers DEMOTED: the die treats the page as HOME for as long as its TLB entries cover it
(R94). -/
def treatHome (s : State) (site entry : Nat) : State :=
  let fix (x : TlbEnt) : TlbEnt := if x.entry = entry && attrOf x.pte.toNat = 2 then { x with pte := BitVec.ofNat 64 (x.pte.toNat % 2 ^ 62) } else x
  let d := s.die site
  let cut : Nat × Core → Nat × Core := fun e => if e.1 / 64 = site then (e.1, { e.2 with tlb := e.2.tlb.map fix }) else e
  { s.setDie site { d with clTlb := d.clTlb.map fun e => (e.1, e.2.map fix) } with cores := s.cores.map cut }

/-- The demotion of a REPLICATE page in one step (R95): every replica is dropped, the page entry at the recorded address becomes
HOME, the home records it, and the gate opens. A page that has no directory entry yet is changed at the address that the
store's own translation used (log 20), and one for which the full directory has no place gets none (R94). An entry that lies where
no access of the home reaches stays as it is (R34). -/
def demotePage (s : State) (home page entry : Nat) (big : Bool) : State :=
  let r : RepEnt := match (s.die home).repDir.find? fun x => x.page == page with
    | some r => r
    | none => { page := page, entry := entry, sites := 0, acks := 0, demoted := false, gate := false, big := big, held := [] }
  let s1 := (sitesOf r.sites).foldl (fun t x => dropReplica t x page r.span) s
  let e := readBytes s1.mem r.entry 8
  let s2 := if attrOf e = 2 && siteSt s1 home (homeOf (lineOf r.entry)) == stOk then (dieStore s1 (homeOf (lineOf r.entry)) r.entry 8 (e % 2 ^ 62)).1 else s1
  let s3 := r.held.foldl (fun t x => treatHome t x r.entry) s2
  let d := s3.die home
  let others := d.repDir.filter fun x => x.page != page
  if 4096 ≤ others.length then s3
  else s3.setDie home { d with repDir := { r with sites := 0, acks := 0, demoted := true, gate := false, held := [] } :: others }

/-- The low-water mark that a port compares a request's SEQ with: the latest that the requester has sent it (R58). -/
def portMark (d : Die) (rq lwm : Nat) : Nat := if seqAbove lwm (FMap.get lwm d.lwms rq) then lwm else FMap.get lwm d.lwms rq

/-- Apply an atomic at a memory port, once for each tag (R58): state, old value, status. `mark` is the requester's latest
low-water mark; a late copy is discarded and answers nothing, here the value 0. -/
def portAtomic (s : State) (site rq mark seq : Nat) (cas : Bool) (op pa size b : Nat) : State × Nat × Nat :=
  let f := (FMap.get [] (s.die site).filter rq).filter fun e => seqAbove e.1 mark
  if !seqAbove seq mark then (s, 0, stOk)
  else
    match FMap.find f seq with
    | some v => (s, v.toNat, stOk)
    | none =>
      let line := lineOf pa
      let s1 := gatherHome s line
      if s1.poison.contains line then (s1, 0, stPoison)
      else
        let old := readBytes s1.mem pa size
        let (s2, st) := cohWrite s1 line (atomicNew cas op size old b * 2 ^ (8 * (pa % 128))) ((2 ^ size - 1) * 2 ^ (pa % 128))
        let d := s2.die site
        (s2.setDie site { d with lwms := FMap.set d.lwms rq mark, filter := FMap.set d.filter rq (FMap.set f seq (BitVec.ofNat 64 old)) },
          old, st)

/-- The package number of a peer address (R138). -/
def peerOf (pa : Nat) : Nat := pa / 2 ^ 48 % 1024
/-- The port that a request to a peer package leaves by (R140): of the working ones of the package's mask, that of rank h mod k. -/
def peerPort (s : State) (who : Who) (pa : Nat) : Option Nat :=
  let m := s.reg (pkgrtA (peerOf pa))
  let l := (List.range 24).filter fun p => (s.reg pkgidA).getLsbD 63 && m.getLsbD p && s.regF (dlstatA p) 1 0 == 2
  l[Config.portHash (who.site * 64 + who.core) (pa % 2 ^ 48 / 4096) % max 1 l.length]?
/-- Whether an operation that holds new requests to a package back (R141) is still outstanding. -/
def peerWaits (s : State) (h : Nat × Nat × WRef × BitVec 16) : Bool :=
  (s.wref h.2.2.1).ops.any fun o => o.tag == h.2.2.2 && !o.done && o.res.any fun x => x.tr.kind == .peer && peerOf x.tr.pa == h.2.1
/-- Whether a core holds a new request to a peer package (R141): one of its own that was outstanding when a port of the package went
down or came up has not completed. -/
def peerHeld (s : State) (site core : Nat) (t : Tr) : Bool :=
  t.kind == .peer && s.hub.peerHold.any fun h =>
    h.2.1 == peerOf t.pa && h.1 == site && h.2.2.1.core == core && peerWaits s h
/-- A request to a peer package (R138, R140, R142): its status, and the request on its way, with the requester's tag. Only HBM is
there to be reached at the far side. -/
def peerSend (s : State) (who : Who) (pa : Nat) (atomic : Bool) : State × Nat :=
  match peerPort s who pa with
  | none => (s, stUnreach)
  | some p =>
    let (s1, seq, lwm) := takeSeq s who atomic
    ({ s1 with outbox := s1.outbox ++ [.peerReq p (peerOf pa) who.site who.core seq lwm] },
      if pa % 2 ^ 48 < 0x30000000000 then stOk else stAddr)

/-- The guard latch of a warp of the core after an access outside every allocation or in a guard granule (R277): `o` is
the offset in the scratchpad. -/
def latchGuard (s : State) (who : Who) (o : Nat) : State :=
  let w := s.warp who.site who.core who.slot
  let base := 1024 * (s.team w.team).gran
  let g : GuardLatch := match w.guard with
    | some g => { g with count := satAdd 8 g.count 1 }
    | none => { off := BitVec.ofInt 19 ((o : Int) - base), bank := BitVec.ofNat 4 (o / 4), count := 1, tag := w.tag }
  s.setWarp who.site who.core who.slot { w with guard := some g }

/-- Whether a granule is a data granule of some allocation of the core (R275, R277). -/
def dataGranule (c : Core) (g : Nat) : Bool :=
  c.alloc.any fun a => decide (a.first < g) && decide (g + 1 < a.first + a.n)

/-- Whether an access is a warp's own access of a guard granule or of a free one (R277): a stream feeder's is none. -/
def guarded (s : State) (who : Who) (pa : Nat) : Option Nat :=
  match region pa with
  | .window site core off =>
    if who.own && who.slot < 64 && site = who.site && core = who.core && 0x100000 ≤ off && off < 0x180000 &&
        !dataGranule (s.core site core) ((off - 0x100000) / 1024)
    then some (off - 0x100000) else none
  | _ => none

/-- What a load of a REPLICATE page by a die of its set finds at the page's home (R94, R95): a replica; no place in the full
directory, so that the access is made at the home; or a page that is demoted, at the latest behind the gate it waits for. -/
inductive RepAns where
  | replica | forward | demoted
  deriving DecidableEq, Repr
/-- A replica read in one step (R94, R95). -/
def fillReplica (s : State) (site home : Nat) (t : Tr) : State × RepAns :=
  let h := s.die home
  match h.repDir.find? fun x => x.page == t.page with
  | some r =>
    if r.demoted then (treatHome s site t.entry, .demoted)
    else if r.gate then (treatHome (demotePage s home t.page t.entry t.big) site t.entry, .demoted)
    else (mark s r, .replica)
  | none =>
    if 4096 ≤ h.repDir.length then (s, .forward)
    else (mark s { page := t.page, entry := t.entry, sites := 0, acks := 0, demoted := false, gate := false, big := t.big, held := [] }, .replica)
where
  /-- The home notes the site, and the site the page. -/
  mark (s : State) (r : RepEnt) : State :=
    let d := s.die site
    let s1 := s.setDie site { d with replicas := if d.replicas.contains t.page then d.replicas else t.page :: d.replicas }
    let h := s1.die home
    s1.setDie home { h with repDir := { r with sites := r.sites ||| 1 <<< site } :: h.repDir.filter fun x => x.page != t.page }

/-- What a load of a REPLICATE page finds (R94): a core's slice may hold the line as a replica; else the home is asked, and the slice
takes the line that comes. -/
def findReplica (s : State) (who : Who) (home : Nat) (t : Tr) : State × RepAns :=
  let line := lineOf t.pa
  let slice := s.sliceOf who.site who.core
  if who.own && (s.die who.site).repLines.any fun x => x.line == line && x.slice == slice then (s, .replica)
  else
    let (s1, ans) := fillReplica s who.site home t
    (if who.own && ans == .replica then addReplica s1 who.site line slice t.page t.sec else s1, ans)

/-- What the slice of a die answers for a line it holds of a page of the other world (R118, R119). -/
def sliceSt (s : State) (who : Who) (pa : Nat) : Nat :=
  let e := dirOf s (lineOf pa) who.site
  let rep := (s.die who.site).repLines.any fun x => x.line == lineOf pa && x.sec
  if who.own && ((e.valid && e.sec) || rep) && !who.sec then stPerm else stOk

/-- What an access to HBM meets before it is performed (R34, R50, R115, R118, R119): the status, with what the refusal
leaves. -/
def hbmGate (s : State) (who : Who) (home pa : Nat) : State × Nat :=
  let st := siteSt s who.site home
  if st ≠ stOk then (siteFail s who.site home, st)
  else
    let st := portSt s pa who.sec
    if st ≠ stOk then (portEvent s home who.site who.core pa who.sec, st)
    else if sliceSt s who pa ≠ stOk then (secEvent s who.site who.site who.core pa, stPerm)
    else (s, stOk)

/-- A load of one naturally aligned piece: state, value, status (R50). `sc` is the scope code and `hint` the cache hint. A
reserved offset of the on-chip range of a die that is down answers ADDR from 0xC000000 on, where no window is, and DIEDOWN in
the reserved part of a window (log 20). -/
def plainLoad (s : State) (who : Who) (t : Tr) (size hint : Nat) : State × Nat × Nat :=
  match t.kind with
  | .host => (s, readBytes s.hostMem t.pa size, stOk)
  | .peer => let (s1, st) := peerSend s who t.pa false; (s1, if st = stOk then readBytes s1.peerMem t.pa size else 0, st)
  | .localMem =>
    match region t.pa with
    | .window site core off =>
      (match guarded s who t.pa with
       | some o => (latchGuard s who o, 0, stOk)
       | none =>
         let st := windowSt s who.site site core who.sec
         if st ≠ stOk then (refuse s who site t.pa st, 0, st)
         else let (v, st) := windowLoad s site core off size; (sendReq s who site, v, st))
    | .hbm home =>
      let (s0, st) := hbmGate s who home t.pa
      if st ≠ stOk then (s0, 0, st)
      else
        let line := lineOf t.pa
        let s1 := notePage s line t
        let near := t.set.getLsbD who.site
        let (s2, ans) := if t.attr = 2 && near then findReplica s1 who home t else (s1, .demoted)
        if who.own && near && ans != .forward then cachedLoad s2 who.site who.core t.pa size hint (ans != .replica)
        else
          let s3 := sendReq s2 who home
          let site := if near && ans != .forward then who.site else home
          let s4 := if ans = .replica then s3 else gatherRead s3 site line (dirSlice s3 site line)
          if s4.poison.contains line then (s4, 0, stPoison) else (s4, readBytes s4.mem t.pa size, stOk)
    | _ => (s, 0, stAddr)

/-- Whether a page names a DSMASK register that software wrote while it must not (R89). -/
def breached (s : State) (t : Tr) : Bool := match t.mask with | some i => s.breach.getLsbD i | none => false
/-- A load of one naturally aligned piece; after a breach of R89 its value is undefined (R2). -/
def doLoad (s : State) (who : Who) (t : Tr) (size hint : Nat) : State × Nat × Nat :=
  let (s1, v, st) := plainLoad s who t size hint
  if st = stOk && breached s t then (s1.fresh, s1.any 0 % 2 ^ (8 * size), st) else (s1, v, st)

/-- How deep a store goes: with NOL1 through to the slice or wider, whatever its order; else a relaxed one into L1, and a release
to where its scope reads (R282, R297). -/
def storeDepth (order scope hint : Nat) : Nat :=
  if hint = 2 then (if 3 ≤ scope then 2 else 1)
  else if order = 0 then 0
  else if scope < 2 then 0 else if scope = 2 then 1 else 2

/-- Before a store or an atomic to a page that is still REPLICATE, its home demotes the page (R95). -/
def demoteFor (s : State) (home : Nat) (t : Tr) : State :=
  if t.attr == 2 && !(s.die home).repDir.any fun x => x.page == t.page && x.demoted then demotePage s home t.page t.entry t.big else s

/-- A store of one naturally aligned piece: state and status (R50). -/
def doStore (s : State) (who : Who) (t : Tr) (size val depth hint : Nat) : State × Nat :=
  match t.kind with
  | .host => ({ s with hostMem := writeBytes s.hostMem t.pa size val }, stOk)
  | .peer =>
    let (s1, st) := peerSend s who t.pa false
    (if st = stOk then { s1 with peerMem := writeBytes s1.peerMem t.pa size val } else s1, st)
  | .localMem =>
    match region t.pa with
    | .window site core off =>
      (match guarded s who t.pa with
       | some o => (latchGuard s who o, stOk)
       | none =>
         let st := windowSt s who.site site core who.sec
         if st ≠ stOk then (refuse s who site t.pa st, st) else windowStore (sendReq s who site) site core off size val)
    | .hbm home =>
      let (s0, st) := hbmGate s who home t.pa
      if st ≠ stOk then (s0, st)
      else
        let s1 := demoteFor (notePage s (lineOf t.pa) t) home t
        let near := t.set.getLsbD who.site
        if who.own && near then cachedStore s1 who.site who.core t.pa size val (if t.attr = 2 then 2 else depth) hint
        else dieStore (sendReq s1 who home) (if near then who.site else home) t.pa size val
    | _ => (s, stAddr)

/-- An atomic at the place its page gives (R289, R475): state, old value, status. The requesting core's own dirty bytes
of the line are written back first, so that the atomic reads them (R288), and its L1 copy is discarded. -/
def plainAtomic (s : State) (who : Who) (t : Tr) (cas : Bool) (op size b : Nat) : State × Nat × Nat :=
  match t.kind with
  | .host =>
    if Config.hostAtomics (if cas then 16 else op) size then
      let old := readBytes s.hostMem t.pa size
      ({ s with hostMem := writeBytes s.hostMem t.pa size (atomicNew cas op size old b) }, old, stOk)
    else (s, 0, stAddr)
  | .peer =>
    let (s1, st) := peerSend s who t.pa true
    let old := readBytes s1.peerMem t.pa size
    if st = stOk then ({ s1 with peerMem := writeBytes s1.peerMem t.pa size (atomicNew cas op size old b) }, old, stOk) else (s1, 0, st)
  | .localMem =>
    match region t.pa with
    | .window site core off =>
      (match guarded s who t.pa with
       | some o => (latchGuard s who o, 0, stOk)
       | none =>
         let st := windowSt s who.site site core who.sec
         if st ≠ stOk then (refuse s who site t.pa st, 0, st)
         else if off < 0x100000 || 0x180000 ≤ off then (s, 0, stAddr)
         else
           let (old, st) := windowLoad s site core off size
           if st ≠ stOk then (s, 0, st)
           else
             let s0 := if site = who.site && core = who.core then s else (takeSeq s who true).1
             let (s1, st) := windowStore s0 site core off size (atomicNew cas op size old b)
             (s1, old, st))
    | .hbm home =>
      let (s0, st) := hbmGate s who home t.pa
      if st ≠ stOk then (s0, 0, st)
      else
        let line := lineOf t.pa
        let s1 := demoteFor (notePage s line t) home t
        let s2 := if who.own then
            mergeHeld (dropL1 s1 who.site who.core line true) who.site (s1.sliceOf who.site who.core) line
          else s1
        let (s3, seq, mark) := takeSeq s2 who true
        portAtomic s3 home (reqKey who.site who.core) mark seq cas op t.pa size b
    | _ => (s, 0, stAddr)

/-- An atomic; after a breach of R89 what it answers is undefined (R2). -/
def doAtomic (s : State) (who : Who) (t : Tr) (cas : Bool) (op size b : Nat) : State × Nat × Nat :=
  let (s1, v, st) := plainAtomic s who t cas op size b
  if st = stOk && breached s t then (s1.fresh, s1.any 0 % 2 ^ (8 * size), st) else (s1, v, st)

/-- The line of HBM as the stack holds it (R113): the XTS data unit that the controller makes of the line, with the key of the
world that owns the line's range and the line's number as tweak. ECC is computed over it; what cores and engines read is the
plaintext. -/
def storedLine (s : State) (line : Nat) : BitVec 1024 :=
  let d := s.die (homeOf line)
  Config.xts (if (secAt s (line * 128)).1 then d.key1 else d.key0) line (BitVec.ofNat 1024 (readBytes s.mem (line * 128) 128))

/-- The fault-queue writer of a die stores bytes of a record (R46, R266, R267): as a request of the queue's world, of naturally
aligned pieces. -/
def queueStore (s : State) (site w pa size val : Nat) : State :=
  (doStore s (dieWho site 50 (w == 1)) { kind := .localMem, pa := pa, attr := 0, set := 0, sec := w == 1, page := 0, entry := 0 } size val 2 0).1

/-- Write a new record into a fault queue, in the order of R266: bytes 0x00 to 0x1B, then 0x1C to 0x1F, then FQTAIL; the
FAULTQ event rises when no record was unread. Answers the record's SEQ. -/
def newRecord (s : State) (site w : Nat) (va root reason level flags core : Nat) (who : List WRef) : State × Nat :=
  let d := s.die site
  let q := d.fq w
  let tail := s.regF (fqtailA site w) 11 0
  let base := s.regF (fqbaseA site w) 47 17 * 2 ^ 17 + tail * 32
  let v := va + root * 2 ^ 64 + q.next * 2 ^ 128 + who.length * 2 ^ 160 + reason * 2 ^ 192 + level * 2 ^ 200 + flags * 2 ^ 208 +
    core * 2 ^ 216 + (if q.phase then 1 else 0) * 2 ^ 224
  let empty := decide (tail = s.regF (fqheadA site w) 11 0)
  let s1 := queueStore (queueStore (queueStore (queueStore s site w base 16 v) site w (base + 16) 8 (v / 2 ^ 128)) site w (base + 24) 4
    (v / 2 ^ 192)) site w (base + 28) 4 (v / 2 ^ 224)
  let r : FRec := { seq := q.next, idx := tail, va := BitVec.ofNat 64 va, root := root, reason := reason, waiters := who }
  let q' := { q with next := if q.next = 0xFFFFFFFF then 1 else q.next + 1, recs := q.recs ++ [r],
                     phase := if tail = 4095 then !q.phase else q.phase }
  let s2 := s1.setDie site ((s1.die site).setFq w q')
  let s3 := (s2.setRegF (fqtailA site w) 11 0 (tail + 1)).setRegF (fqtailA site w) 28 16 (q'.recs.length)
  (if empty then raiseEvt s3 0 else s3, q.next)

/-- Whether a queue can take a record: enabled, and fewer than 4096 pending (R264, R266). -/
def canRecord (s : State) (site w : Nat) : Bool :=
  (s.reg (fqbaseA site w)).getLsbD 0 && decide (((s.die site).fq w).recs.length < 4096)

/-- A warp's page fault goes to its die's queue (R263, R265, R266): merged into a pending record of the page and root, or
written as a new one, or stalled. Answers the SEQ waited on, or none when the warp stalls. -/
def reportFault (s : State) (site : Nat) (sec : Bool) (va : Nat) (root reason level flags core : Nat) (who : WRef) (lanes : Word) :
    State × Option Nat :=
  let w := worldNo sec
  let q := (s.die site).fq w
  match q.recs.find? fun r => r.root == root && r.va.toNat / 2 ^ 19 == va / 2 ^ 19 with
  | some r =>
    let q' := { q with recs := q.recs.map fun x => if x.seq == r.seq then { x with waiters := x.waiters ++ [who] } else x }
    let base := s.regF (fqbaseA site w) 47 17 * 2 ^ 17 + r.idx * 32 + 0x14
    let s1 := queueStore s site w base 4 (satAdd 32 (readBytes s.mem base 4) 1)
    (s1.setDie site ((s1.die site).setFq w q'), some r.seq)
  | none =>
    if canRecord s site w then
      let (s1, n) := newRecord s site w va root reason level flags core [who]
      (s1, some n)
    else
      let s1 := s.setDie site ((s.die site).setFq w { q with stalled := q.stalled ++ [{ who := who, va := va, lanes := lanes, root := root, flags := flags }] })
      (s1.bumpReg (fqtailA site w) 63 48 1, none)

/-- An engine's page fault: a record of its own with the ENGINE flag and no waiter, or none when the queue takes none
(R264). `core` is the requester's code. -/
def reportEngine (s : State) (site : Nat) (sec : Bool) (va root reason level : Nat) (write : Bool) (core : Nat) : State :=
  let w := worldNo sec
  if canRecord s site w then (newRecord s site w va root reason level (4 + if write then 1 else 0) core []).1
  else s.bumpReg (fqtailA site w) 63 48 1

end Sys2Proof.Machine
end

