-- ==== Sys2Proof/WellFormed.lean ====
section
/-! DEFINITION. Which instructions are legal: the operand widths, register numbers and modifier values of R380 and R387
to R390, and the limits of each entry. A word that breaks one is illegal and traps (R392). An event is well formed when
it names units that the package has (R20, R23, R51, R128, R179). -/
namespace Sys2Proof

/-- A register pair of the scalar stream: an even number (R380). -/
def even (r : BitVec 6) : Bool := !r.getLsbD 0
/-- A quad: a multiple of four (R380). -/
def quad (r : BitVec 6) : Bool := r.extractLsb' 0 2 == 0
/-- A scope code: 0 warp to 5 system (R390). -/
def scope (x : BitVec 3) : Bool := decide (x.toNat ≤ 5)
/-- The first block and the count of RBGET and RBPUT: a count of 1 to 16 and blocks 0 to 47 (R425, R172). -/
def blocks (first : BitVec 6) (count : BitVec 5) : Bool :=
  decide (1 ≤ count.toNat) && decide (count.toNat ≤ 16) && decide (first.toNat + count.toNat ≤ 48)

/-- The special registers of width 2, by their even number (R427). -/
def wideReg (n : BitVec 14) : Bool := [0x10, 0x12, 0x14, 0x16, 0x18, 0x22, 0x24, 0x28].contains n.toNat
/-- The handler registers that SWRITE may name (R427, R341). -/
def handlerReg (n : BitVec 14) : Bool :=
  [0x20, 0x21, 0x22, 0x24, 0x26, 0x28].contains n.toNat || decide (0x30 ≤ n.toNat) && decide (n.toNat ≤ 0x37)
/-- The special registers that SREAD may name (R427). -/
def readable (n : BitVec 14) : Bool :=
  decide (n.toNat ≤ 0xE) || [0x10, 0x12, 0x14, 0x16, 0x18].contains n.toNat || handlerReg n

/-- The number a lane operand field holds (R387). -/
def num (f : BitVec 13) : Nat := (f.extractLsb' 2 11).toNat
/-- The width code of a lane operand field (R387). -/
def wcode (f : BitVec 13) : BitVec 2 := f.extractLsb' 0 2
/-- A field the entry does not use. -/
def zero (f : BitVec 13) : Bool := f == 0
/-- Width code `k`, and a number that is a multiple of the width (R387). -/
def width (k : Nat) (f : BitVec 13) : Bool := (wcode f).toNat == k && num f % 2 ^ k == 0
/-- A destination among the vector registers alone (R460). -/
def vec (k : Nat) (f : BitVec 13) : Bool := width k f && decide (num f < 1536)
/-- A destination: a vector register or a temporary (R388). -/
def dst (k : Nat) (f : BitVec 13) : Bool := width k f && decide (num f < 1544)
/-- A source: a vector register, a temporary, a special source, which is single, or a captured scalar (R388). -/
def src (k : Nat) (f : BitVec 13) : Bool :=
  width k f && (decide (num f < 1544) || decide (1552 ≤ num f) && decide (num f ≤ 1565) && k == 0 ||
    decide (1600 ≤ num f) && decide (num f ≤ 1663))
/-- A predicate field (R389). -/
def pred (f : BitVec 13) : Bool := wcode f == 0 && decide (num f ≤ 6)
/-- A captured scalar pair (R489). -/
def scalarPair (f : BitVec 13) : Bool := src 1 f && decide (1600 ≤ num f)

/-- Every bit of M outside a mask is zero (R390, R431). -/
def m0 (mask : Nat) (m : BitVec 29) : Bool := m &&& ~~~(BitVec.ofNat 29 mask) == 0
/-- FMT, M[6:3] (R390). -/
def fmtOf (m : BitVec 29) : Nat := (m.extractLsb' 3 4).toNat
/-- SFMT, M[15:12] (R431). -/
def sfmtOf (m : BitVec 29) : Nat := (m.extractLsb' 12 4).toNat
/-- CMP, M[11:8] (R431). -/
def cmpOf (m : BitVec 29) : Nat := (m.extractLsb' 8 4).toNat
/-- MODE, M[10:7] (R451). -/
def modeOf (m : BitVec 29) : Nat := (m.extractLsb' 7 4).toNat
/-- SEG, M[13:11] (R451). -/
def segOf (m : BitVec 29) : Nat := (m.extractLsb' 11 3).toNat
/-- SAT alone, or U with SAT (R434, R439). -/
def satU (m : BitVec 29) : Bool := m0 0x84 m && (!m.getLsbD 7 || m.getLsbD 2)
/-- A comparison code up to `k`, and no bit outside a mask (R431). -/
def cmpTo (k mask : Nat) (m : BitVec 29) : Bool := m0 mask m && decide (cmpOf m ≤ k)
/-- A format code of a list, and no bit outside a mask. -/
def fmtIn (l : List Nat) (mask : Nat) (m : BitVec 29) : Bool := m0 mask m && l.contains (fmtOf m)
/-- HSET2: a comparison of 0 to 5 and a format of 2 or 3 (R444). -/
def h2 (m : BitVec 29) : Bool := m0 0xF78 m && decide (cmpOf m ≤ 5) && [2, 3].contains (fmtOf m)
/-- TEX: SCOPE in M[9:7] (R508). -/
def texM (m : BitVec 29) : Bool := m0 0x380 m && scope (m.extractLsb' 7 3)
/-- TILEW: BLEND in M[8:7], 3 unassigned (R508). -/
def blendM (m : BitVec 29) : Bool := m0 0x180 m && m.extractLsb' 7 2 != 3
/-- A format CVT accepts (R445). -/
def cvtFmt (k : Nat) : Bool := k != 10 && k != 11
/-- The width code of a value of a format in CVT: a pair for the 64-bit formats (R445). -/
def wideFmt (k : Nat) : Nat := if k = 1 || k = 9 || k = 15 then 1 else 0
/-- The four operand fields of an L3 word, each as its entry says. -/
def l3 (f : L3) (pd pa pb pc : BitVec 13 → Bool) : Bool := pd f.d && pa f.a && pb f.b && pc f.c
/-- Not the all-zero word, which is no instruction (R392): the one word of class 0 and op number 0 that IADD does not have. -/
def notZero (h : Hdr) (f : L3) : Bool := h != { s := false, pred := 0 } || f != { d := 0, a := 0, b := 0, c := 0, m := 0 }
/-- D and A single or pair, of one width (R453, R454). -/
def oneOrTwo (f : L3) : Bool :=
  wcode f.d == wcode f.a && decide ((wcode f.d).toNat ≤ 1) && dst (wcode f.d).toNat f.d && src (wcode f.a).toNat f.a
/-- The modes, formats and widths of REDUX and SCAN (R456). -/
def redInt (f : L3) : Bool :=
  decide (modeOf f.m ≤ 5) && [8, 14, 9, 15].contains (fmtOf f.m) && dst (wideFmt (fmtOf f.m)) f.d &&
    src (wideFmt (fmtOf f.m)) f.a && zero f.b && zero f.c

/-- SIZE (R390). -/
def lmSize (f : LM) : Nat := (f.m.extractLsb' 0 3).toNat
/-- ORDER (R390). -/
def lmOrder (f : LM) : Nat := (f.m.extractLsb' 3 2).toNat
/-- SCOPE (R390). -/
def lmScope (f : LM) : Nat := (f.m.extractLsb' 5 3).toNat
/-- HINT (R390). -/
def lmHint (f : LM) : Nat := (f.m.extractLsb' 8 2).toNat
/-- AOP, M[13:10] (R471). -/
def aopOf (f : LM) : Nat := (f.m.extractLsb' 10 4).toNat
/-- No bit of M outside a mask, and an assigned scope (R392, R461). -/
def lmBase (f : LM) (mask : Nat) : Bool :=
  f.m &&& ~~~(BitVec.ofNat 22 mask) == 0 && scope (f.m.extractLsb' 5 3)
/-- SX only with b8 or b16 (R460). -/
def sxOk (f : LM) : Bool := !f.m.getLsbD 10 || decide (lmSize f ≤ 1)
/-- The width code of a register operand of an access size: single up to b32, then pair, quad, octet (R460). -/
def regsOf (size : Nat) : Nat := size - 2
/-- A pitch code ACCLD and ACCST accept (R483). -/
def pitchOk (p : Nat) : Bool := p == 0 || decide (16 ≤ p)

/-- A warp slot of the package (R23). -/
def warpRef (w : WRef) : Bool := decide (w.site < 48) && decide (w.core < 48) && decide (w.slot < 64)
/-- A request a requester can send: its size is a power of two up to 32 bytes, and its address is aligned (R46, R56). -/
def reqOk (r : Req) : Bool :=
  decide (r.srcSite < 49) && decide (r.srcCore < 64) && [1, 2, 4, 8, 16, 32].contains r.size && r.pa % r.size == 0

/-- An instruction whose every operand R392 lets it have; an event that names units the package has. -/
def wellFormed : Instr → Bool
  | .sadd _ _ _ => true
  | .ssub _ _ _ => true
  | .smul _ _ _ => true
  | .smulh _ _ _ => true
  | .sand _ _ _ => true
  | .sor _ _ _ => true
  | .sxor _ _ _ => true
  | .sshl _ _ _ => true
  | .sshr _ _ _ => true
  | .ssra _ _ _ => true
  | .smin _ _ _ => true
  | .smax _ _ _ => true
  | .scmp c _ _ _ => c.toNat ≤ 9
  | .sadd64 d a b => even d && even a && even b
  | .ssub64 d a b => even d && even a && even b
  | .saddi _ _ _ => true
  | .sandi _ _ _ => true
  | .sori _ _ _ => true
  | .sxori _ _ _ => true
  | .sshli _ _ _ => true
  | .sshri _ _ _ => true
  | .ssrai _ _ _ => true
  | .slui _ _ => true
  | .sld d a mode _ => even a && scope (mode.extractLsb' 3 3) && (mode.extractLsb' 0 2 != 3 || even d)
  | .sst d a mode _ => even a && scope (mode.extractLsb' 3 3) && (mode.extractLsb' 0 2 != 3 || even d)
  | .sldc d _ _ w => w != 3 && d.toNat % 2 ^ w.toNat == 0
  | .bra c a _ => decide (c.toNat ≤ 6) && (c != 0 || a == 0)
  | .jmp _ => true
  | .call _ => true
  | .ret _ => true
  | .loop c a _ => c != 0 && decide (c.toNat ≤ 6) && a != 63
  | .vrun _ => true
  | .vrunr _ => true
  | .syncl _ => true
  | .synclResume _ => true
  | .swait _ path => decide (path.toNat ≤ 3)
  | .bara _ a => even a
  | .barw a _ => even a
  | .smon a => even a
  | .smwait _ _ => true
  | .fence scope_ ord => ord != 0 && scope scope_
  | .racq a b => even a && even b
  | .racqAllDie a b => even a && even b
  | .racqAllDevice a => even a
  | .rbget first count => blocks first count
  | .rbput first count => blocks first count
  | .phase _ _ cls => decide (cls.toNat ≤ 7)
  | .rgn => true
  | .launch a => even a
  | .feed a b scope_ => even a && quad b && scope scope_
  | .copy a _ scope_ => even a && scope scope_
  | .copyResume a _ scope_ => even a && scope scope_
  | .nbr a _ scope_ => even a && (scope_ == 4 || scope_ == 5)
  | .sread d num => readable num && (!wideReg num || even d)
  | .swrite a num => handlerReg num && (!wideReg num || even a)
  | .trap _ => true
  | .eret => true
  | .exit => true
  | .iadd h f => (h.pred != 15) && l3 f (dst 0) (src 0) (src 0) (zero) && satU f.m && notZero h f
  | .isub h f => (h.pred != 15) && l3 f (dst 0) (src 0) (src 0) (zero) && satU f.m
  | .imul h f => (h.pred != 15) && l3 f (dst 0) (src 0) (src 0) (zero) && m0 0 f.m
  | .imulh h f => (h.pred != 15) && l3 f (dst 0) (src 0) (src 0) (zero) && m0 0x80 f.m
  | .imad h f => (h.pred != 15) && l3 f (dst 0) (src 0) (src 0) (src 0) && satU f.m
  | .imin h f => (h.pred != 15) && l3 f (dst 0) (src 0) (src 0) (zero) && m0 0x80 f.m
  | .imax h f => (h.pred != 15) && l3 f (dst 0) (src 0) (src 0) (zero) && m0 0x80 f.m
  | .iabs h f => (h.pred != 15) && l3 f (dst 0) (src 0) (zero) (zero) && m0 4 f.m
  | .ineg h f => (h.pred != 15) && l3 f (dst 0) (src 0) (zero) (zero) && m0 4 f.m
  | .iand h f => (h.pred != 15) && l3 f (dst 0) (src 0) (src 0) (zero) && m0 0 f.m
  | .ior h f => (h.pred != 15) && l3 f (dst 0) (src 0) (src 0) (zero) && m0 0 f.m
  | .ixor h f => (h.pred != 15) && l3 f (dst 0) (src 0) (src 0) (zero) && m0 0 f.m
  | .inot h f => (h.pred != 15) && l3 f (dst 0) (src 0) (zero) (zero) && m0 0 f.m
  | .ishl h f => (h.pred != 15) && l3 f (dst 0) (src 0) (src 0) (zero) && m0 0 f.m
  | .ishr h f => (h.pred != 15) && l3 f (dst 0) (src 0) (src 0) (zero) && m0 0 f.m
  | .isra h f => (h.pred != 15) && l3 f (dst 0) (src 0) (src 0) (zero) && m0 0 f.m
  | .irot h f => (h.pred != 15) && l3 f (dst 0) (src 0) (src 0) (zero) && m0 0 f.m
  | .iset h f => (h.pred != 15) && l3 f (pred) (src 0) (src 0) (zero) && cmpTo 9 0xF00 f.m
  | .isel h f => (h.pred != 15) && l3 f (dst 0) (src 0) (src 0) (pred) && m0 0 f.m
  | .popc h f => (h.pred != 15) && l3 f (dst 0) (src 0) (zero) (zero) && m0 0 f.m
  | .clz h f => (h.pred != 15) && l3 f (dst 0) (src 0) (zero) (zero) && m0 0 f.m
  | .brev h f => (h.pred != 15) && l3 f (dst 0) (src 0) (zero) (zero) && m0 0 f.m
  | .bfx h f => (h.pred != 15) && l3 f (dst 0) (src 0) (src 0) (zero) && m0 0x80 f.m
  | .bfi h f => (h.pred != 15) && l3 f (dst 0) (src 0) (src 0) (src 0) && m0 0 f.m
  | .mov h f =>
    (h.pred != 15) && m0 0 f.m && zero f.b && zero f.c && wcode f.d == wcode f.a && dst (wcode f.d).toNat f.d && src (wcode f.a).toNat f.a
  | .movi h f => (h.pred != 15) && dst 0 f.d && zero f.a && f.m == 0
  | .ladd h f => (h.pred != 15) && l3 f (dst 1) (src 1) (src 1) (zero) && satU f.m
  | .lsub h f => (h.pred != 15) && l3 f (dst 1) (src 1) (src 1) (zero) && satU f.m
  | .lshl h f => (h.pred != 15) && l3 f (dst 1) (src 1) (src 0) (zero) && m0 0 f.m
  | .lshr h f => (h.pred != 15) && l3 f (dst 1) (src 1) (src 0) (zero) && m0 0 f.m
  | .lsra h f => (h.pred != 15) && l3 f (dst 1) (src 1) (src 0) (zero) && m0 0 f.m
  | .lset h f => (h.pred != 15) && l3 f (pred) (src 1) (src 1) (zero) && cmpTo 9 0xF00 f.m
  | .lmin h f => (h.pred != 15) && l3 f (dst 1) (src 1) (src 1) (zero) && m0 0x80 f.m
  | .lmax h f => (h.pred != 15) && l3 f (dst 1) (src 1) (src 1) (zero) && m0 0x80 f.m
  | .lmulw h f => (h.pred != 15) && l3 f (dst 1) (src 0) (src 0) (zero) && m0 0x80 f.m
  | .lsel h f => (h.pred != 15) && l3 f (dst 1) (src 1) (src 1) (pred) && m0 0 f.m
  | .fadd h f => (h.pred != 15) && l3 f (dst 0) (src 0) (src 0) (zero) && m0 7 f.m
  | .fsub h f => (h.pred != 15) && l3 f (dst 0) (src 0) (src 0) (zero) && m0 7 f.m
  | .fmul h f => (h.pred != 15) && l3 f (dst 0) (src 0) (src 0) (zero) && m0 7 f.m
  | .ffma h f => (h.pred != 15) && l3 f (dst 0) (src 0) (src 0) (src 0) && m0 7 f.m
  | .fmin h f => (h.pred != 15) && l3 f (dst 0) (src 0) (src 0) (zero) && m0 0 f.m
  | .fmax h f => (h.pred != 15) && l3 f (dst 0) (src 0) (src 0) (zero) && m0 0 f.m
  | .fset h f => (h.pred != 15) && l3 f (pred) (src 0) (src 0) (zero) && cmpTo 5 0xF00 f.m
  | .frnd h f => (h.pred != 15) && l3 f (dst 0) (src 0) (zero) (zero) && m0 3 f.m
  | .fclass h f => (h.pred != 15) && l3 f (dst 0) (src 0) (zero) (zero) && m0 0 f.m
  | .dadd h f => (h.pred != 15) && l3 f (dst 1) (src 1) (src 1) (zero) && m0 7 f.m
  | .dsub h f => (h.pred != 15) && l3 f (dst 1) (src 1) (src 1) (zero) && m0 7 f.m
  | .dmul h f => (h.pred != 15) && l3 f (dst 1) (src 1) (src 1) (zero) && m0 7 f.m
  | .dfma h f => (h.pred != 15) && l3 f (dst 1) (src 1) (src 1) (src 1) && m0 7 f.m
  | .dmin h f => (h.pred != 15) && l3 f (dst 1) (src 1) (src 1) (zero) && m0 0 f.m
  | .dmax h f => (h.pred != 15) && l3 f (dst 1) (src 1) (src 1) (zero) && m0 0 f.m
  | .dset h f => (h.pred != 15) && l3 f (pred) (src 1) (src 1) (zero) && cmpTo 5 0xF00 f.m
  | .drnd h f => (h.pred != 15) && l3 f (dst 1) (src 1) (zero) (zero) && m0 3 f.m
  | .hadd2 h f => (h.pred != 15) && l3 f (dst 0) (src 0) (src 0) (zero) && fmtIn [2, 3] 0x7F f.m
  | .hmul2 h f => (h.pred != 15) && l3 f (dst 0) (src 0) (src 0) (zero) && fmtIn [2, 3] 0x7F f.m
  | .hfma2 h f => (h.pred != 15) && l3 f (dst 0) (src 0) (src 0) (src 0) && fmtIn [2, 3] 0x7F f.m
  | .hmin2 h f => (h.pred != 15) && l3 f (dst 0) (src 0) (src 0) (zero) && fmtIn [2, 3] 0x78 f.m
  | .hmax2 h f => (h.pred != 15) && l3 f (dst 0) (src 0) (src 0) (zero) && fmtIn [2, 3] 0x78 f.m
  | .hset2 h f => (h.pred != 15) && f.d != f.c && l3 f (pred) (src 0) (src 0) (pred) && h2 f.m
  | .cvt h f =>
    (h.pred != 15) && m0 0xF07F f.m && zero f.b && zero f.c && cvtFmt (fmtOf f.m) && cvtFmt (sfmtOf f.m) && dst (wideFmt (fmtOf f.m)) f.d && src (wideFmt (sfmtOf f.m)) f.a
  | .pk8 h f => (h.pred != 15) && l3 f (dst 0) (src 2) (zero) (zero) && fmtIn [4, 5, 6, 12] 0x7F f.m
  | .upk8 h f => (h.pred != 15) && l3 f (dst 2) (src 0) (zero) (zero) && fmtIn [4, 5, 6, 12] 0x78 f.m
  | .pk16 h f => (h.pred != 15) && l3 f (dst 0) (src 1) (zero) (zero) && fmtIn [2, 3, 7, 13] 0x7F f.m
  | .upk16 h f => (h.pred != 15) && l3 f (dst 1) (src 0) (zero) (zero) && fmtIn [2, 3, 7, 13] 0x78 f.m
  | .rcp h f => (h.pred != 15) && l3 f (dst 0) (src 0) (zero) (zero) && m0 4 f.m
  | .rsq h f => (h.pred != 15) && l3 f (dst 0) (src 0) (zero) (zero) && m0 4 f.m
  | .sqrt h f => (h.pred != 15) && l3 f (dst 0) (src 0) (zero) (zero) && m0 7 f.m
  | .ex2 h f => (h.pred != 15) && l3 f (dst 0) (src 0) (zero) (zero) && m0 4 f.m
  | .lg2 h f => (h.pred != 15) && l3 f (dst 0) (src 0) (zero) (zero) && m0 4 f.m
  | .sin h f => (h.pred != 15) && l3 f (dst 0) (src 0) (zero) (zero) && m0 4 f.m
  | .cos h f => (h.pred != 15) && l3 f (dst 0) (src 0) (zero) (zero) && m0 4 f.m
  | .tanh h f => (h.pred != 15) && l3 f (dst 0) (src 0) (zero) (zero) && m0 4 f.m
  | .drcp h f => (h.pred != 15) && l3 f (dst 1) (src 1) (zero) (zero) && m0 4 f.m
  | .drsq h f => (h.pred != 15) && l3 f (dst 1) (src 1) (zero) (zero) && m0 4 f.m
  | .shfl h f =>
    (h.pred != 15) && m0 0xBF80 f.m && decide (modeOf f.m ≤ 3) && decide (segOf f.m ≤ 5) && oneOrTwo f && src 0 f.b && (if f.m.getLsbD 15 then pred f.c else zero f.c)
  | .bcast h f => (h.pred != 15) && m0 0 f.m && oneOrTwo f && src 0 f.b && zero f.c
  | .vote h f =>
    (h.pred != 15) && m0 0x780 f.m && pred f.a && zero f.b && zero f.c && (if modeOf f.m = 3 then dst 0 f.d else decide (modeOf f.m ≤ 2) && pred f.d)
  | .redux h f => (h.pred != 15) && m0 0x7F8 f.m && redInt f
  | .fredux h f =>
    (h.pred != 15) && (if modeOf f.m = 0 then m0 0x7F f.m else decide (modeOf f.m ≤ 2) && m0 0x7F8 f.m) && decide (fmtOf f.m ≤ 1) && dst (fmtOf f.m) f.d && src (fmtOf f.m) f.a && zero f.b && zero f.c
  | .scan h f => (h.pred != 15) && m0 0x47F8 f.m && redInt f
  | .matchL h f =>
    (h.pred != 15) && m0 0 f.m && dst 0 f.d && decide ((wcode f.a).toNat ≤ 1) && src (wcode f.a).toNat f.a && zero f.b && zero f.c
  | .elect h f => (h.pred != 15) && l3 f (pred) (zero) (zero) (zero) && m0 0 f.m
  | .ld h f =>
    (h.pred != 15) && lmBase f 0x7FF && decide (lmSize f ≤ 5) && decide (lmOrder f ≤ 1) && sxOk f && vec (regsOf (lmSize f)) f.d && src 1 f.a && zero f.b
  | .st h f =>
    (h.pred != 15) && lmBase f 0x3FF && decide (lmSize f ≤ 5) && (lmOrder f == 0 || lmOrder f == 2) && zero f.d && src 1 f.a && src (regsOf (lmSize f)) f.b
  | .ldc h f =>
    (h.pred != 15) && lmBase f 0x7FF && decide (lmSize f ≤ 4) && lmOrder f == 0 && lmScope f == 0 && sxOk f && vec (regsOf (lmSize f)) f.d && src 0 f.a && zero f.b
  | .prf h f => (h.pred != 15) && lmBase f 0x300 && decide (lmHint f ≤ 2) && zero f.d && src 1 f.a && zero f.b
  | .wbl h f => (h.pred != 15) && lmBase f 0xE0 && zero f.d && src 1 f.a && zero f.b
  | .invl h f => (h.pred != 15) && lmBase f 0xE0 && zero f.d && src 1 f.a && zero f.b
  | .atom h f =>
    (h.pred != 15) && lmBase f 0x3CFF && (lmSize f == 2 || lmSize f == 3) && src 1 f.a && decide (aopOf f ≤ 8) && vec (regsOf (lmSize f)) f.d && src (regsOf (lmSize f)) f.b
  | .cas h f =>
    (h.pred != 15) && lmBase f 0xFF && (lmSize f == 2 || lmSize f == 3) && src 1 f.a && vec (regsOf (lmSize f)) f.d && src (regsOf (lmSize f) + 1) f.b
  | .red h f =>
    (h.pred != 15) && lmBase f 0x7CFF && (lmSize f == 2 || lmSize f == 3) && src 1 f.a && zero f.d && src (regsOf (lmSize f)) f.b && (decide (aopOf f ≤ 7) && !f.m.getLsbD 14 || decide (12 ≤ aopOf f) && decide (aopOf f ≤ 14))
  | .atomf h f =>
    (h.pred != 15) && lmBase f 0x3CFF && (lmSize f == 2 || lmSize f == 3) && src 1 f.a && decide (12 ≤ aopOf f) && decide (aopOf f ≤ 14) && vec (regsOf (lmSize f)) f.d && src (regsOf (lmSize f)) f.b
  | .pand h f => (h.pred != 15) && l3 f (pred) (pred) (pred) (zero) && m0 0 f.m
  | .por h f => (h.pred != 15) && l3 f (pred) (pred) (pred) (zero) && m0 0 f.m
  | .pxor h f => (h.pred != 15) && l3 f (pred) (pred) (pred) (zero) && m0 0 f.m
  | .pnot h f => (h.pred != 15) && l3 f (pred) (pred) (zero) (zero) && m0 0 f.m
  | .lbra h f => (h.pred != 15) && zero f.a && f.m == 0
  | .ljoin h f => (h.pred != 15) && zero f.a && f.off == 0 && f.m == 0 && h.pred == 7 && !h.s
  | .lcall h f => (h.pred != 15) && dst 0 f.a && f.m == 0 && h.pred == 7
  | .lret h f => (h.pred != 15) && src 0 f.a && f.off == 0 && f.m == 0 && h.pred == 7
  | .lexit h f => (h.pred != 15) && l3 f (zero) (zero) (zero) (zero) && m0 0 f.m
  | .nop h f => (h.pred != 15) && l3 f (zero) (zero) (zero) (zero) && m0 0 f.m
  | .mma h f => (h.pred != 15) && quad f.fbq && zero f.x && f.m.ushiftRight 2 == 0
  | .mmag h f =>
    (h.pred != 15) && quad f.fbq && f.shape == 0 && scalarPair f.x && !f.m.getLsbD 1 && f.m.ushiftRight 8 == 0
  | .mmaw h f => (h.pred != 15) && quad f.fbq && zero f.x && f.m.ushiftRight 2 == 0
  | .accz h f =>
    (h.pred != 15) && f.qa == 0 && f.qb == 0 && f.fbq == 0 && f.shape == 0 && zero f.x && f.m.ushiftRight 8 == 0 && decide (f.zd.toNat + f.m.toNat ≤ 255)
  | .accld h f =>
    (h.pred != 15) && f.qa == 0 && f.qb == 0 && f.fbq == 0 && f.shape == 0 && scalarPair f.x && scope (f.m.extractLsb' 0 3) && f.m.ushiftRight 39 == 0 && pitchOk (f.m.extractLsb' 3 16).toNat
  | .accst h f =>
    (h.pred != 15) && f.qa == 0 && f.qb == 0 && f.fbq == 0 && f.shape == 0 && scalarPair f.x && scope (f.m.extractLsb' 0 3) && f.m.ushiftRight 39 == 0 && pitchOk (f.m.extractLsb' 3 16).toNat
  | .accmv h f =>
    (h.pred != 15) && f.qa == 0 && f.qb == 0 && f.fbq == 0 && f.shape == 0 && f.m.ushiftRight 1 == 0 && (if f.m = 0 then vec 3 f.x else src 3 f.x)
  | .primout h f => (h.pred != 15) && l3 f (zero) (src 3) (src 3) (src 0) && m0 0 f.m
  | .binnext h f => (h.pred != 15) && l3 f (vec 3) (src 0) (zero) (zero) && m0 0 f.m
  | .rastq h f => (h.pred != 15) && l3 f (vec 2) (zero) (zero) (zero) && m0 0 f.m
  | .tex h f => (h.pred != 15) && l3 f (vec 2) (src 1) (src 1) (zero) && texM f.m
  | .ztest h f => (h.pred != 15) && l3 f (pred) (src 0) (zero) (zero) && m0 0x780 f.m
  | .tilew h f => (h.pred != 15) && l3 f (zero) (src 1) (zero) (zero) && blendM f.m
  | .tilerd h f =>
    (h.pred != 15) && m0 0x80 f.m && dst (if f.m.getLsbD 7 then 0 else 1) f.d && src 0 f.a && zero f.b && zero f.c
  | .tilefl h f => (h.pred != 15) && l3 f (zero) (zero) (zero) (zero) && m0 0 f.m
  | .registerWrite _ _ _ _ => true
  | .pkgpwrLimitWrite _ => true
  | .powerWindowEnd _ => true
  | .supplyEvent _ _ => true
  | .supplyRestore _ => true
  | .thermalWarning site _ => decide (site < 48)
  | .thermalStop site _ => decide (site < 48)
  | .thermalRestore site _ => decide (site < 48)
  | .flitReplay site dir => decide (site < 48) && decide (dir < 6)
  | .moduleDisable site dir modl => decide (site < 48) && decide (dir < 4) && decide (modl < 4)
  | .routerReceive router _ _ _ => decide (router < 49)
  | .requestTimeout w _ => warpRef w
  | .memoryPortRequest site r => decide (site < 48) && reqOk r
  | .uncorrectableError site e =>
    decide (site < 49) && (match e.port with | some p => decide (p < 48) | none => true) &&
      decide (e.unit < 15) && decide (e.core < 48) && decide (e.slot < 64)
  | .memoryCompletion w _ => warpRef w
  | .rtcmdGoSign _ => true
  | .rtcmdGoUnsigned _ => true
  | .routeSignDone => true
  | .routerPrepare router => decide (router < 49)
  | .prepareAnswer router => decide (router < 49)
  | .prepareTimeout router => decide (router < 49)
  | .routeAbortRetry => true
  | .drainMarkerReceive src dst cls => decide (src < 49) && decide (dst < 49) && decide (cls < 6)
  | .drainMarkerAck src dst cls => decide (src < 49) && decide (dst < 49) && decide (cls < 6)
  | .drainMarkerResend src dst cls => decide (src < 49) && decide (dst < 49) && decide (cls < 6)
  | .dieResetStart site => decide (site < 48)
  | .neighborFence site dir => decide (site < 49) && decide (dir < 6)
  | .dieFailure site => decide (site < 48)
  | .dieDownNotice site down => decide (site < 48) && decide (down < 48)
  | .dieRelease r => decide (r.site < 48)
  | .transientRequest site _ _ => decide (site < 48)
  | .transientRequestReceive holder site _ _ => decide (holder < 112) && decide (site < 48)
  | .tokenReceive _ => true
  | .transientRetry site _ => decide (site < 48)
  | .persistentConvert site _ => decide (site < 48)
  | .persistentRequest home site _ => decide (home < 48) && decide (site < 48)
  | .persistentActivate home => decide (home < 48)
  | .activateReceive site _ => decide (site < 48)
  | .deactivate site _ => decide (site < 48)
  | .persRebroadcast home _ => decide (home < 48)
  | .clusterHeldAge site _ _ => decide (site < 48)
  | .recreationSweep home _ => decide (home < 48)
  | .censusActivate site _ => decide (site < 48)
  | .censusComplete _ => true
  | .replicaRead site _ _ => decide (site < 48)
  | .replicaDemote home _ => decide (home < 48)
  | .replicaInvalidate site _ => decide (site < 48)
  | .replicaDemoteDone home _ => decide (home < 48)
  | .homeFlush site _ => decide (site < 48)
  | .homeReplclr site _ => decide (site < 48)
  | .homeBadop site _ => decide (site < 48)
  | .homeCmdDone site => decide (site < 48)
  | .bootRom _ _ _ => true
  | .bootHub _ _ _ => true
  | .bootDies rs => rs.all fun t => decide (t.site < 48)
  | .bootSelftest rs => rs.all fun t => decide (t.site < 48)
  | .bootRoute => true
  | .bootKeys _ => true
  | .bootDone => true
  | .getVersion => true
  | .getCapabilities => true
  | .negotiateAlgorithms _ _ _ => true
  | .getDigests => true
  | .getCertificate _ _ _ => true
  | .challenge _ _ => true
  | .getMeasurements _ _ _ => true
  | .spdmUnsupported _ => true
  | .secrangeWrite site i _ _ => decide (site < 48) && decide (i < 8)
  | .secrangeZerofillDone site i => decide (site < 48) && decide (i < 8)
  | .bar2Read _ _ => true
  | .bar2Write _ _ => true
  | .sqStart q _ _ => decide (q < 1024)
  | .sqStop q _ _ => decide (q < 1024)
  | .sqDoorbell q _ _ _ => decide (q < 1024)
  | .cqDoorbell q _ _ _ => decide (q < 1024)
  | .gcpReadEntry q => decide (q < 1024)
  | .waitlistResolve _ => true
  | .gridAdmit _ => true
  | .notbeforeRelease site _ => decide (site < 48)
  | .teamPlace site => decide (site < 48)
  | .runStart w => warpRef w
  | .runEnd w => warpRef w
  | .issueSelect site core _ => decide (site < 48) && decide (core < 48)
  | .starvationPromote w => warpRef w
  | .matrixAccept site core _ => decide (site < 48) && decide (core < 48)
  | .rbgetServe site core => decide (site < 48) && decide (core < 48)
  | .teamEnd _ => true
  | .gridFinalStatus _ => true
  | .completionEntryWrite q => decide (q < 1024)
  | .msixCoalesceTimeout q => decide (q < 1024)
  | .deadlineExpire _ => true
  | .evtstatClear _ => true
  | .dalecPortChange _ _ => true
  | .peerRequestReceive _ _ r => reqOk r
  | .peerRequestTimeout w _ => warpRef w
  | .ptpSync _ _ => true
  | .ptpAnnounce _ _ => true
  | .ppsEdge _ => true
  | .arpReply _ => true
  | .timeSourceLoss => true
  | .tsetWrite _ _ => true
  | .tctlWrite _ => true
  | .frameOpen f _ _ => decide (f < 16)
  | .frameAbort w _ => decide (w.f < 16)
  | .gatePrimReceive site f _ => decide (site < 48) && decide (f < 16)
  | .gateMarkerReceive site f _ _ => decide (site < 48) && decide (f < 16)
  | .gateObjectCheck site f => decide (site < 48) && decide (f < 16)
  | .partialRenderDone site f => decide (site < 48) && decide (f < 16)
  | .frameLatchWrite f => decide (f < 16)
  | .activityWindowEnd site core => decide (site < 48) && decide (core < 48)
  | .throttleEnd site core => decide (site < 48) && decide (core < 48)
  | .tlbiAll _ _ => true
  | .tlbiRoot _ _ => true
  | .tlbiPage _ _ => true
  | .tlbiDone => true
  | .fqbaseEnable site world _ _ => decide (site < 48) && decide (world < 2)
  | .fqcmdReplay site world _ _ => decide (site < 48) && decide (world < 2)
  | .fqcmdKill site world _ _ => decide (site < 48) && decide (world < 2)
  | .faultStallRetry site world => decide (site < 48) && decide (world < 2)
  | .windowAccess core r => decide (core < 48) && reqOk r
  | .qctlWrite site core k _ => decide (site < 48) && decide (core < 48) && decide (k < 8)
  | .qstatClear site core k _ => decide (site < 48) && decide (core < 48) && decide (k < 8)
  | .promotionRequest site core _ => decide (site < 48) && decide (core < 48)
  | .watchFire w => warpRef w
  | .smwaitTimeout w => warpRef w
  | .feedRowAppend site core q => decide (site < 48) && decide (core < 48) && decide (q < 8)
  | .engineComplete w _ => warpRef w
  | .sscbCompare w => warpRef w
  | .watchdogExpire w => warpRef w
  | .preempt _ _ => true
  | .preemptComplete => true
  | .resume _ _ => true
  | .teamRestore site => decide (site < 48)
  | .matrixUnitFinish site core => decide (site < 48) && decide (core < 48)
  | .grantedStart site core => decide (site < 48) && decide (core < 48)
  | .ptpFollowUp _ => true
  | .ptpDelayResp _ => true
  | .ptpDelayReq => true
  | .ppsseenExpire => true
  | .endOfTeamMarkerAck _ site => decide (site < 48)
  | .frameOpenReceive site f => decide (site < 48) && decide (f < 16)
  | .frameOpenAck site f => decide (site < 48) && decide (f < 16)
  | .censusMarkReceive site src _ => decide (site < 48) && decide (src < 48)
  | .hostConfigurationRequest _ _ _ => true

end Sys2Proof
end

