-- ==== Sys2Proof/Machine/Ops.lean ====
section
/-! DEFINITION. The shared operations of the two streams: scalar registers, what a grid's packet and a kernel's descriptor
say, virtual accesses of the device itself, TAKING A TRAP and returning from one, asynchronous records, restarts, and the
waits of the two streams (R226 to R232, R249, R326 to R328, R336 to R346, R380). -/
namespace Sys2Proof.Machine

/-- A scalar register: s63 reads zero (R380). -/
def Warp.rd (w : Warp) (r : BitVec 6) : Word := if r = 63 then 0 else FMap.get 0 w.s r.toNat
/-- Write a scalar register: a write to s63 is discarded (R380). -/
def Warp.wr (w : Warp) (r : BitVec 6) (v : Word) : Warp := if r = 63 then w else { w with s := FMap.put 0 w.s r.toNat v }
/-- A pair: its low 32 bits in the even register (R380). -/
def Warp.rdPair (w : Warp) (r : BitVec 6) : DWord := w.rd (r + 1) ++ w.rd r
/-- Write a pair (R380, R405). -/
def Warp.wrPair (w : Warp) (r : BitVec 6) (v : DWord) : Warp := (w.wr r (v.setWidth 32)).wr (r + 1) ((v >>> 32).setWidth 32)
/-- The scalar stream goes on to the next word, parked no more. -/
def Warp.step (w : Warp) : Warp := { w with pc := w.pc + 1, park := .none }
/-- The grid of a warp. -/
def State.gridOf (s : State) (w : Warp) : Grid := s.grid (s.team w.team).g
/-- REDUN of a grid: 0 NONE, 1 NEAR, 2 FAR, 3 MIRROR (R150). -/
def Grid.redun (g : Grid) : Nat := fieldAt g.pkt 0x12 1 % 4
/-- PRIO of a grid (R150). -/
def Grid.prio (g : Grid) : Nat := fieldAt g.pkt 0x12 1 / 4 % 4
/-- COOP of a grid (R150). -/
def Grid.coop (g : Grid) : Bool := fieldAt g.pkt 0x12 1 / 16 % 2 == 1
/-- FAILDEP of a grid (R150). -/
def Grid.failDep (g : Grid) : Bool := fieldAt g.pkt 0x12 1 / 32 % 2 == 1
/-- NOTBEFORE of a grid (R150). -/
def Grid.notBefore (g : Grid) : Nat := fieldAt g.pkt 0x18 8
/-- TEAM of a grid (R150). -/
def Grid.teamSize (g : Grid) : Nat := fieldAt g.pkt 0x10 1
/-- BLOCKS of a grid (R150). -/
def Grid.blocks (g : Grid) : Nat := fieldAt g.pkt 0x11 1
/-- SCRATCH of a grid (R150). -/
def Grid.scratch (g : Grid) : Nat := fieldAt g.pkt 0x14 4
/-- GRIDX, GRIDY and GRIDZ of a grid (R150). -/
def Grid.dim (g : Grid) : Nat × Nat × Nat := (fieldAt g.pkt 8 4, fieldAt g.pkt 0xC 2, fieldAt g.pkt 0xE 2)
/-- Teams of a grid (R151). -/
def Grid.total (g : Grid) : Nat := g.dim.1 * g.dim.2.1 * g.dim.2.2
/-- Coordinates of team t (R151). -/
def Grid.coords (g : Grid) (t : Nat) : Nat × Nat × Nat :=
  (t % g.dim.1, t / g.dim.1 % g.dim.2.1, t / g.dim.1 / g.dim.2.1)
/-- The context area of team t (R151). -/
def Grid.ctx (g : Grid) (t : Nat) : Nat := fieldAt g.pkt 0x60 8 + t * fieldAt g.pkt 0x68 4
/-- Warps of a team with their shadows (R274). -/
def Grid.wc (g : Grid) : Nat := if g.redun = 1 || g.redun = 2 then 2 * g.teamSize else g.teamSize
/-- Whether the warps of a grid run in pairs (R311). -/
def Grid.pairs (g : Grid) : Bool := g.redun == 1 || g.redun == 2
/-- Whether lanes 16 to 31 mirror lanes 0 to 15 (R253). -/
def Grid.mirror (g : Grid) : Bool := g.redun == 3

/-- SCODE of a kernel (R395). -/
def Team.scode (t : Team) : Nat := fieldAt t.kd 0x10 8
/-- LCODE of a kernel (R395). -/
def Team.lcode (t : Team) : Nat := fieldAt t.kd 0x18 8
/-- DATA of a kernel (R395). -/
def Team.dataVa (t : Team) : Nat := fieldAt t.kd 0x20 8
/-- SLEN of a kernel (R395). -/
def Team.slen (t : Team) : Nat := fieldAt t.kd 0x28 4
/-- LLEN of a kernel (R395). -/
def Team.llen (t : Team) : Nat := fieldAt t.kd 0x2C 4
/-- DLEN of a kernel (R395). -/
def Team.dlen (t : Team) : Nat := fieldAt t.kd 0x30 4
/-- ENTRY of a kernel (R395). -/
def Team.entry (t : Team) : Nat := fieldAt t.kd 0x34 4
/-- TRAPVEC of a kernel (R395). -/
def Team.trapvec (t : Team) : Nat := fieldAt t.kd 0x38 4

/-- The requester a warp's own accesses are made by. -/
def State.who (s : State) (r : WRef) : Who :=
  { site := r.site, core := r.core, slot := r.slot, sec := (s.gridOf (s.wref r)).sec, own := true }

/-- The result of an access through page tables: its value, or why it was not made. -/
inductive Vm where
  | ok (v : Nat)
  | page (reason level : Nat)
  | perm
  | misalign
  | st (status : Nat)
  deriving DecidableEq, Repr

/-- A load through page tables of a naturally aligned piece. -/
def vmLoad (s : State) (who : Who) (root va size : Nat) : State × Vm :=
  match checkVa s who.site (if who.core < 48 then some who.core else none) root who.sec (BitVec.ofNat 64 va) size .load with
  | (s1, .perm) => (s1, .perm)
  | (s1, .misalign) => (s1, .misalign)
  | (s1, .page r l) => (s1, .page r l)
  | (s1, .ok t) => let (s2, v, st) := doLoad s1 who t size 0; (s2, if st = stOk then .ok v else .st st)

/-- A store through page tables of a naturally aligned piece. -/
def vmStore (s : State) (who : Who) (root va size val : Nat) : State × Vm :=
  match checkVa s who.site (if who.core < 48 then some who.core else none) root who.sec (BitVec.ofNat 64 va) size .store with
  | (s1, .perm) => (s1, .perm)
  | (s1, .misalign) => (s1, .misalign)
  | (s1, .page r l) => (s1, .page r l)
  | (s1, .ok t) => let (s2, st) := doStore s1 who t size val 2 0; (s2, if st = stOk then .ok 0 else .st st)

/-- Load `n` pieces of `k` bytes; the first failure ends the load. -/
def vmLoads (s : State) (who : Who) (root va k : Nat) : Nat → State × Vm
  | 0 => (s, .ok 0)
  | n + 1 =>
    match vmLoad s who root va k with
    | (s1, .ok v) =>
      (match vmLoads s1 who root (va + k) k n with
       | (s2, .ok x) => (s2, .ok (v + 2 ^ (8 * k) * x))
       | r => r)
    | r => r

/-- Store `n` pieces of `k` bytes; the first failure ends the store. -/
def vmStores (s : State) (who : Who) (root va k val : Nat) : Nat → State × Vm
  | 0 => (s, .ok 0)
  | n + 1 =>
    match vmStore s who root va k (val % 2 ^ (8 * k)) with
    | (s1, .ok _) => vmStores s1 who root (va + k) k (val / 2 ^ (8 * k)) n
    | r => r

/-- Write a final status into a completion object (R153, R154): bytes 8 to 23 first, then bytes 0 to 7 with release order
at system scope. -/
def writeCplobj (s : State) (who : Who) (root va status throt count : Nat) : State × Vm :=
  let t := (s.timeAt who.site).toNat
  match vmStores s who root (va + 8) 8 (count + t * 2 ^ 64) 2 with
  | (s1, .ok _) => vmStore s1 who root va 8 (status + throt * 2 ^ 32)
  | r => r

/-- The number of a slot state: 0 EMPTY, 1 LIVE, 2 WAIT, 3 HELD (R341). -/
def SlotSt.code : SlotSt → Nat
  | .empty => 0 | .live => 1 | .wait => 2 | .held => 3
/-- The slot state of a number (R341). -/
def SlotSt.ofCode : Nat → SlotSt
  | 0 => .empty | 1 => .live | 2 => .wait | _ => .held
/-- Whether slot 1 is the older of both slots (R233). -/
def LaneCtx.oneOlder (l : LaneCtx) : Bool := decide (l.s1.age < l.s0.age)
/-- Half of TLPC: state and lane PC of a slot (R341). -/
def Path.code (p : Path) : Nat := p.st.code * 2 ^ 30 + p.pc.toNat % 2 ^ 30
/-- Slot 0, or slot 1. -/
def LaneCtx.slot (l : LaneCtx) (one : Bool) : Path := if one then l.s1 else l.s0
/-- Change slot 0 or slot 1. -/
def LaneCtx.setSlot (l : LaneCtx) (one : Bool) (p : Path) : LaneCtx := if one then { l with s1 := p } else { l with s0 := p }

/-- Whether a run of the warp is enqueued or executing: what a draining instruction waits for (R229). -/
def Warp.laneBusy (w : Warp) : Bool := !w.queue.isEmpty || w.running.isSome

/-- The pipe of a slot (R205). -/
def pipeOf (slot : Nat) : Nat := slot % 2
/-- Who holds a pipe of a core. -/
def Core.pipe (c : Core) (p : Nat) : Option Nat := if p = 0 then c.pipe0 else c.pipe1
/-- Change who holds a pipe. -/
def Core.setPipe (c : Core) (p : Nat) (x : Option Nat) : Core := if p = 0 then { c with pipe0 := x } else { c with pipe1 := x }
/-- Free the pipe a warp holds. -/
def freePipe (s : State) (r : WRef) : State :=
  let c := s.core r.site r.core
  let p := pipeOf r.slot
  if c.pipe p = some r.slot then
    let c1 := c.setPipe p none
    let mine (m : Option MatOp) : Option MatOp := match m with | some x => if x.w = r then none else m | none => none
    s.setCore r.site r.core { c1 with matWait0 := mine c1.matWait0, matWait1 := mine c1.matWait1,
                                      matNext0 := mine c1.matNext0, matNext1 := mine c1.matNext1 }
  else s

/-- What a trap reports (R341, R342). -/
structure TrapInfo where
  code : Nat
  detail : Nat
  lane : Bool
  slot1 : Bool
  async : Bool
  fmask : Word
  addr : DWord
  info : List Word
  deriving DecidableEq, Repr

/-- A trap of the scalar stream, or of the warp as a whole. -/
def scalarTrap (code detail : Nat) (addr : DWord) (info : List Word) : TrapInfo :=
  { code := code, detail := detail, lane := false, slot1 := false, async := false, fmask := 0, addr := addr, info := info }

/-- The handler registers a trap writes (R341): the cause, both streams' points, masks, address and TINFO. -/
def writeHandler (w : Warp) (t : TrapInfo) : Warp :=
  let depth := w.lane.stack.length
  { w with
    tcause := BitVec.ofNat 32 (t.detail % 2 ^ 16 * 2 ^ 16 + depth % 64 * 2 ^ 10 + (if t.async then 512 else 0) +
      (if t.slot1 then 256 else 0) + (if t.lane then 128 else 0) + t.code)
    tpc := w.pc
    tlpc := BitVec.ofNat 64 (w.lane.s1.code * 2 ^ 32 + w.lane.s0.code)
    tamask := w.lane.s1.mask ++ w.lane.s0.mask
    tfmask := t.fmask
    taddr := t.addr
    tinfo := (List.range 8).foldl (fun m i => FMap.put 0 m i (t.info.getD i 0)) [] }

/-- The words of the handler registers as the warp header lays them out at 0x260 (R355). -/
def handlerWords (w : Warp) : List Word :=
  [w.tcause, w.tpc, w.tlpc.setWidth 32, (w.tlpc >>> 32).setWidth 32, w.tamask.setWidth 32, (w.tamask >>> 32).setWidth 32,
   w.tfmask, w.taddr.setWidth 32, (w.taddr >>> 32).setWidth 32] ++ (List.range 8).map fun i => FMap.get 0 w.tinfo i

/-- The number a list of words makes, the first lowest. -/
def wordsNat : List Word → Nat
  | [] => 0
  | x :: xs => x.toNat + 2 ^ 32 * wordsNat xs
/-- A word of a number of 32-bit words. -/
def wordOf (v i : Nat) : Word := BitVec.ofNat 32 (v / 2 ^ (32 * i))

/-- The virtual address of the context image of warp `wid` of a team, shadows after the leaders (R274). -/
def imageVa (g : Grid) (t : Team) (wid : Nat) (shadow : Bool) : Nat :=
  g.ctx t.t + 4096 + (if shadow then g.teamSize + wid else wid) * 200704

/-- The place of a block of a warp that its register cache holds (R271, R272). -/
def placeFind (c : Core) (slot block : Nat) : Option (Nat × Place) :=
  c.places.find? fun e => e.2.valid && e.2.slot == slot && e.2.block == block
/-- The contents of a block place as bytes (R273). -/
def placeData (c : Core) (p : Nat) : Nat := readWords c.words (p * 1024) 1024

/-- The size of the pieces a block's image is moved in: a line, or a register where the image is not aligned to lines. -/
def imagePiece (va : Nat) : Nat := if va % 128 = 0 then 128 else 4

/-- Write a dirty resident block back to its warp's context image (R272, R274). -/
def writeBlock (s : State) (site core p : Nat) : State :=
  let c := s.core site core
  match FMap.find c.places p with
  | none => s
  | some x =>
    if !x.valid || !x.dirty then s
    else
      let w := s.warp site core x.slot
      let g := s.gridOf w
      let va := imageVa g (s.team w.team) w.wid w.shadow + 4096 + x.block * 4096
      let s1 := (vmStores s (dieWho site 52 g.sec) g.root va (imagePiece va) (placeData c p) (4096 / imagePiece va)).1
      let c1 := s1.core site core
      s1.setCore site core { c1 with
        places := FMap.set c1.places p { x with dirty := false }, evicts := FMap.set c1.evicts (x.slot * 64 + x.block) (placeData c p) }

/-- Places of the pool that are free: freed places refill the reserve first (R173). -/
def poolFree (c : Core) : Nat := (freePlaces c.places).length - 16

/-- Unpin the blocks of a warp that a mask names; they stay resident (R174, R272). Freed places refill the reserve first,
and a loan ends when the reserve is whole again (R173). -/
def unpin (s : State) (r : WRef) (mask : BitVec 48) : State :=
  let c := s.core r.site r.core
  let one (ps : FMap Place) (e : Nat × Place) : FMap Place :=
    if e.2.slot = r.slot && e.2.pinned && mask.getLsbD e.2.block
    then FMap.set ps e.1 { e.2 with pinned := false, reserve := decide ((freePlaces ps).length < 16) } else ps
  let ps := c.places.foldl one c.places
  let c1 := { c with places := ps, loan := if 16 ≤ (freePlaces ps).length then none else c.loan }
  let s1 := s.setCore r.site r.core c1
  s1.setWref r { s1.wref r with pinned := (s1.wref r).pinned &&& ~~~mask }

/-- The place a new block takes: one never used, else an invalid one, else one whose block is not pinned, the reserve's
last. -/
def choosePlace (c : Core) : Option Nat :=
  let free := freePlaces c.places
  let spare := c.reserveOf
  let state (p : Nat) : Nat :=
    (match FMap.find c.places p with | none => 0 | some x => if x.valid then 1 else 0) + if spare.contains p then 2 else 0
  ([0, 1, 2, 3].findSome? fun k => free.find? fun p => state p == k)

/-- What a block is filled with of an image (R272): words that are not those written back last are undefined, for software has accessed
the context area of a resident team (R2, R274). -/
def fillBlock (s : State) (old : Option Nat) (v : Nat) : State × Nat :=
  let word (o i : Nat) : Word := if wordOf o i == wordOf v i then wordOf v i else BitVec.ofNat 32 (s.any i)
  match old with
  | some o => if o = v then (s, v) else (s.fresh, wordsNat ((List.range 1024).map (word o)))
  | none => (s, v)

/-- Pin one block of a warp (R172, R271, R272): at once where it is resident, else in a place whose block is evicted, with
its image's contents, or zero where `fresh` says so (R163). What cannot be read of the image is a free value. -/
def pinBlock (s : State) (r : WRef) (fresh : Bool) (b : Nat) : State :=
  let w := s.wref r
  if w.pinned.getLsbD b then s
  else
    let w1 := { w with pinned := w.pinned ||| 1 <<< b }
    let c := s.core r.site r.core
    match if fresh then none else placeFind c r.slot b with
    | some (p, x) =>
      (s.setCore r.site r.core { c with places := FMap.set c.places p { x with pinned := true, reserve := false } }).setWref r w1
    | none =>
      match choosePlace c with
      | none => s
      | some p =>
        let s1 := writeBlock s r.site r.core p
        let g := s1.gridOf w
        let va := imageVa g (s1.team w.team) w.wid w.shadow + 4096 + b * 4096
        let (s2, v) := if fresh then (s1, 0) else
          match vmLoads s1 (dieWho r.site 52 g.sec) g.root va (imagePiece va) (4096 / imagePiece va) with
          | (t, .ok v) => fillBlock t (FMap.find (t.core r.site r.core).evicts (r.slot * 64 + b)) v
          | (t, _) => (t.fresh, (List.range 32).foldl (fun n i => n * 2 ^ 1024 + t.any i % 2 ^ 1024) 0)
        let c2 := s2.core r.site r.core
        let x : Place := { valid := true, pinned := true, reserve := false, dirty := fresh, slot := r.slot, block := b }
        (s2.setCore r.site r.core
          { c2 with words := writeWords c2.words (p * 1024) 1024 v, places := FMap.set c2.places p x }).setWref r
            { s2.wref r with pinned := w.pinned ||| 1 <<< b }

/-- A warp leaves the fault records and stalled faults that it waits on (R263, R267). -/
def leaveRecs (s : State) (r : WRef) : State :=
  let d := s.die r.site
  let leave (q : FaultQ) : FaultQ :=
    { q with stalled := q.stalled.filter fun x => x.who != r || x.kd.isSome,
             recs := q.recs.map fun f => { f with waiters := f.waiters.filter fun x => x != r } }
  s.setDie r.site { d with fq0 := leave d.fq0, fq1 := leave d.fq1 }

/-- Pin blocks of a warp one after another. -/
def pinBlocks (s : State) (r : WRef) (fresh : Bool) (bs : List Nat) : State := bs.foldl (fun t b => pinBlock t r fresh b) s

/-- Blocks that a request names and the warp does not hold (R172). -/
def needed (w : Warp) (first count : Nat) : Nat :=
  ((List.range count).filter fun i => !w.pinned.getLsbD (first + i)).length

/-- A warp leaves its slot (R430): its dirty blocks go to its context image, every block is unpinned, it leaves the RBGET
queue and every wait, and its pipe is free. -/
def endWarp (s : State) (r : WRef) : State :=
  let mine := (s.core r.site r.core).places.filter fun e => e.2.slot == r.slot
  let s1 := mine.foldl (fun t e => writeBlock t r.site r.core e.1) s
  let s2 := freePipe (unpin s1 r (BitVec.allOnes 48)) r
  let c := s2.core r.site r.core
  let s3 := s2.setCore r.site r.core
    { c with matWarps := c.matWarps &&& ~~~((1 : BitVec 64) <<< r.slot)
             matGone := if c.matWarps.getLsbD r.slot then c.matGone ++ [(s.team (s.wref r).team).g] else c.matGone
             matQ := c.matQ.map fun x => if x.w = r then { x with alive := false } else x,
             rbWait := c.rbWait.filter fun e => e.1 != r.slot }
  dropAtoms ((leaveRecs s3 r).setWref r Warp.none) r fun _ => true

/-- A warp enters the RBGET queue of its core (R172): in the order of the clock in which each started to wait, lower slot first. -/
def Core.enterRb (c : Core) (slot first count : Nat) : Core :=
  let ahead (e : Nat × Nat × Nat × Nat) : Bool := decide (e.2.2.2 < c.clk) || decide (e.1 < slot)
  { c with rbWait := c.rbWait.takeWhile ahead ++ (slot, first, count, c.clk) :: c.rbWait.dropWhile ahead }
/-- A warp that waits no more leaves the RBGET queue of its core (R173). -/
def leaveRb (s : State) (r : WRef) : State :=
  let c := s.core r.site r.core
  if c.rbWait.any fun e => e.1 == r.slot then s.setCore r.site r.core { c with rbWait := c.rbWait.filter fun e => e.1 != r.slot } else s

/-- Every warp of a team with its slot: leaders, then shadows (R162). -/
def teamWarps (s : State) (t : Team) : List WRef :=
  let sh := if (s.grid t.g).redun = 2 then t.core ^^^ 1 else t.core
  t.slots.map (fun k => { site := t.site, core := t.core, slot := k }) ++ t.shSlots.map fun k => { site := t.site, core := sh, slot := k }

/-- Free the scratchpad allocation of a team (R165, R351). -/
def freeScratch (s : State) (id : Nat) : State :=
  let t := s.team id
  let c := s.core t.site t.core
  s.setCore t.site t.core { c with alloc := c.alloc.filter fun a => a.team != id }

/-- A fatal trap (R340): the handler registers go to the warp header, STATE FATAL and FATALWARP to the team header, every
warp of the team ends, and the grid's status will be FAULT. The THROT counts of the warps join the grid's total
(R221). -/
def fatalTrap (s : State) (r : WRef) : State :=
  let w := s.wref r
  let t := s.team w.team
  let g := s.grid t.g
  let who := dieWho r.site 52 g.sec
  let s1 := (vmStores s who g.root (imageVa g t w.wid w.shadow + 0x260) 4 (wordsNat (handlerWords w)) 17).1
  let s2 := (vmStore s1 who g.root (g.ctx t.t + 4) 2 2).1
  let s3 := (vmStore s2 who g.root (g.ctx t.t + 0x1C) 2 w.wid).1
  let ws := teamWarps s3 t
  let throt := ws.foldl (fun n x => satAdd 32 n (s3.wref x).throt.toNat) g.throt
  let s4 := ws.foldl endWarp s3
  let s5 := freeScratch s4 w.team
  let g5 := s5.grid t.g
  (s5.setTeam w.team { t with fatal := true, slots := [], shSlots := [] }).setGrid t.g { g5 with fault := true, throt := throt }

/-- TAKING A TRAP (R337 to R340), for the warp in a slot. A trap is fatal with the handler flag set, with causes UNCORR
and RLIMIT, and with no vector; otherwise the handler registers are written, the lane state is set aside, the handler flag
is set and the scalar PC becomes the vector. Results still in flight are written back first, the warp waits on no fault record any
more (R267), and the pipe is free. -/
def trapAt (s : State) (r : WRef) (t : TrapInfo) : State :=
  let w := writeHandler { s.wref r with haz := [], park := .none } t
  let tm := s.team w.team
  let w1 := { w with
    aside := some { lane := w.lane, queue := w.queue, running := w.running, resAt := w.resAt }
    resAt := none
    lane := LaneCtx.none
    queue := []
    running := none
    hflag := true
    pc := BitVec.ofNat 32 tm.trapvec }
  if w.hflag || t.code = 9 || t.code = 10 || tm.trapvec = 0 then fatalTrap (s.setWref r w) r
  else freePipe ((leaveRecs (leaveRb s r) r).setWref r w1) r

/-- The words of an instruction as TINFO0 to TINFO2 hold them (R342). -/
def word3 (w : BitVec 96) : List Word := [w.setWidth 32, (w >>> 32).setWidth 32, (w >>> 64).setWidth 32]

/-- The lanes of a restored path less those that have exited; EMPTY when none is left (R343, R327). -/
def restorePath (exited : Word) (p : Path) : Path :=
  let m := p.mask &&& ~~~exited
  if m = 0 || p.st = .empty then Path.none else { p with mask := m }

/-- The path a half of TLPC and of TAMASK describe (R341, R343). -/
def pathOf (half : Nat) (mask : Word) : Path :=
  { st := SlotSt.ofCode (half / 2 ^ 30), pc := BitVec.ofNat 32 (half % 2 ^ 30), mask := mask, cnt := 0, age := 0 }

/-- The top entry of the stack is popped into a slot as LIVE (R237). -/
def LaneCtx.pop (l : LaneCtx) (one : Bool) : LaneCtx :=
  match l.stack with
  | x :: rest =>
    { l.setSlot one { st := .live, pc := x.pc, mask := x.mask, cnt := x.cnt, age := x.age } with stack := rest }
  | [] => l
/-- Two slots that both WAIT at different PCs: the one at the lower PC goes on (R237). -/
def bothWait (l : LaneCtx) : LaneCtx :=
  if l.s0.st == .wait && l.s1.st == .wait && l.s0.pc != l.s1.pc then
    let one := l.s1.pc.ult l.s0.pc
    let p := l.slot one
    l.setSlot one { p with st := .live, pc := p.pc + 1 }
  else l
/-- A slot becomes EMPTY because all its lanes have exited (R237, R238). -/
def emptySlot (l : LaneCtx) (one : Bool) : LaneCtx :=
  let l1 := l.setSlot one Path.none
  let o := l.slot (!one)
  if !l.stack.isEmpty then l1.pop one
  else if o.st == .wait then l1.setSlot (!one) { o with st := .live, pc := o.pc + 1 }
  else l1

/-- Lane state without the lanes that have exited (R238, R327, R343): an empty stack entry is dropped. -/
def restoreCtx (exited : Word) (l : LaneCtx) : LaneCtx :=
  { l with s0 := restorePath exited l.s0, s1 := restorePath exited l.s1,
           stack := (l.stack.map fun e => { e with mask := e.mask &&& ~~~exited }).filter fun e => e.mask != 0 }
/-- Lane state that a handler returns to (R237, R238, R343): without the lanes that have exited, and with what follows for a slot
that is EMPTY because all its lanes have. -/
def returnCtx (exited : Word) (l : LaneCtx) : LaneCtx :=
  let gone (p : Path) : Bool := p.st != .empty && (p.mask &&& ~~~exited) == 0
  let l0 := restoreCtx exited l
  let l1 := if gone l.s0 then emptySlot l0 false else l0
  bothWait (if gone l.s1 then emptySlot l1 true else l1)

/-- RETURN FROM A TRAP (R343): the streams resume from TPC, TLPC and TAMASK, what was set aside is restored and the
handler flag is cleared. A restored LIVE slot makes the interrupted run start again with a count of 0. -/
def eretWarp (w : Warp) : Warp :=
  let a := match w.aside with | some a => a | none => { lane := LaneCtx.none, queue := [], running := none, resAt := none }
  let p0 := pathOf (w.tlpc.toNat % 2 ^ 32) (w.tamask.setWidth 32)
  let p1 := pathOf (w.tlpc.toNat / 2 ^ 32) ((w.tamask >>> 32).setWidth 32)
  let l := returnCtx w.exited { a.lane with s0 := { p0 with age := a.lane.s0.age }, s1 := { p1 with age := a.lane.s1.age } }
  let live := l.s0.st = .live || l.s1.st = .live
  let ent : RunEnt := match a.running with | some e => e | none => { resume := true, pc := 0, caps := w.s, enq := w.tpc }
  { w with
    pc := w.tpc
    lane := l
    queue := a.queue
    running := if live then some ent else none
    aside := none
    resAt := if a.resAt = some w.tpc then a.resAt else none
    hflag := false }

/-- Where a record stands in time: tags count up, so the operation farther below the next tag is the older one. -/
def tagAge (w : Warp) (tag : BitVec 16) : Nat := (w.tag - tag).toNat

/-- Insert a record in tag order (R345). -/
def insertRec (w : Warp) (x : AsyncRec) : List AsyncRec → List AsyncRec
  | [] => [x]
  | y :: l => if tagAge w y.tag < tagAge w x.tag then x :: y :: l else y :: insertRec w x l

/-- A failing operation makes a record, or is counted into the newest of 16 (R345). -/
def addRec (w : Warp) (x : AsyncRec) : Warp :=
  if w.recs.length < 16 then { w with recs := insertRec w x w.recs }
  else
    match w.recs.reverse with
    | [] => w
    | y :: l => { w with recs := (({ y with extra := y.extra + 1 } : AsyncRec) :: l).reverse }

/-- The trap a record raises (R344): TINFO1[7:0] counts the failures still to be reported after it. -/
def recTrap (recs : List AsyncRec) (x : AsyncRec) : TrapInfo :=
  let behind := recs.length - 1 + recs.foldl (fun n y => n + y.extra) 0
  let i1 := (x.tinfo.getD 1 0).toNat / 256 * 256 + min behind 255
  { code := x.cause.toNat % 128, detail := x.cause.toNat / 2 ^ 16, lane := x.cause.getLsbD 7, slot1 := x.cause.getLsbD 8,
    async := true, fmask := x.tfmask, addr := x.taddr,
    info := [x.tinfo.getD 0 0, BitVec.ofNat 32 i1] ++ x.tinfo.drop 2 }

/-- The trap a latched guard fault raises (R277, R342). -/
def guardTrap (g : GuardLatch) : TrapInfo :=
  { scalarTrap 7 0 0 [BitVec.ofNat 32 g.off.toNat, BitVec.ofNat 32 (g.count * 256 + g.bank.toNat)] with async := true }

/-- What a reporting point raises (R345): the oldest pending record of `path` (of any path where it is none), or the
latched guard fault where the point reports it and no record is older. Answers the warp without what is reported. -/
def report (w : Warp) (path : Option Nat) (guard : Bool) : Option (Warp × TrapInfo) :=
  let fit := w.recs.filter fun x => match path with | some p => x.path == p | none => true
  let rest (x : AsyncRec) : Warp :=
    let l := w.recs.filter fun y => y != x
    { w with recs := if x.extra = 0 then l else match l with | [] => [] | y :: z => { y with extra := y.extra + x.extra } :: z }
  match (if guard then w.guard else none), fit with
  | some g, [] => some ({ w with guard := none }, guardTrap g)
  | some g, x :: _ =>
    if tagAge w g.tag < tagAge w x.tag then some (rest x, recTrap w.recs x)
    else some ({ w with guard := none }, guardTrap g)
  | none, x :: _ => some (rest x, recTrap w.recs x)
  | none, [] => none

/-- The counter of a path (R249): 0 LOAD, 1 STORE, 2 FEED, 3 COPY. -/
def Warp.count (w : Warp) (path : Nat) : Nat := FMap.get 0 w.cnt path
/-- Whether an operation of a path can issue: its counter is below 255 and fewer than 16 records are pending (R250,
R345). -/
def Warp.canIssue (w : Warp) (path : Nat) : Bool := decide (w.count path < 255) && decide (w.recs.length < 16)
/-- Enter an asynchronous operation: its counter rises, and it takes the next tag (R249, R344). -/
def Warp.enter (w : Warp) (o : AsyncOp) : Warp :=
  { w with cnt := FMap.put 0 w.cnt o.path (w.count o.path + 1), ops := w.ops ++ [{ o with tag := w.tag }], tag := w.tag + 1 }

/-- Park a warp on the fault records of an access (R263): each faulting page is reported in the order given, with its
address, reason, level and lanes. -/
def parkFault (s : State) (r : WRef) (lane : Option Bool) (faults : List (Nat × Nat × Nat × Word)) (flags : Nat) : State :=
  let g := s.gridOf (s.wref r)
  let (s1, waits, stalled) := faults.foldl (fun (acc : State × List (Nat × Word × DWord) × Bool) f =>
    match reportFault acc.1 r.site g.sec f.1 g.root f.2.1 f.2.2.1 flags r.core r f.2.2.2 with
    | (t, some n) => (t, acc.2.1 ++ [(n, f.2.2.2, BitVec.ofNat 64 f.1)], acc.2.2)
    | (t, none) => (t, acc.2.1, true)) (s, [], false)
  s1.setWref r { s1.wref r with park := .fault waits stalled lane, parkAt := (s1.core r.site r.core).clk, parkPast := 0 }

/-- The leading or only warp of a unit (R334). -/
def leadOf (s : State) (r : WRef) : WRef :=
  match (s.wref r).mate with
  | some m => if (s.wref r).shadow then m else r
  | none => r

/-- What a warp consumes that restarts it: where the error lies, the unit that restarts (0 warp or pair, 1 pipe, 2 core) and the PC of
the consuming or mismatching instruction, as RASREC gives them (R334). -/
structure Cause where
  wher : Nat
  unit : Nat
  pc : Nat
  deriving DecidableEq, Repr

/-- Log an event of a warp with its cause (R334): a shadow's slot is that of its leader. -/
def causeLog (s : State) (r : WRef) (kind : Nat) (x : Cause) : State :=
  rasLog s r.site kind x.wher r.core (leadOf s r).slot x.unit x.pc 0
/-- A machine-check trap: its count, its record, the trap (R326, R328, R334, R339). -/
def machineCheck (s : State) (r : WRef) (code : Nat) (x : Cause) : State :=
  trapAt (causeLog (s.bumpReg (rascntA r.site) 15 0 1) r 4 x) r (scalarTrap code 0 0 [])

/-- The operations of a warp that a restart discards (R327): those of the LOAD path, what the SSCB holds, and of a NEAR pair's
trailing warp the FEEDs that its leader has not handed over (R507). -/
def discarded (s : State) (w : Warp) : List AsyncOp :=
  let own := w.ops.filter fun o => o.path == 0 || o.held
  match w.shadow && (s.gridOf w).redun == 1, w.mate with
  | true, some m =>
    let handed : List AsyncOp := (s.wref m).ops.filter fun o => o.path == 2 && !o.held
    own ++ (w.ops.filter fun o => o.path == 2).drop handed.length
  | _, _ => own

/-- A warp restarts its region, or traps: UNCORR outside a region, RLIMIT at the fourth restart (R326, R327, R328). Of the events of
one clk the first restarts it, and the widest is what the record holds (R328). What the loads of the region named stays undefined
until an SWAIT counts them (R464). -/
def restartWarp (s : State) (r : WRef) (x : Cause) : State :=
  let w := s.wref r
  let clk := (s.core r.site r.core).clk
  if !w.resident then s
  else if w.restAt = some clk then (if x.unit = 0 then s else causeLog s r 3 x)
  else if !w.inRgn then machineCheck s r 9 x
  else if 3 ≤ w.restarts then machineCheck s r 10 x
  else
    let gone := discarded s w
    let kept := w.ops.filter fun o => !gone.contains o
    let cnt := gone.foldl (fun m o => FMap.put 0 m o.path (FMap.get 0 m o.path - 1)) w.cnt
    let w1 := { w with
      pc := w.snapPc, lane := returnCtx w.exited w.snap, queue := [], running := none, haz := [], tWr := 0,
      ops := kept, cnt := cnt, resAt := none, lvq := [], sscb := [], sigs := [], trace := [], clks := [], nS := 0, nL := 0, leadS := 0,
      leadL := 0, signed := false, binWait := none, restarts := w.restarts + 1, park := .none, restAt := some clk }
    let keep (e : EngOp) : Bool := !(e.held && e.w == r)
    let c := s.core r.site r.core
    let d := s.die r.site
    let s0 := (s.setCore r.site r.core { c with feeds := c.feeds.filter keep }).setDie r.site { d with copies := d.copies.filter keep }
    let s1 := dropAtoms (freePipe ((leaveRecs (leaveRb s0 r) r).setWref r w1) r) r fun tag => gone.any fun o => o.tag == tag
    causeLog (s1.bumpReg (rascntA r.site) 31 16 1) r 3 x

/-- The unit that an event consumed by a warp restarts (R326): the warp with its partner. -/
def restartUnit (s : State) (r : WRef) (x : Cause) : State :=
  match (s.wref r).mate with
  | some m => let (a, b) := if (s.wref r).shadow then (r, m) else (m, r); restartWarp (restartWarp s a x) b x
  | none => restartWarp s r x

/-- A warp consumes an uncorrectable error in returned data or a POISON completion (R330, R331): it is counted and logged where the
warp runs, as found in HBM (log 20), and the unit restarts. -/
def consume (s : State) (r : WRef) (pc addr : Nat) : State :=
  restartUnit (rasLog (s.bumpReg (rascntA r.site) 47 32 1) r.site 1 10 r.core (leadOf s r).slot 0 pc addr) r
    { wher := 10, unit := 0, pc := pc }

/-- A shadow mismatch of a warp (R322, R326) at an instruction: the pair restarts, or the warp alone under MIRROR; it
is logged at the leading core (R334). -/
def mismatch (s : State) (r : WRef) (pc : Nat) : State :=
  let lead := leadOf s r
  restartUnit (rasLog s lead.site 2 13 lead.core lead.slot 0 pc 0) r { wher := 13, unit := 0, pc := pc }

/-- A list in the order of a key; what has the same key keeps its order. -/
def orderBy {α : Type} (k : α → Nat) (l : List α) : List α :=
  l.foldl (fun acc x => acc.takeWhile (fun y => decide (k y ≤ k x)) ++ x :: acc.dropWhile fun y => decide (k y ≤ k x)) []

/-- A field of a packet header (R46). -/
def hdrF (h : BitVec 128) (hi lo : Nat) : Nat := h.toNat / 2 ^ lo % 2 ^ (hi + 1 - lo)
/-- PAR of a header: bit i is the even parity of header bits 15i + 8 to 15i + 22 (R46). -/
def hdrPar (h : BitVec 128) : Nat :=
  (List.range 8).foldl (fun v i =>
    v + (if (List.range 15).foldl (fun b j => b != h.getLsbD (15 * i + 8 + j)) false then 2 ^ i else 0)) 0
/-- A header with its parity (R46). -/
def withPar (v : Nat) : BitVec 128 :=
  let h := BitVec.ofNat 128 (v / 256 * 256)
  BitVec.ofNat 128 (h.toNat + hdrPar h)
/-- A header from its fields (R46). The spec gives no KIND codes and no ADDR for packets that carry no request: KIND is 0 in a
completion, 31 in a drain marker, and 2 in its acknowledgement, whose ADDR names the class (log 20). -/
def mkHdr (dest src core cls gen kind len seq lwm addr status : Nat) : BitVec 128 :=
  withPar (dest % 64 * 2 ^ 122 + src % 64 * 2 ^ 116 + core % 64 * 2 ^ 110 + cls % 8 * 2 ^ 107 + gen % 2 * 2 ^ 106 + kind % 64 * 2 ^ 100 +
    len % 16 * 2 ^ 96 + seq % 4096 * 2 ^ 84 + lwm % 4096 * 2 ^ 72 + addr % 2 ^ 48 * 2 ^ 24 + status % 2 ^ 16 * 256)
/-- The generation a source gives its new packets (R64). -/
def genOf (s : State) (src : Nat) : Nat := if s.gens.getLsbD src then 1 else 0
/-- A packet leaves for a router. -/
def sendMsg (s : State) (m : MeshMsg) : State := { s with mesh := s.mesh ++ [m] }

end Sys2Proof.Machine
end

