-- ==== Sys2Proof/Machine/Pair.lean ====
section
/-! DEFINITION. What an instruction does at its end and at a trap, alone or in a pair: the load value queue, the signatures
that the store signature compare buffer holds, the issue trace and the check entries (R252, R311 to R319), then the waits
and reporting points of the streams (R226, R229, R345). -/
namespace Sys2Proof.Machine

/-- What a warp is to its pair (R311): alone, the leader of the trailing warp named, or the trailing warp of the leader
named. -/
inductive Role where
  | alone
  | lead (sh : WRef)
  | trail (ld : WRef)
  deriving DecidableEq, Repr

/-- The role of a warp. -/
def roleOf (w : Warp) : Role :=
  match w.mate with
  | none => .alone
  | some m => if w.shadow then .trail m else .lead m
/-- The role of the warp whose instruction is being executed. -/
def State.role (s : State) : Role := roleOf s.curW

/-- One step of the CRC-64 of R316 for one bit. -/
def crcBit (crc : BitVec 64) (bit : Bool) : BitVec 64 :=
  if crc.getLsbD 63 != bit then (crc <<< 1) ^^^ 0x42F0E1EBA9EA3693 else crc <<< 1
/-- The CRC-64 with the ECMA-182 polynomial, unreflected, with initial value and final XOR all ones (R316). -/
def crc64 (bytes : List Byte) : BitVec 64 :=
  ~~~(bytes.foldl (fun c b => [7, 6, 5, 4, 3, 2, 1, 0].foldl (fun c i => crcBit c (b.getLsbD i)) c) (BitVec.allOnes 64))

/-- The signature of an operation: address, data and byte mask of each lane, then the instruction word (R316). -/
def signature (lanes : List (Nat × Nat × Nat)) (word : List Byte) : BitVec 64 :=
  crc64 (lanes.foldr (fun x l => leBytes 8 x.1 ++ leBytes 32 x.2.1 ++ leBytes 4 x.2.2 ++ l) word)

/-- The words a check of the lane state covers: both slots' PC, mask and state, and the depth of the stack (R317). -/
def laneSig (l : LaneCtx) : BitVec 64 :=
  let p (x : Path) : List Byte := leBytes 4 x.pc.toNat ++ leBytes 4 x.mask.toNat ++ leBytes 1 x.st.code
  crc64 (p l.s0 ++ p l.s1 ++ leBytes 1 l.stack.length)

/-- An instruction that waits issues again later; nothing has happened yet (R226). -/
def State.wait (s : State) : Out := .next s

/-- The pair counts the instruction that has issued in a stream. -/
def State.counted (s : State) (lane : Bool) : State :=
  match s.role with
  | .alone => s
  | .lead sh =>
    let w := s.wref sh
    s.setWref sh (if lane then { w with leadL := w.leadL + 1 } else { w with leadS := w.leadS + 1 })
  | .trail _ =>
    let w := s.curW
    s.setW (if lane then { w with nL := w.nL + 1 } else { w with nS := w.nS + 1 })

/-- The team of a warp whose instruction has issued has started (R166). -/
def noteStarted (s : State) (id : Nat) : State :=
  match FMap.find s.hub.teams id with
  | some x => if x.issued then s else s.setTeam id { x with issued := true }
  | none => s

/-- A scalar instruction ends: its warp becomes `w` and goes on to the next word. -/
def State.retire (s : State) (w : Warp) : Out := .next ((s.setW w.step).counted false)
/-- A scalar instruction ends by transferring control to a scalar PC. -/
def State.jump (s : State) (w : Warp) (pc : Word) : Out := .next ((s.setW { w with pc := pc, park := .none }).counted false)

/-- The LVQ of the pair gets entries (R314). -/
def pushLvq (s : State) (sh : WRef) (es : List LvqEnt) : State :=
  let w := s.wref sh
  s.setWref sh { w with lvq := w.lvq ++ es }
/-- Whether the LVQ has room for `n` more entries (R318). -/
def lvqRoom (s : State) (sh : WRef) (n : Nat) : Bool := decide ((s.wref sh).lvq.length + n ≤ 256)
/-- An entry that holds a value, or a value to check. -/
def lvqVal (lane check : Bool) (v : Nat) : LvqEnt :=
  { lane := lane, check := check, val := BitVec.ofNat 1024 v, ready := true, tag := 0, trap := false, nS := 0, nL := 0 }
/-- The oldest entry of a stream's tag, and the queue without it: none where the leader trapped at that point (R317). -/
def takeLvq (lane : Bool) : List LvqEnt → Option (LvqEnt × List LvqEnt)
  | [] => none
  | e :: l => if e.lane = lane then (if e.trap then none else some (e, l)) else (takeLvq lane l).map fun x => (x.1, e :: x.2)
/-- The `n` oldest entries of a stream's tag. -/
def takeLvqs (lane : Bool) : Nat → List LvqEnt → Option (List LvqEnt × List LvqEnt)
  | 0, l => some ([], l)
  | n + 1, l =>
    match takeLvq lane l with
    | none => none
    | some (e, l1) => (takeLvqs lane n l1).map fun x => (e :: x.1, x.2)

/-- A check of a pair (R317): the leader puts the value into the LVQ, the trailing warp compares its own; `pc` is the
instruction's PC. -/
def State.checked (s : State) (lane : Bool) (v : Nat) (pc : Nat) (k : State → Out) : Out :=
  match s.role with
  | .alone => k s
  | .lead sh => if lvqRoom s sh 1 then k (pushLvq s sh [lvqVal lane true v]) else s.wait
  | .trail _ =>
    match takeLvq lane s.curW.lvq with
    | none => s.wait
    | some (e, l) =>
      if e.check && e.val == BitVec.ofNat 1024 v then k (s.setW { s.curW with lvq := l })
      else .next (mismatch s s.curRef pc)

/-- A scalar value from outside the pair (R314): the leader, or a warp alone, computes it with `own`; the trailing warp
takes it from the LVQ. -/
def State.outside (s : State) (v : Nat) (k : State → Nat → Out) : Out :=
  match s.role with
  | .alone => k s v
  | .lead sh => if lvqRoom s sh 1 then k (pushLvq s sh [lvqVal false false v]) v else s.wait
  | .trail _ =>
    match takeLvq false s.curW.lvq with
    | none => s.wait
    | some (e, l) =>
      if e.check then .next (mismatch s s.curRef s.curW.pc.toNat)
      else k (s.setW { s.curW with lvq := l }) e.val.toNat

/-- The words that carry a trap through the LVQ: TCAUSE, what else the handler registers take, and the trapping PCs (R317). -/
def trapWords (w : Warp) (t : TrapInfo) : List Word :=
  [(writeHandler w t).tcause, t.fmask, t.addr.setWidth 32, (t.addr >>> 32).setWidth 32,
   w.pc, w.lane.s0.pc, w.lane.s1.pc] ++ (List.range 8).map fun i => t.info.getD i 0
/-- The trap that such words carry. -/
def wordsTrap (v : Nat) : TrapInfo :=
  let c := wordOf v 0
  { code := c.toNat % 128, detail := c.toNat / 2 ^ 16, lane := c.getLsbD 7, slot1 := c.getLsbD 8, async := c.getLsbD 9,
    fmask := wordOf v 1, addr := wordOf v 3 ++ wordOf v 2, info := (List.range 8).map fun i => wordOf v (7 + i) }

/-- Whether both lane PC slots are LIVE. -/
def LaneCtx.both (l : LaneCtx) : Bool := l.s0.st == .live && l.s1.st == .live

/-- The issue trace takes the slot of a lane instruction that the leader issues while both slots are LIVE, and the
trailing warp takes it out (R315). -/
def State.traced (s : State) : State :=
  match s.cur.lane with
  | none => s
  | some one =>
    if !s.curW.lane.both then s
    else
      match s.role with
      | .alone => s
      | .lead sh => let w := s.wref sh; s.setWref sh { w with trace := w.trace ++ [one] }
      | .trail _ => s.setW { s.curW with trace := s.curW.trace.drop 1 }

/-- The check entry of a trap that the leader took where the trailing warp `w` now stands (R317). -/
def trapHere (w : Warp) : Option LvqEnt := w.lvq.find? fun e => e.trap && e.nS == w.nS && e.nL == w.nL

/-- Whether the leader has taken a trap that its trailing warp `w` must still reach in one stream only. -/
def trapAhead (w : Warp) (lane : Bool) : Bool :=
  w.lvq.any fun e => e.trap && (if lane then e.nL == w.nL else e.nS == w.nS)

/-- The trailing warp takes its leader's trap at the same instruction (R317). Its own TCAUSE is that of the trap it raises itself,
`own`, or where only the leader's access could raise it, the leader's with its own stack depth; a difference between both TCAUSEs or
PCs is a mismatch. Its region ends where the trap is that of a TRAP (R324). -/
def takeTrap (s : State) (r : WRef) (own : Option TrapInfo) (e : LvqEnt) : State :=
  let w := s.wref r
  let t := wordsTrap e.val.toNat
  let mine := (writeHandler w (match own with | some x => x | none => t)).tcause
  let same := wordOf e.val.toNat 0 == mine && wordOf e.val.toNat 4 == w.pc && wordOf e.val.toNat 5 == w.lane.s0.pc &&
    wordOf e.val.toNat 6 == w.lane.s1.pc
  let path := (t.info.getD 1 0).toNat / 256 % 8
  let recs := match w.recs with | x :: l => if t.async && t.code != 7 && x.path == path then l else w.recs | [] => []
  let bits := if e.lane && w.lane.both then w.trace.drop 1 else w.trace
  if same then
    trapAt (s.setWref r { w with lvq := w.lvq.filter fun x => x != e, recs := recs, trace := bits, inRgn := w.inRgn && t.code != 13 }) r t
  else mismatch s r w.pc.toNat

/-- A trap of the instruction being executed (R337 to R340). In a pair it is a check entry of the LVQ; the trailing warp takes its
leader's, and one that it alone takes is a mismatch (R317, R326). -/
def State.trap (s : State) (t : TrapInfo) : Out :=
  match s.role with
  | .alone => .next (trapAt s s.curRef t)
  | .lead sh =>
    let x := s.wref sh
    let e : LvqEnt :=
      { lane := s.cur.lane.isSome, check := true, val := BitVec.ofNat 1024 (wordsNat (trapWords s.curW t)), ready := true,
        tag := 0, trap := true, nS := x.leadS, nL := x.leadL }
    .next (trapAt (pushLvq s.traced sh [e]) s.curRef t)
  | .trail _ =>
    match trapHere s.curW with
    | some e => .next (takeTrap s s.curRef (some t) e)
    | none => .next (mismatch s s.curRef (match s.cur.lane with | none => s.curW.pc.toNat | some one => (s.curW.lane.slot one).pc.toNat))

/-- ILLEGAL for the instruction being executed (R336, R342), with the words of TINFO. -/
def State.illegal (s : State) (info : List Word) : Out :=
  match s.cur.lane with
  | none => s.trap (scalarTrap 1 0 0 info)
  | some one => s.trap { scalarTrap 1 0 0 info with lane := true, slot1 := one }

/-- A reporting point of the instruction being executed: the trap of what is pending, or the instruction itself (R345). -/
def State.reporting (s : State) (path : Option Nat) (guard : Bool) (k : Out) : Out :=
  match report s.curW path guard with
  | some (w, t) => (s.setW w).trap t
  | none => k

/-- A draining instruction stands where every operation so far is ordered before it (R229, R290). -/
def Warp.drain (w : Warp) : Warp := { w with drainAt := w.tag }
/-- An instruction that drains the lane stream waits until no run is enqueued or executing (R229). -/
def State.drained (s : State) (k : State → Out) : Out := if s.curW.laneBusy then s.wait else k (s.setW s.curW.drain)

/-- Whether an operation of the STORE path has not been performed yet: one that the SSCB holds (R316), or an ACCST that the matrix
unit has still to reach (R493). -/
def AsyncOp.unwritten (o : AsyncOp) : Bool := o.held || (o.op == 6 && o.path == 1)
/-- Whether a draining release of the warp has a write to wait for (R290, R297). -/
def Warp.owes (w : Warp) : Bool := w.ops.any AsyncOp.unwritten
/-- Whether a scalar release that does not drain has one: of a run that a draining instruction has ended (R290). -/
def Warp.owesEnded (w : Warp) : Bool := w.ops.any fun o => o.unwritten && o.isLane && decide (tagAge w w.drainAt < tagAge w o.tag)
/-- Whether a release of some lanes has one: an ACCST of such a lane; what the SSCB holds leaves it in order (R290, R297, R316). -/
def Warp.owesLanes (w : Warp) (lanes : Word) : Bool :=
  w.ops.any fun o => o.op == 6 && o.path == 1 && o.res.any fun x => lanes.getLsbD x.lane
/-- Whether two accesses have a byte in common. -/
def LaneRes.meets (x y : LaneRes) : Bool :=
  x.tr.kind == y.tr.kind && decide (x.tr.pa < y.tr.pa + y.size) && decide (y.tr.pa < x.tr.pa + x.size)
/-- Whether an access must wait for a write of its own thread to the same bytes that has not been performed (R288). -/
def Warp.behindOwn (w : Warp) (lane : Bool) (l : List LaneRes) : Bool :=
  w.ops.any fun o => o.unwritten && o.isLane == lane && o.res.any fun x => l.any fun y => (!lane || x.lane == y.lane) && x.meets y

/-- Whether the leader has issued the instruction that its trailing warp `w` has next in a stream, or has begun it: it waits
for the trailing warp's signature, or has enqueued its resume entry and drains (R316, R318, R418). -/
def State.behind (s : State) (w : Warp) (lane : Bool) : Bool :=
  if lane then decide (w.nL < w.leadL)
  else
    let begun := match roleOf w with
      | .trail ld => let x := s.wref ld; w.sscb.any (fun e => e.path == 4) || (x.resAt == some x.pc && w.resAt.isNone)
      | _ => false
    decide (w.nS < w.leadS) || (w.nS == w.leadS && begun)

/-- Whether a warp of a pair may issue its next instruction of a stream (R318): the leader while the LVQ has a place for
what the instruction may put there and, with both slots LIVE, the trace has a bit free; the trailing warp behind its
leader, and with both slots LIVE in the slot that the trace names. -/
def State.pairReady (s : State) : Bool :=
  let w := s.curW
  let both := s.cur.lane.isSome && w.lane.both
  match s.role with
  | .alone => true
  | .lead sh => lvqRoom s sh 1 && (!both || decide ((s.wref sh).trace.length < 64))
  | .trail _ =>
    s.behind w s.cur.lane.isSome && !trapAhead w s.cur.lane.isSome &&
      (!both || w.trace.head? == s.cur.lane)

/-- A region ends (R324). -/
def Warp.leave (w : Warp) : Warp := { w with inRgn := false }
/-- A trailing warp's region has ended where its leader's has: an access that ends it is performed by the leader (R324). -/
def State.follow (s : State) (w : Warp) : Warp :=
  match roleOf w with
  | .trail ld => if (s.wref ld).inRgn then w else w.leave
  | _ => w
/-- The region of a warp's trailing warp ends with its own (R323, R324). -/
def leaveMate (s : State) (r : WRef) : State :=
  match roleOf (s.wref r) with
  | .lead sh => s.setWref sh (s.wref sh).leave
  | _ => s

/-- Hold an operation of the leader in the SSCB (R316); the caller has seen that a place is free. -/
def pushSscb (s : State) (sh : WRef) (e : SscbEnt) : State :=
  let w := s.wref sh
  s.setWref sh { w with sscb := w.sscb ++ [e] }
/-- Whether the SSCB has a place free (R318). -/
def sscbRoom (s : State) (sh : WRef) : Bool := decide ((s.wref sh).sscb.length < 32)
/-- The trailing warp gives the signature of its matching operation. -/
def State.giveSig (s : State) (lane : Bool) (sig : BitVec 64) : State :=
  s.setW { s.curW with sigs := s.curW.sigs ++ [(lane, some sig)] }

/-- The scalar registers an instruction reads, as R316 lays them out for an operation that has no lane data: in ascending register
number, 4 bytes each, at most 32 bytes. -/
def regSig (w : Warp) (regs : List (BitVec 6)) (i : Instr) : BitVec 64 :=
  let up := ((List.range 64).map (BitVec.ofNat 6)).filter fun k => regs.contains k
  signature [(0, wordsNat ((up.map w.rd).take 8), 0)] (leBytes 4 (encodeScalar i).toNat)

/-- A scalar operation that acts outside the pair and waits for its match before it acts (R316, R318): a warp alone acts;
the leader enters it in the SSCB and acts once it is matched, which ends the region of both (R324); the trailing warp gives its
signature and goes on. -/
def State.matched (s : State) (regs : List (BitVec 6)) (i : Instr) (act : State → Out) (trail : State → Out) : Out :=
  match s.role with
  | .alone => act s
  | .lead sh =>
    let x := s.wref sh
    match x.sscb.find? fun e => e.path == 4 with
    | some e =>
      if e.matched && x.sscb.find? (fun e => !e.lane) == some e
      then act (s.setWref sh { x.leave with sscb := x.sscb.filter fun y => y != e }) else s.wait
    | none =>
      if sscbRoom s sh then
        .next (pushSscb s sh { lane := false, sig := regSig s.curW regs i, ins := i, pc := s.curW.pc, tag := 0, path := 4,
                               ready := true, matched := false })
      else s.wait
  | .trail _ => trail (s.giveSig false (regSig s.curW regs i))

/-- The words of TINFO0 to TINFO2 for a scalar instruction (R342). -/
def scalarInfo (i : Instr) : List Word := [encodeScalar i]
/-- The words of TINFO0 to TINFO2 for a lane instruction (R342). -/
def laneInfo (i : Instr) : List Word := word3 (encodeLane i)

end Sys2Proof.Machine
end

