-- ==== Sys2Proof/Machine/Operands.lean ====
section
/-! DEFINITION. The operands of a lane instruction (R384 to R389): active lanes, vector registers through the register
cache, temporaries, special sources, captured scalars, predicates and what a read before its time gives (R213, R231,
R464); the writes of results; and the end of a lane instruction in its path (R230, R232). -/
namespace Sys2Proof.Machine

/-- What a lane instruction sees at issue: its warp and slot, its path, its active lanes, the warp whose identifiers it
reads, and the core clock that warp saw. -/
structure LaneEnv where
  r : WRef
  one : Bool
  w : Warp
  path : Path
  act : Word
  lead : WRef
  clk : Word
  deriving DecidableEq, Repr

/-- The lanes in which register or predicate `n` is not written back yet (R213, R464). -/
def lateMask (w : Warp) (pred : Bool) (n : Nat) : Word :=
  let m := w.haz.foldl (fun (x : Word) h => if h.pred == pred && h.num == n && decide (0 < h.left) then x ||| h.mask else x) 0
  if pred then m
  else w.ldHaz.foldl (fun (x : Word) h => if decide (h.num ≤ n) && decide (n < h.num + h.n) then x ||| h.mask else x) m

/-- The lanes in which predicate `p` holds; a lane whose bit is not written back yet reads a free value. -/
def predMask (s : State) (w : Warp) (p : Nat) : Word :=
  let late := lateMask w true p
  (FMap.get 0 w.p p &&& ~~~late) ||| (BitVec.ofNat 32 (s.any (2000000 + p)) &&& late)

/-- The active lanes of a path under a predicate field (R385). -/
def activeMask (s : State) (w : Warp) (path : Path) (h : Hdr) : Word :=
  if (h.pred.extractLsb' 0 3) = 7 then path.mask
  else
    let m := predMask s w (h.pred.extractLsb' 0 3).toNat
    path.mask &&& (if h.pred.getLsbD 3 then ~~~m else m)

/-- What the lane instruction being executed sees. -/
def State.laneEnv (s : State) (h : Hdr) : LaneEnv :=
  let one := match s.cur.lane with | some b => b | none => false
  let w := s.curW
  let path := w.lane.slot one
  let clk := match roleOf w, w.clks with | .trail _, c :: _ => c | _, _ => BitVec.ofNat 32 s.curCore.clk
  { r := s.curRef, one := one, w := w, path := path, act := activeMask s w path h,
    lead := match roleOf w with | .trail m => m | _ => s.curRef, clk := clk }

/-- The scratchpad base of a team (R275). -/
def State.scrBase (s : State) (t : Team) : DWord :=
  s.reg (ctlAddr t.site t.core 0x20) + BitVec.ofNat 64 (0x100000 + 1024 * t.gran)

/-- A special source in a lane (R388). -/
def special (s : State) (e : LaneEnv) (n l : Nat) : Word :=
  let g := s.gridOf e.w
  let t := s.team e.w.team
  let i := if g.mirror then l % 16 else l
  match n with
  | 1553 => BitVec.ofNat 32 i
  | 1554 => BitVec.ofNat 32 e.w.wid
  | 1555 => BitVec.ofNat 32 (g.coords t.t).1
  | 1556 => BitVec.ofNat 32 (g.coords t.t).2.1
  | 1557 => BitVec.ofNat 32 (g.coords t.t).2.2
  | 1558 => BitVec.ofNat 32 t.t
  | 1559 => BitVec.ofNat 32 g.teamSize
  | 1560 => BitVec.ofNat 32 (2 ^ i - 1)
  | 1561 => e.act
  | 1562 => (s.scrBase t).setWidth 32
  | 1563 => ((s.scrBase t) >>> 32).setWidth 32
  | 1564 => BitVec.ofNat 32 (s.passes e.lead.site e.lead.core (pipeOf e.lead.slot))
  | 1565 => e.clk
  | _ => 0

/-- The word of core storage that holds register `n` of lane `l` of a warp slot: the place of its block, in the layout of
R271. -/
def vaddr (c : Core) (slot n l : Nat) : Option Nat :=
  (placeFind c slot (n / 32)).map fun x => x.1 * 1024 + n % 32 * 32 + l
/-- Register `n` of lane `l` of a warp slot. -/
def vreg (s : State) (r : WRef) (n l : Nat) : Word :=
  match vaddr (s.core r.site r.core) r.slot n l with
  | some a => FMap.get 0 (s.core r.site r.core).words a
  | none => 0
/-- Write a register of a lane; its block then differs from its context image. -/
def setVreg (s : State) (r : WRef) (n l : Nat) (v : Word) : State :=
  let c := s.core r.site r.core
  match placeFind c r.slot (n / 32) with
  | some (p, x) =>
    s.setCore r.site r.core
      { c with words := FMap.put 0 c.words (p * 1024 + n % 32 * 32 + l) v,
               places := if x.dirty then c.places else FMap.set c.places p { x with dirty := true } }
  | none => s

/-- One 32-bit source of a lane by its operand number (R388). -/
def srcWord (s : State) (e : LaneEnv) (n l : Nat) : Word :=
  let late := (lateMask e.w false n).getLsbD l
  if late then BitVec.ofNat 32 (s.any (n * 32 + l))
  else if n < 1536 then vreg s e.r n l
  else if n < 1544 then
    (if e.w.tWr.getLsbD ((n - 1536) * 32 + l) then FMap.get 0 e.w.t ((n - 1536) * 32 + l) else BitVec.ofNat 32 (s.any (n * 32 + l)))
  else if 1600 ≤ n then (match e.w.running with | some x => FMap.get 0 x.caps (n - 1600) | none => 0)
  else special s e n l

/-- `k` registers of a lane from number `n` on, the first lowest (R361). -/
def srcNat (s : State) (e : LaneEnv) (n l : Nat) : Nat → Nat
  | 0 => 0
  | k + 1 => (srcWord s e n l).toNat + 2 ^ 32 * srcNat s e (n + 1) l k
/-- The registers a field names (R387). -/
def regCount (f : BitVec 13) : Nat := 2 ^ (wcode f).toNat
/-- The value an operand field names in a lane, of the width its code gives. -/
def srcVal (s : State) (e : LaneEnv) (f : BitVec 13) (l : Nat) : Nat := srcNat s e (num f) l (regCount f)

/-- Write one 32-bit destination of a lane (R388). -/
def dstWord (s : State) (r : WRef) (n l : Nat) (v : Word) : State :=
  if n < 1536 then setVreg s r n l v
  else if n < 1544 then
    let w := s.wref r
    let i := (n - 1536) * 32 + l
    s.setWref r { w with t := FMap.put 0 w.t i v, tWr := w.tWr ||| 1 <<< i }
  else s
/-- Write `k` registers of a lane from number `n` on. -/
def dstNat (s : State) (r : WRef) (n l v : Nat) : Nat → State
  | 0 => s
  | k + 1 => dstNat (dstWord s r n l (BitVec.ofNat 32 v)) r (n + 1) l (v / 2 ^ 32) k
/-- The lanes of a mask in ascending order. -/
def lanesOf (m : Word) : List Nat := (List.range 32).filter fun l => m.getLsbD l
/-- Write a destination in the lanes of a mask (R432): `v` gives each lane's value, taken before any lane is written. -/
def writeDst (s : State) (r : WRef) (n k : Nat) (mask : Word) (v : List (Nat × Nat)) : State :=
  v.foldl (fun t x => if mask.getLsbD x.1 then dstNat t r n x.1 x.2 k else t) s
/-- Write a predicate in the lanes of a mask (R432). -/
def writePred (s : State) (r : WRef) (p : Nat) (mask bits : Word) : State :=
  let w := s.wref r
  s.setWref r { w with p := FMap.put 0 w.p p ((FMap.get 0 w.p p &&& ~~~mask) ||| (bits &&& mask)) }
/-- The mask of the lanes for which a condition holds. -/
def maskOf (p : Nat → Bool) : Word := BitVec.ofNat 32 ((List.range 32).foldl (fun n l => if p l then n + 2 ^ l else n) 0)

/-- Occupancy and latency of a lane instruction at 2 and 3 passes (R212). -/
structure Timing where
  o2 : Nat
  o3 : Nat
  l2 : Nat
  l3 : Nat
  deriving DecidableEq, Repr
/-- 32-bit integer, FP32, paired half and convert. -/
def tBasic : Timing := { o2 := 2, o3 := 3, l2 := 6, l3 := 7 }
/-- INT64 on pairs and FP64. -/
def tWide : Timing := { o2 := 4, o3 := 6, l2 := 8, l3 := 10 }
/-- The FP32 special functions. -/
def tSfu : Timing := { o2 := 8, o3 := 12, l2 := 12, l3 := 16 }
/-- The FP64 special functions. -/
def tSfu64 : Timing := { o2 := 16, o3 := 24, l2 := 20, l3 := 28 }
/-- SHFL, BCAST, VOTE, MATCH and ELECT. -/
def tCross : Timing := { o2 := 2, o3 := 3, l2 := 10, l3 := 13 }
/-- REDUX, FREDUX and SCAN. -/
def tReduce : Timing := { o2 := 2, o3 := 3, l2 := 14, l3 := 18 }
/-- The predicate operations. -/
def tPred : Timing := { o2 := 1, o3 := 1, l2 := 2, l3 := 2 }
/-- Lane control, memory, atomics and render: no fixed latency. -/
def tPlain : Timing := { o2 := 2, o3 := 3, l2 := 0, l3 := 0 }
/-- NOP and the matrix instructions. -/
def tOne : Timing := { o2 := 1, o3 := 1, l2 := 0, l3 := 0 }

/-- The clocks that pass in a path: every result not written back yet comes nearer for the path's lanes (R213). -/
def ageHaz (path : Word) (occ : Nat) (l : List Haz) : List Haz :=
  (l.flatMap fun h => [{ h with mask := h.mask &&& path, left := h.left - occ }, { h with mask := h.mask &&& ~~~path }]).filter
    fun h => h.mask != 0 && decide (0 < h.left)

/-- What a lane instruction leaves in its path when it ends: its count, the next lane PC, and with the S bit the HELD
state (R230). -/
def Path.next (p : Path) (pc : Word) (stop : Bool) : Path :=
  { p with pc := pc, cnt := p.cnt + 1, st := if stop then .held else p.st }

/-- Whether an instruction named clklo. -/
def readsClk (fs : List (BitVec 13)) : Bool := fs.any fun f => num f == 1565

/-- The bookkeeping of a lane instruction that has issued: results not written back yet, the slot the pipe last issued
from, the free values it has used, the issue trace and the count of its pair (R213, R236, R315). `res` lists the
registers and predicates it writes: an earlier result of one of them is no longer what a reader receives. -/
def laneIssued (s : State) (e : LaneEnv) (t : Timing) (res : List (Bool × Nat)) (fs : List (BitVec 13)) : State :=
  let p2 := s.passes e.r.site e.r.core (pipeOf e.r.slot) == 2
  let occ := if p2 then t.o2 else t.o3
  let lat := if p2 then t.l2 else t.l3
  let s1 := s.traced
  let w := s1.curW
  let fresh : List Haz :=
    if occ < lat then res.map fun x => { pred := x.1, num := x.2, mask := e.act, left := lat - occ } else []
  let stale (h : Haz) : Haz := if res.contains (h.pred, h.num) then { h with mask := h.mask &&& ~~~e.act } else h
  let w1 := { w with haz := ageHaz e.path.mask occ (w.haz.map stale) ++ fresh, lastOne := e.one }
  let s2 := (s1.setW w1).fresh
  let s3 :=
    if readsClk fs then
      match s2.role with
      | .alone => s2
      | .lead sh => let x := s2.wref sh; s2.setWref sh { x with clks := x.clks ++ [e.clk] }
      | .trail _ => s2.setW { s2.curW with clks := s2.curW.clks.drop 1 }
    else s2
  s3.counted true

/-- A lane instruction ends in its path: the next lane word, or HELD with the S bit. -/
def lanePath (s : State) (e : LaneEnv) (h : Hdr) : State :=
  let w := s.curW
  s.setW { w with lane := w.lane.setSlot e.one (e.path.next (e.path.pc + 1) h.s) }

/-- Whether a field names a register of a block the warp has not pinned (R271). -/
def unpinned (w : Warp) (f : BitVec 13) : Bool := decide (num f < 1536) && !w.pinned.getLsbD (num f / 32)

/-- A lane trap of the instruction being executed (R337): code, the lanes that faulted, address and TINFO. -/
def laneTrap (e : LaneEnv) (code : Nat) (fmask : Word) (addr : DWord) (info : List Word) : TrapInfo :=
  { scalarTrap code 0 addr info with lane := true, slot1 := e.one, fmask := fmask }

/-- A lane instruction that names registers: REGBLOCK where a block of one is not pinned (R271), else what it does. -/
def State.withRegs (s : State) (h : Hdr) (fs : List (BitVec 13)) (k : LaneEnv → Out) : Out :=
  let e := s.laneEnv h
  if fs.any (unpinned e.w) then s.trap (laneTrap e 3 0 0 []) else k e

/-- A lane instruction of fixed latency that writes a register of each active lane (R209, R432): `fs` are the fields it
reads, `f` computes a lane's result from its sources. -/
def State.laneOp (s : State) (h : Hdr) (t : Timing) (d : BitVec 13) (fs : List (BitVec 13)) (f : LaneEnv → Nat → Nat) : Out :=
  s.withRegs h (d :: fs) fun e =>
    let vals := (lanesOf e.act).map fun l => (l, f e l)
    let s1 := laneIssued s e t ((List.range (regCount d)).map fun i => (false, num d + i)) fs
    .next (lanePath (writeDst s1 e.r (num d) (regCount d) e.act vals) e h)

/-- A lane instruction of fixed latency that writes a predicate: `f` computes the bit of a lane. -/
def State.lanePredOp (s : State) (h : Hdr) (t : Timing) (d : BitVec 13) (fs : List (BitVec 13)) (f : LaneEnv → Nat → Bool) : Out :=
  s.withRegs h fs fun e =>
    let bits := maskOf (f e)
    let s1 := laneIssued s e t [(true, num d)] fs
    .next (lanePath (writePred s1 e.r (num d) e.act bits) e h)

/-- The bit of a predicate field in a lane. -/
def predBit (s : State) (e : LaneEnv) (f : BitVec 13) (l : Nat) : Bool := (predMask s e.w (num f)).getLsbD l

end Sys2Proof.Machine
end

