-- ==== Sys2Proof/Machine/Async.lean ====
section
/-! DEFINITION. Operations on the LOAD and STORE paths: the checks of an access, performing its lanes in ascending order with
what a release or an acquire does, holding it for a pair, its completion, and the record it makes when it fails (R249,
R250, R255, R297, R298, R314, R316, R331, R344 to R347, R462 to R466, R473). -/
namespace Sys2Proof.Machine

/-- The key of the line of a translated address: package memory, the host and peers have lines of their own. -/
def trLine (t : Tr) : Nat :=
  match t.kind with
  | .localMem => lineOf t.pa
  | .host => 2 ^ 64 + t.pa / 128
  | .peer => 2 ^ 65 + t.pa / 128

/-- Whether a scalar access must wait for a write of the scalar stream to the same bytes that the SSCB holds (R288, R316). -/
def State.scalarBehind (s : State) (va : DWord) (t : Tr) (size : Nat) : Bool :=
  s.curW.behindOwn false [{ lane := 0, va := va, tr := t, size := size, val := 0, status := stOk }]
/-- An access of the scalar stream (R411): checked in the order of R255, with its trap or its page fault, else performed
by `go`; one that reads waits for the stream's own write of the same bytes (R288), and one of a peer package for the requests of its core
that a change of ports has it wait for (R141). -/
def State.scalarAcc (s : State) (va : DWord) (size : Nat) (k : Acc) (go : State → Tr → Out) : Out :=
  let r := s.curRef
  let g := s.gridOf s.curW
  match checkVa s r.site (some r.core) g.root g.sec va size k with
  | (s1, .ok t) => if peerHeld s1 r.site r.core t || k != .store && s1.scalarBehind va t size then s.wait else go s1 t
  | (s1, .perm) => s1.trap (scalarTrap 5 0 va [])
  | (s1, .misalign) => s1.trap (scalarTrap 6 0 va [])
  | (s1, .page reason level) =>
    .next (parkFault s1 r none [(va.toNat, reason, level, 0)] (if k == .store || k == .atomic then 1 else 0))

/-- The words TINFO0 to TINFO7 of an asynchronous record (R344). -/
def asyncInfo (o : AsyncOp) : List Word :=
  [o.pc,
   BitVec.ofNat 32 (o.tag.toNat * 2 ^ 16 + (if o.isLane then 2 ^ 15 else 0) + (if o.detail / 2 ^ 16 = 1 then 2 ^ 14 else 0) + o.path * 256),
   o.base.setWidth 32, (o.base >>> 32).setWidth 32, BitVec.ofNat 32 o.len, BitVec.ofNat 32 (o.len / 2 ^ 32),
   BitVec.ofNat 32 o.off, BitVec.ofNat 32 (o.off / 2 ^ 32)]

/-- The record of a failing operation: cause, DETAIL, the faulting address and lanes (R344). -/
def recOf (o : AsyncOp) (cause detail : Nat) (addr : DWord) (fmask : Word) : AsyncRec :=
  { tag := o.tag, path := o.path
    cause := BitVec.ofNat 32 (detail % 2 ^ 16 * 2 ^ 16 + (if o.isLane then 128 else 0) + (if o.slot1 then 256 else 0) + cause)
    tinfo := asyncInfo o, taddr := addr, tfmask := fmask, extra := 0 }

/-- The lanes of an operation that failed with a status other than POISON. -/
def failed (o : AsyncOp) : List LaneRes := o.res.filter fun x => x.status != stOk && x.status != stPoison

/-- The record of a memory operation some of whose lanes failed (R344, R347): the status of the lowest such lane; or the
failure that a TEX noted (R517), or a BINNEXT whose tile could not be filled (R264). -/
def memRec (o : AsyncOp) : Option AsyncRec :=
  match failed o with
  | [] =>
    if o.cause = 8 then some (recOf o 8 o.detail o.base o.fmask)
    else if o.cause = 11 then some (recOf o 11 o.detail (match o.res with | x :: _ => x.va | [] => o.base) 0)
    else none
  | x :: _ =>
    let m := (failed o).foldl (fun (m : Word) y => m ||| (if o.isLane then 1 <<< y.lane else 0)) 0
    some (recOf { o with base := x.va, len := x.size, off := 0 } 8 x.status x.va m)

/-- Perform one lane's access of an operation (R463, R465, R469, R470, R473): with the tag that the lane's request has, where it is made
again (R57). -/
def accessLane (s : State) (who : Who) (o : AsyncOp) (x : LaneRes) : State × LaneRes :=
  let me : Who := { who with again := x.seq }
  if o.op = 0 then
    let (s1, v, st) := doLoad s me x.tr x.size o.hint
    (s1, { x with val := BitVec.ofNat 256 v, status := st })
  else if o.op = 1 then
    let (s1, st) := doStore s me x.tr x.size x.val.toNat (storeDepth (o.order / 2) o.scope o.hint) o.hint
    (s1, { x with status := st })
  else if o.op = 4 || o.op = 5 then
    let cached := x.tr.kind == .localMem && x.tr.attr != 3
    let line := lineOf x.tr.pa
    if !cached || (o.op = 4 && o.scope < 2) then (s, x)
    else
      let (s1, st) := writeBackSt s who.site who.core line (decide (3 ≤ o.scope))
      (if o.op = 5 then dropL1 s1 who.site who.core line true else s1, { x with status := st })
  else if o.op = 3 then (s, x)
  else
    let (s1, old, st) := doAtomic s { me with tag := some o.tag } x.tr (o.op == 2) (o.op - 16) x.size x.val.toNat
    (s1, { x with val := BitVec.ofNat 256 old, status := st })
/-- The same, noting the SEQ of the request that the access has made (R56, R57). -/
def performLane (s : State) (who : Who) (o : AsyncOp) (x : LaneRes) : State × LaneRes :=
  let (s1, y) := accessLane s who o x
  let q := (s.core who.site who.core).seq
  (s1, if (s1.core who.site who.core).seq = q then y else { y with seq := some q })

/-- Perform the lanes of an operation in ascending order. -/
def performLanes (s : State) (who : Who) (o : AsyncOp) : List LaneRes → State × List LaneRes
  | [] => (s, [])
  | x :: xs =>
    let (s1, y) := performLane s who o x
    let (s2, ys) := performLanes s1 who o xs
    (s2, y :: ys)

/-- No place: of an access that is not made. -/
def Tr.zero : Tr := { kind := .localMem, pa := 0, attr := 0, set := 0, sec := false, page := 0, entry := 0 }

/-- The distinct lines of a release, in the order of the lowest lane that names each (R298). -/
def linesOf (l : List LaneRes) : List Nat :=
  l.foldl (fun acc x => if acc.contains (trLine x.tr) then acc else acc ++ [trLine x.tr]) []

/-- The action of a release before its accesses (R297), and its promotion-log entries (R298). -/
def releaseOp (s : State) (r : WRef) (o : AsyncOp) : State :=
  if o.order < 2 then s
  else
    let s1 := releaseAct s r.site r.core o.scope
    if o.scope = 1 || o.scope = 2 then (linesOf o.res).foldl (fun t l => plogAppend t r.site r.core r.slot (some l)) s1 else s1

/-- Whether an operation is a relaxed floating-point sum with ANY that the write queue of a port may merge (R476); such an
operation carries the hint code 1. -/
def mayMerge (o : AsyncOp) : Bool := o.op == 28 && o.hint == 1 && o.order == 0

/-- The reductions of words whose lines nothing else has written since (R476). -/
def liveReds (s : State) : List RedGrp := s.reds.filter fun g => !(s.wlog.take (s.wlog.length - g.len)).any fun e => e.1 == lineOf g.pa
/-- Perform reductions that may be merged, in ascending lane order (R476, log 12): one is merged into those before it of its word, where
the port picks so, by adding the sum of their operands, each sum rounded once, to the value before them; or it is applied alone. -/
def redLanes (s : State) (who : Who) (o : AsyncOp) : List RedGrp → List LaneRes → State × List RedGrp × List LaneRes
  | gs, [] => (s, gs, [])
  | gs, x :: xs =>
    let add (a b : Nat) : Nat := (fmt (if x.size = 8 then 1 else 0)).add false 0 false a b
    let b := x.val.toNat % 2 ^ (8 * x.size)
    let same (g : RedGrp) : Bool := g.pa == x.tr.pa && g.size == x.size && g.sec == who.sec
    let hbm := match x.tr.kind, region x.tr.pa with | .localMem, .hbm _ => true | _, _ => false
    let grp := if hbm && Config.mergeOrder s.free then gs.find? same else none
    let (s1, y) := match grp with
      | some g => performLane s who { o with op := 24 } { x with val := BitVec.ofNat 256 (add g.base (add g.sum b)) }
      | none => performLane s who o x
    let g1 : RedGrp := match grp with
      | some g => { g with sum := add g.sum b }
      | none => { pa := x.tr.pa, size := x.size, sec := who.sec, base := y.val.toNat, sum := b, len := 0 }
    let gs1 := if hbm && y.status = stOk then g1 :: gs.filter fun g => !same g else gs
    let (s2, gs2, ys) := redLanes s1.fresh who o gs1 xs
    (s2, gs2, { y with val := x.val } :: ys)
/-- Perform the lanes of an operation that may be merged with others of its kind (R476). -/
def performReds (s : State) (who : Who) (o : AsyncOp) (res : List LaneRes) : State × List LaneRes :=
  let (s1, gs, l) := redLanes s who o (liveReds s) res
  ({ s1 with reds := gs.map fun g => { g with len := s1.wlog.length } }, l)

/-- Perform an operation with its release and acquire (R297, R466). Accesses of lane values that are loads see what an
acquire at their scope sees. Under MIRROR the accesses of lanes 0 to 15 are performed, and lane l + 16 receives what lane l
receives (R322). -/
def performOp (s : State) (r : WRef) (o : AsyncOp) : State × AsyncOp :=
  let s1 := releaseOp s r o
  let acq := o.order % 2 == 1
  let s2 := if acq then acquireAct s1 r.site r.core o.scope else s1
  let mirror := o.isLane && (s.gridOf (s.wref r)).mirror
  let own := if mirror then o.res.filter fun x => decide (x.lane < 16) else o.res
  let (s3, res) := if mayMerge o then performReds s2 (s.who r) o own else performLanes s2 (s.who r) o own
  let like (x : LaneRes) : LaneRes :=
    match res.find? fun y => y.lane == x.lane % 16 with
    | some y => { x with val := y.val, status := y.status, seq := y.seq }
    | none => { x with val := BitVec.ofNat 256 (s.any x.lane) }
  let all := if mirror then o.res.map like else res
  let s4 := if mirror then s3.fresh else s3
  (if acq then acquireAct s4 r.site r.core o.scope else s4, { o with res := all })

/-- An operation that names no destination and no lane. -/
def opNew (w : Warp) (path : Nat) (pc : Word) : AsyncOp :=
  { tag := w.tag, path := path, pc := pc, isLane := false, slot1 := false, dst := none, width := 0, ext := false, acq := false,
    res := [], base := 0, len := 0, off := 0, cause := 0, detail := 0, fmask := 0, retries := 0, engine := false, held := false, op := 3,
    order := 0, scope := 0, hint := 0, done := false }

/-- Whether an operation has performed the atomic or the synchronisation that ends a region (R324): one that ended in POISON in every
lane, or that was refused, has not, and neither has a load that read POISON. -/
def endsRegion (o : AsyncOp) : Bool :=
  (o.order != 0 || o.op == 2 || decide (16 ≤ o.op)) &&
    (o.res.isEmpty || ((o.res.any fun x => x.status == stOk) && !(o.op == 0 && o.res.any fun x => x.status == stPoison)))
/-- A region ends when a synchronising access is performed (R324). -/
def leaveFor (w : Warp) (o : AsyncOp) : Warp := if endsRegion o then w.leave else w

/-- A loaded value as registers hold it: zero-extended, or sign-extended where the instruction asks for it (R463). -/
def extendVal (ext : Bool) (size v : Nat) : Nat :=
  if ext && v.testBit (8 * size - 1) then (v + (2 ^ 32 - 2 ^ (8 * size))) % 2 ^ 32 else v

/-- Write the destination of an operation that returns values: the data of the lanes that succeeded, and free values in
the lanes that failed (R346, R463). -/
def writeResult (s : State) (r : WRef) (o : AsyncOp) : State :=
  match o.dst with
  | none => s
  | some d =>
    let v (x : LaneRes) : Nat :=
      if x.status ≠ stOk then s.any x.lane % 2 ^ (32 * o.width) else extendVal o.ext x.size x.val.toNat
    (o.res.foldl (fun t x => dstNat t r d x.lane (v x) o.width) s).fresh

/-- The LVQ entries that the values of an operation fill (R314): each lane's value in `width` entries of 4 bytes a lane. -/
def opLvq (o : AsyncOp) (ready : Bool) : List LvqEnt :=
  (List.range o.width).map fun i =>
    { lvqVal true false (o.res.foldl (fun n x => n + x.val.toNat / 2 ^ (32 * i) % 2 ^ 32 * 2 ^ (32 * x.lane)) 0) with
      ready := ready, tag := o.tag }

/-- An operation completes (R250): a POISON status is consumed by the warp (R331); a failure makes its record (R344); its
destination is written; and the counter of its path falls as far as all older operations of the path have completed. Those of an
engine are then the next SWAIT's to join (R307). -/
def completeOp (s : State) (r : WRef) (tag : BitVec 16) : State :=
  let w := s.wref r
  match w.ops.find? fun o => o.tag == tag && !o.done && !o.held && !o.engine && !(decide (6 ≤ o.op) && decide (o.op ≤ 8)) with
  | none => s
  | some o =>
    let odd := o.res.find? fun x => x.status == stPoison
    let s1 := if odd.isSome then s else writeResult s r o
    let w1 := s1.wref r
    let w2 := match memRec o with | some x => addRec w1 x | none => w1
    let ops := w2.ops.map fun x => if x.tag == tag && x.path == o.path then { x with done := true } else x
    let rec0 := (ops.filter fun x => x.path == o.path).takeWhile fun x => x.done
    let gone (x : AsyncOp) : Bool := rec0.any fun y => y.tag == x.tag
    let left := ops.filter fun x => !(x.path == o.path && gone x)
    let joins := if o.path < 2 then w2.joins else FMap.set w2.joins o.path (rec0.foldl (fun n x => max n x.scope) (FMap.get 0 w2.joins o.path))
    let w3 := { w2 with ops := left, cnt := FMap.put 0 w2.cnt o.path (w2.count o.path - rec0.length), joins := joins }
    let s2 := s1.setWref r w3
    let s3 := dropAtoms s2 r fun x => x == tag
    match odd with
    | some x => consume s3 r o.pc.toNat (if x.tr.kind == .localMem then x.tr.pa else 0)
    | none => s3

/-- Whether an operation of the warp still holds back a release: one that the SSCB holds (R316). -/
def Warp.holds (w : Warp) : Bool := w.ops.any fun o => o.held

/-- Issue an operation of the LOAD or STORE path (R249, R316): a warp alone performs it at once, the leader of a pair
performs a load at once and holds what acts outside the pair. The caller has seen that the path, the SSCB and the LVQ can
take it. -/
def issueOp (s : State) (r : WRef) (o : AsyncOp) (sig : BitVec 64) (i : Instr) : State :=
  match roleOf (s.wref r) with
  | .lead sh =>
    if o.op = 0 then
      let (s1, o1) := performOp s r o
      let s2 := s1.setWref r (leaveFor ((s1.wref r).enter o1) o1)
      pushLvq s2 sh (opLvq o1 true)
    else
      let s1 := s.setWref r ((s.wref r).enter { o with held := true })
      let s2 := pushSscb s1 sh { lane := o.isLane, sig := sig, ins := i, pc := o.pc, tag := (s.wref r).tag, path := o.path, ready := true, matched := false }
      if o.dst.isSome then pushLvq s2 sh (opLvq { o with tag := (s.wref r).tag } false) else s2
  | _ =>
    let (s1, o1) := performOp s r o
    s1.setWref r (leaveFor ((s1.wref r).enter o1) o1)

/-- Release a held operation of the leader (R316, R319): it is performed, its values fill the LVQ, and a region that it ends is that of
both warps (R324). -/
def releaseHeld (s : State) (r sh : WRef) (tag : BitVec 16) : State :=
  match (s.wref r).ops.find? fun o => o.tag == tag && o.held with
  | none => s
  | some o =>
    let (s1, o1) := performOp s r { o with held := false }
    let w := s1.wref r
    let w1 := leaveFor { w with ops := w.ops.map fun x => if x.tag == tag && x.held then o1 else x } o1
    let s2 := if endsRegion o1 then leaveMate (s1.setWref r w1) r else s1.setWref r w1
    let x := s2.wref sh
    let fills := opLvq o1 true
    let fill (acc : List LvqEnt × List LvqEnt) (e : LvqEnt) : List LvqEnt × List LvqEnt :=
      match acc.2 with
      | f :: fs => if !e.ready && e.tag == tag then (acc.1 ++ [f], fs) else (acc.1 ++ [e], acc.2)
      | [] => (acc.1 ++ [e], [])
    s2.setWref sh { x with lvq := (x.lvq.foldl fill ([], fills)).1 }

end Sys2Proof.Machine
end

