-- ==== Sys2Proof/Machine/Scalar.lean ====
section
/-! DEFINITION. The scalar arithmetic and logic (R407 to R409). -/
namespace Sys2Proof.Machine

/-- A scalar instruction that writes one register. -/
def State.toReg (s : State) (d : BitVec 6) (v : Word) : Out := s.retire (s.curW.wr d v)
/-- A scalar instruction that writes a pair. -/
def State.toPair (s : State) (d : BitVec 6) (v : DWord) : Out := s.retire (s.curW.wrPair d v)

/-- SADD (R407). -/
def execSadd (d a b : BitVec 6) (s : State) : Out := s.toReg d (s.curW.rd a + s.curW.rd b)
/-- SSUB (R407). -/
def execSsub (d a b : BitVec 6) (s : State) : Out := s.toReg d (s.curW.rd a - s.curW.rd b)
/-- SMUL (R407). -/
def execSmul (d a b : BitVec 6) (s : State) : Out := s.toReg d (s.curW.rd a * s.curW.rd b)
/-- SMULH: the high half of the signed product (R407). -/
def execSmulh (d a b : BitVec 6) (s : State) : Out :=
  s.toReg d (BitVec.ofInt 32 ((s.curW.rd a).toInt * (s.curW.rd b).toInt / 2 ^ 32))
/-- SAND (R407). -/
def execSand (d a b : BitVec 6) (s : State) : Out := s.toReg d (s.curW.rd a &&& s.curW.rd b)
/-- SOR (R407). -/
def execSor (d a b : BitVec 6) (s : State) : Out := s.toReg d (s.curW.rd a ||| s.curW.rd b)
/-- SXOR (R407). -/
def execSxor (d a b : BitVec 6) (s : State) : Out := s.toReg d (s.curW.rd a ^^^ s.curW.rd b)
/-- SSHL (R407). -/
def execSshl (d a b : BitVec 6) (s : State) : Out := s.toReg d (s.curW.rd a <<< ((s.curW.rd b).toNat % 32))
/-- SSHR (R407). -/
def execSshr (d a b : BitVec 6) (s : State) : Out := s.toReg d (s.curW.rd a >>> ((s.curW.rd b).toNat % 32))
/-- SSRA (R407). -/
def execSsra (d a b : BitVec 6) (s : State) : Out := s.toReg d ((s.curW.rd a).sshiftRight ((s.curW.rd b).toNat % 32))
/-- SMIN (R407). -/
def execSmin (d a b : BitVec 6) (s : State) : Out :=
  s.toReg d (if (s.curW.rd b).slt (s.curW.rd a) then s.curW.rd b else s.curW.rd a)
/-- SMAX (R407). -/
def execSmax (d a b : BitVec 6) (s : State) : Out :=
  s.toReg d (if (s.curW.rd a).slt (s.curW.rd b) then s.curW.rd b else s.curW.rd a)
/-- SCMP (R407). -/
def execScmp (c : BitVec 4) (d a b : BitVec 6) (s : State) : Out :=
  s.toReg d (if cmpInt c.toNat (s.curW.rd a) (s.curW.rd b) then 1 else 0)
/-- SADD64 (R407). -/
def execSadd64 (d a b : BitVec 6) (s : State) : Out := s.toPair d (s.curW.rdPair a + s.curW.rdPair b)
/-- SSUB64 (R407). -/
def execSsub64 (d a b : BitVec 6) (s : State) : Out := s.toPair d (s.curW.rdPair a - s.curW.rdPair b)
/-- SADDI (R408). -/
def execSaddi (d a : BitVec 6) (imm : BitVec 14) (s : State) : Out := s.toReg d (s.curW.rd a + imm.signExtend 32)
/-- SANDI (R408). -/
def execSandi (d a : BitVec 6) (imm : BitVec 14) (s : State) : Out := s.toReg d (s.curW.rd a &&& imm.setWidth 32)
/-- SORI (R408). -/
def execSori (d a : BitVec 6) (imm : BitVec 14) (s : State) : Out := s.toReg d (s.curW.rd a ||| imm.setWidth 32)
/-- SXORI (R408). -/
def execSxori (d a : BitVec 6) (imm : BitVec 14) (s : State) : Out := s.toReg d (s.curW.rd a ^^^ imm.setWidth 32)
/-- SSHLI (R408). -/
def execSshli (d a : BitVec 6) (n : BitVec 5) (s : State) : Out := s.toReg d (s.curW.rd a <<< n.toNat)
/-- SSHRI (R408). -/
def execSshri (d a : BitVec 6) (n : BitVec 5) (s : State) : Out := s.toReg d (s.curW.rd a >>> n.toNat)
/-- SSRAI (R408). -/
def execSsrai (d a : BitVec 6) (n : BitVec 5) (s : State) : Out := s.toReg d ((s.curW.rd a).sshiftRight n.toNat)
/-- SLUI (R409). -/
def execSlui (d : BitVec 6) (imm : BitVec 20) (s : State) : Out := s.toReg d (imm ++ (0 : BitVec 12))

end Sys2Proof.Machine
end

