-- ==== Sys2Proof/Machine/ScalarCtl.lean ====
section
/-! DEFINITION. Control flow, lane runs, waiting and synchronisation, register blocks, regions, special registers, traps and
the end of a warp, in the scalar stream (R414 to R430). -/
namespace Sys2Proof.Machine

/-- Transfer control to a scalar PC, checked in a pair (R317, R415). -/
def State.branch (s : State) (f : Warp → Warp) (target : Word) : Out :=
  s.checked false (crc64 (leBytes 4 target.toNat)).toNat s.curW.pc.toNat fun t => t.jump (f t.curW) target

/-- BRA (R414, R415). -/
def execBra (c : BitVec 4) (a : BitVec 6) (off : BitVec 16) (s : State) : Out :=
  if condHolds c (s.curW.rd a) then s.branch id (s.curW.pc + off.signExtend 32) else s.retire s.curW
/-- JMP (R415). -/
def execJmp (imm : BitVec 26) (s : State) : Out := s.branch id (s.curW.pc + imm.signExtend 32)
/-- CALL (R415). -/
def execCall (imm : BitVec 26) (s : State) : Out :=
  s.branch (fun w => w.wr 62 (w.pc + 1)) (s.curW.pc + imm.signExtend 32)
/-- RET (R415). -/
def execRet (a : BitVec 6) (s : State) : Out := s.branch id (s.curW.rd a)
/-- LOOP (R416). -/
def execLoop (c : BitVec 4) (a : BitVec 6) (off : BitVec 16) (s : State) : Out :=
  let x := s.curW.rd a - 1
  if condHolds c x then s.branch (fun w => w.wr a x) (s.curW.pc + off.signExtend 32) else s.retire (s.curW.wr a x)

/-- Enqueue a start entry (R227, R417): ILLEGAL beyond LLEN, a wait while the queue is full. -/
def State.startRun (s : State) (pc : Word) (i : Instr) : Out :=
  let w := s.curW
  if (s.team w.team).llen ≤ pc.toNat then s.illegal (scalarInfo i)
  else if 4 ≤ w.queue.length then s.wait
  else
    let sig := crc64 (leBytes 4 pc.toNat ++ (List.range 64).flatMap fun k => leBytes 4 (FMap.get 0 w.s k).toNat)
    s.checked false sig.toNat w.pc.toNat fun t =>
      let e : RunEnt := { resume := false, pc := pc, caps := w.s, enq := w.pc }
      t.retire { t.curW with queue := t.curW.queue ++ [e] }
/-- VRUN (R417). -/
def execVrun (imm : BitVec 26) (s : State) : Out := s.startRun (imm.setWidth 32) (.vrun imm)
/-- VRUNR (R417). -/
def execVrunr (a : BitVec 6) (s : State) : Out := s.startRun (s.curW.rd a) (.vrunr a)

/-- The lane state word of R228. -/
def laneWord (l : LaneCtx) : Word :=
  let occ (p : Path) : Nat := if p.st == .empty then 0 else 1
  BitVec.ofNat 32 (l.stack.length * 4 + occ l.s1 * 2 + occ l.s0)
/-- SYNCL (R418). -/
def execSyncl (d : BitVec 6) (s : State) : Out := s.drained fun s => s.toReg d (laneWord s.curW.lane)
/-- SYNCL.RESUME: a resume entry first, once, then SYNCL (R418). -/
def execSynclResume (d : BitVec 6) (s : State) : Out :=
  let w := s.curW
  if w.resAt = some w.pc then s.drained fun s => s.retire { s.curW.wr d (laneWord s.curW.lane) with resAt := none }
  else if 4 ≤ w.queue.length then s.wait
  else .next (s.setW { w with queue := w.queue ++ [{ resume := true, pc := 0, caps := w.s, enq := w.pc }], resAt := some w.pc })

/-- Park the warp whose instruction is being executed; a warp that is parked so already stays parked (R349). -/
def State.parkOn (s : State) (p : Park) : Out :=
  if s.curW.park == p then s.wait else .next (s.setW { s.curW with park := p, parkAt := s.curCore.clk, parkPast := 0 })

/-- The join of the engine operations of a path that have completed (R251, R307): an acquire at the widest of their scopes. -/
def joinAct (s : State) (path : Nat) : State :=
  match FMap.find s.curW.joins path with
  | some scope => let s1 := acquireAct s s.cur.site s.cur.core scope; s1.setW { s1.curW with joins := FMap.del s1.curW.joins path }
  | none => s

/-- SWAIT (R251, R420): destination registers of the loads it has counted can be used from here on (R464). -/
def execSwait (b : BitVec 6) (path : BitVec 3) (s : State) : Out :=
  s.drained fun s => s.reporting (some path.toNat) false <|
    let w := s.curW
    if w.count path.toNat ≤ (w.rd b).toNat then
      let flying (h : LdHaz) : Bool := w.ops.any fun o => o.path == 0 && o.tag == h.tag
      let t := joinAct s path.toNat
      t.retire (if path = 0 then { t.curW with ldHaz := w.ldHaz.filter flying } else t.curW)
    else s.parkOn (.swait path.toNat (w.rd b).toNat)

/-- The barrier word of BARA and BARW (R245): its physical address, once the access is allowed and the word lies in the
team's data granules. -/
def State.barrierAt (s : State) (va : DWord) (k : Acc) (i : Instr) (go : State → Nat → Nat → Out) : Out :=
  s.scalarAcc va 8 k fun s1 t =>
    let tm := s1.team s1.curW.team
    let base := winAddr s1.cur.site s1.cur.core + 0x100000 + 1024 * tm.gran
    if t.kind == .localMem && decide (base ≤ t.pa) && decide (t.pa < base + 1024 * tm.ngran) then
      let word := readBytes s1.mem t.pa 8
      if word / 2 ^ 48 ≠ 0 then s1.illegal (scalarInfo i) else go s1 t.pa word
    else s1.trap (scalarTrap 5 0 va [])

/-- An arrival at a barrier word (R242). -/
def arrive (word teamSize : Nat) : Nat :=
  let g := word / 2 ^ 32 % 2 ^ 16
  let e := word / 2 ^ 16 % 2 ^ 16
  let a := word % 2 ^ 16
  let limit := if e = 0 then teamSize else e
  if limit ≤ a + 1 then (g + 1) % 2 ^ 16 * 2 ^ 32 + e * 2 ^ 16 else g * 2 ^ 32 + e * 2 ^ 16 + (a + 1)

/-- BARA (R242, R244, R421). In a pair the trailing warp compares the address it names with its leader's, whose signature stands beside
the result in the LVQ (R245, log 20). -/
def execBara (d a : BitVec 6) (s : State) : Out :=
  s.drained fun s =>
    let sig := (regSig s.curW [a, a + 1] (.bara d a)).toNat
    match s.role with
    | .trail _ =>
      s.outside 0 fun t v =>
        if v / 2 ^ 64 = sig then t.retire ((t.follow t.curW).wr d (BitVec.ofNat 32 v)) else .next (mismatch s s.curRef s.curW.pc.toNat)
    | role =>
      s.reporting none true <|
        if s.curW.owes then s.wait
        else
          s.barrierAt (s.curW.rdPair a) .atomic (.bara d a) fun s1 pa word =>
            let r := s1.curRef
            let s2 := releaseAt s1 r.site r.core r.slot 1 (some (lineOf pa))
            let off := pa - winAddr r.site r.core
            let s3 := (windowStore s2 r.site r.core off 8 (arrive word (s2.gridOf s2.curW).teamSize)).1
            let beside := match role with | .lead _ => 2 ^ 64 * sig | _ => 0
            s3.outside (word / 2 ^ 32 % 2 ^ 16 + beside) fun t v => t.retire (t.curW.leave.wr d (BitVec.ofNat 32 v))

/-- BARW (R243, R244, R421). A trailing warp completes behind its leader, once the address and the phase that it names are its leader's
(R245, log 20). -/
def execBarw (a b : BitVec 6) (s : State) : Out :=
  s.drained fun s =>
    let sig := (regSig s.curW [a, a + 1, b] (.barw a b)).toNat
    match s.role with
    | .trail _ => s.checked false sig s.curW.pc.toNat fun t => t.retire (t.follow t.curW)
    | _ =>
      s.reporting none true <|
        s.barrierAt (s.curW.rdPair a) .load (.barw a b) fun s1 _ word =>
          let g := (s1.curW.rd b).extractLsb' 0 16
          if BitVec.ofNat 16 (word / 2 ^ 32) ≠ g
          then s1.checked false sig s1.curW.pc.toNat fun t => (acquireAct t t.cur.site t.cur.core 1).retire t.curW.leave
          else s1.parkOn (.barw (s1.curW.rdPair a) g)

/-- Whether a write of the line of a translated address can fire a watch of a warp of core `c` (R247, R248). -/
def watchNear (r : WRef) (t : Tr) : Bool :=
  t.kind == .localMem &&
    (match region t.pa with | .hbm _ => true | .window site core _ => site == r.site && core == r.core | _ => false)

/-- SMON (R246, R422): a trailing warp keeps no watch (R318). -/
def execSmon (a : BitVec 6) (s : State) : Out :=
  match s.role with
  | .trail _ => s.retire s.curW
  | _ =>
    s.scalarAcc (s.curW.rdPair a) 1 .load fun s1 t =>
      s1.retire { s1.curW with watch := some { line := trLine t, near := watchNear s1.curRef t, fired := false } }

/-- SMWAIT ends with a code: the watch is disarmed (R248). -/
def State.smDone (s : State) (d : BitVec 6) (code : Nat) : Out :=
  s.outside code fun t v => t.retire { t.curW.wr d (BitVec.ofNat 32 v) with watch := none }

/-- SMWAIT (R248, R422). -/
def execSmwait (d b : BitVec 6) (s : State) : Out :=
  s.drained fun s =>
    match s.role with
    | .trail _ => s.outside 0 fun t v => t.retire (t.curW.wr d (BitVec.ofNat 32 v))
    | _ =>
      let limit := (s.curW.rd b).toNat
      let parked := match s.curW.park with | .smwait _ _ => true | _ => false
      match s.curW.watch with
      | none => s.smDone d 2
      | some x =>
        if x.fired then s.smDone d 0
        else if limit = 0 then (if x.near then s.parkOn (.smwait d none) else s.smDone d 1)
        else if parked && decide (s.curW.parkAt + limit ≤ s.curCore.clk + s.curW.parkPast) then s.smDone d 1
        else s.parkOn (.smwait d (some limit))

/-- Whether an operation of the LOAD or STORE path is a memory access: not packets, a bin entry, or a move out of a tile. -/
def AsyncOp.access (o : AsyncOp) : Bool := o.op != 7 && o.op != 8 && !(o.dst.isSome && (o.op == 3 || o.op == 6))
/-- FENCE (R297, R298, R423). -/
def execFence (scope : BitVec 3) (ord : BitVec 2) (s : State) : Out :=
  s.drained fun s =>
    let acq := ord.getLsbD 0
    let rel := ord.getLsbD 1
    let pend (o : AsyncOp) : Bool :=
      o.access && ((acq && o.path == 0) || (rel && (o.path == 1 || (o.path == 0 && (o.op == 2 || decide (16 ≤ o.op))))))
    if s.curW.ops.any fun o => pend o && !o.done then s.wait
    else
      s.matched [] (.fence scope ord)
        (fun t =>
          let r := t.curRef
          let t1 := if rel then releaseAt t r.site r.core r.slot scope.toNat none else t
          let t2 := if acq then acquireAct t1 r.site r.core scope.toNat else t1
          t2.retire t2.curW.leave)
        (fun t => t.retire t.curW)

/-- Serve a RACQ at a core (R301, R302): promote up to the newest entry of the line. -/
def serveRacq (s : State) (site core line : Nat) : State :=
  if !s.dieUp site || !s.coreOn site core then s
  else
    let c := s.core site core
    let newest := (List.range c.plog.length).foldl (fun n i =>
      match c.plog[i]? with | some e => if e.line = some line then i + 1 else n | none => n) 0
    let s1 := promote s site core newest
    let c1 := s1.core site core
    if newest = 0 then s1 else s1.setCore site core { c1 with asked := satAdd 16 c1.asked 1 }

/-- Whether a RACQ of the warp whose instruction is executed is refused at a core for the world that holds it (R117, R119, R305). -/
def State.racqDenied (s : State) (site core : Nat) : Bool :=
  windowSt s s.cur.site site core (s.gridOf s.curW).sec == stPerm
/-- Serve the same RACQ at a list of cores; one held by the secure world refuses it, which is a security event (R119, log 20). -/
def serveRacqs (s : State) (line : Nat) (l : List (Nat × Nat)) : State :=
  l.foldl (fun t x =>
    if t.racqDenied x.1 x.2 then secEvent t x.1 t.cur.site t.cur.core (winAddr x.1 x.2) else serveRacq t x.1 x.2 line) s

/-- RACQ and RACQ.ALL (R301, R305, R424): `cores` gives the target cores from the place that the target address
translates to; without a target address they are those of the device. A single target that the secure world holds is a permission
fault (R305). -/
def State.racq (s : State) (regs : List (BitVec 6)) (i : Instr) (sync : DWord) (target : Option DWord)
    (cores : Nat → Nat → List (Nat × Nat)) : Out :=
  s.drained fun s =>
    let go (line : Nat) (l : List (Nat × Nat)) (t : State) : Out :=
      t.matched regs i
        (fun u =>
          let u1 := acquireAct (serveRacqs u line l) u.cur.site u.cur.core 4
          u1.retire u1.curW.leave)
        (fun u => u.retire u.curW)
    match s.role with
    | .trail _ => go 0 [] s
    | _ =>
      s.scalarAcc sync 1 .load fun s1 t =>
        match target with
        | none => go (trLine t) (cores 0 0) s1
        | some va =>
          s1.scalarAcc va 1 .load fun s2 u =>
            if u.kind == .localMem && u.attr == 3 then
              (match region u.pa with
               | .window site core _ =>
                 (match cores site core with
                  | [_] =>
                    if s2.racqDenied site core then
                      (secEvent s2 site s2.cur.site s2.cur.core u.pa).trap (scalarTrap 5 0 va [])
                    else go (trLine t) [(site, core)] s2
                  | l => go (trLine t) l s2)
               | _ => s2.trap (scalarTrap 5 0 va []))
            else s2.trap (scalarTrap 5 0 va [])

/-- RACQ (R301). -/
def execRacq (a b : BitVec 6) (s : State) : Out :=
  s.racq [a, a + 1, b, b + 1] (.racq a b) (s.curW.rdPair a) (some (s.curW.rdPair b)) fun site core => [(site, core)]
/-- RACQ.ALL.DIE (R305). -/
def execRacqAllDie (a b : BitVec 6) (s : State) : Out :=
  s.racq [a, a + 1, b, b + 1] (.racqAllDie a b) (s.curW.rdPair a) (some (s.curW.rdPair b)) fun site _ =>
    (List.range 48).map fun c => (site, c)
/-- RACQ.ALL.DEVICE (R305). -/
def execRacqAllDevice (a : BitVec 6) (s : State) : Out :=
  s.racq [a, a + 1] (.racqAllDevice a) (s.curW.rdPair a) none fun _ _ =>
    (List.range 48).flatMap fun x => (List.range 48).map fun c => (x, c)

/-- The blocks a request names. -/
def blockList (first : BitVec 6) (count : BitVec 5) : List Nat := (List.range count.toNat).map fun i => first.toNat + i

/-- RBGET (R172, R425): from the pool when no other warp waits, else in the queue, by the clock and slot in which it waits. -/
def execRbget (first : BitVec 6) (count : BitVec 5) (s : State) : Out :=
  let r := s.curRef
  let c := s.curCore
  let need := needed s.curW first.toNat count.toNat
  if c.rbWait.any fun e => e.1 == r.slot then s.parkOn (.rbget first.toNat count.toNat)
  else if c.rbWait.isEmpty && decide (need ≤ poolFree c) then
    let s1 := pinBlocks s r false (blockList first count)
    s1.retire s1.curW
  else
    (s.setC (c.enterRb r.slot first.toNat count.toNat)).parkOn (.rbget first.toNat count.toNat)

/-- RBPUT (R174, R425). -/
def execRbput (first : BitVec 6) (count : BitVec 5) (s : State) : Out :=
  s.drained fun s =>
    let m : BitVec 48 := (blockList first count).foldl (fun m b => m ||| 1 <<< b) 0
    let s1 := unpin s s.curRef m
    s1.retire s1.curW

/-- The largest class of any record in force in the current window (R216, R219): none where none was. -/
def Core.winClass (c : Core) : Option Nat :=
  match c.phase, c.winCls with
  | some p, some k => if 1024 * c.win < p.te then some (max p.cls k) else some k
  | some p, none => if 1024 * c.win < p.te then some p.cls else none
  | none, k => k

/-- PHASE (R216, R506): the declaration of a matrix burst. -/
def execPhase (a b : BitVec 6) (cls : BitVec 8) (s : State) : Out :=
  let onset := (s.curW.rd a).toNat
  let len := (s.curW.rd b).toNat
  if 65535 < onset || len = 0 || 4095 < len then s.illegal (scalarInfo (.phase a b cls))
  else
    let c := s.curCore
    let t := c.clk
    let old := match c.phase with | some p => if t < p.te then some p else none | none => none
    match old with
    | some p =>
      let p1 : PhaseRec := { p with cls := max p.cls cls.toNat, te := max p.te (t + max onset 256 + len * 256) }
      let s1 := s.setC { c with phase := some p1, phLast := p1, winCls := some (max (c.winClass.getD 0) p1.cls) }
      s1.retire s1.curW
    | none =>
      let cl := s.sliceOf s.cur.site s.cur.core
      let d := s.die s.cur.site
      let last := match FMap.find d.tlast cl with | some x => x + 128 | none => 0
      let tg := min (max (max (t + onset) (t + 256)) last) (t + max onset 256 + 1920)
      let p : PhaseRec := { tg := tg, te := tg + len * 256, cls := cls.toNat }
      let s1 := s.setC { c with phase := some p, phLast := p, winCls := some (max (c.winClass.getD 0) cls.toNat) }
      let s2 := s1.setDie s.cur.site { d with tlast := FMap.set d.tlast cl tg }
      s2.retire s2.curW

/-- RGN (R323, R426): the leader of a pair waits until the SSCB is empty and its trailing warp stands at the same RGN. -/
def execRgn (s : State) : Out :=
  if s.curW.hflag then s.illegal (scalarInfo .rgn)
  else
    s.drained fun s =>
      let w := s.curW
      let ready := match s.role with
        | .lead sh =>
          let x := s.wref sh
          x.sscb.isEmpty && x.nS == x.leadS && x.nL == x.leadL && !x.laneBusy && !w.holds
        | _ => true
      if ready then s.retire { w with snapPc := w.pc + 1, snap := w.lane, restarts := 0, inRgn := true } else s.wait

/-- The value of a special register (R427). -/
def specialReg (s : State) (n : Nat) : Nat :=
  let w := s.curW
  let g := s.gridOf w
  let t := s.team w.team
  let r := s.curRef
  match n with
  | 0x00 => w.wid
  | 0x01 => t.t
  | 0x02 => (g.coords t.t).1
  | 0x03 => (g.coords t.t).2.1
  | 0x04 => (g.coords t.t).2.2
  | 0x05 => g.teamSize
  | 0x06 => g.dim.1
  | 0x07 => g.dim.2.1
  | 0x08 => g.dim.2.2
  | 0x09 => r.slot
  | 0x0A => s.passes r.site r.core 0 + 16 * s.passes r.site r.core 1 + 256 * s.passes r.site r.core (pipeOf r.slot)
  | 0x0B => s.logical r.site
  | 0x0C => g.redun + (if g.coop then 4 else 0) + 8 * g.prio + (if g.sec then 32 else 0)
  | 0x0D => w.throt.toNat
  | 0x0E => w.restarts + (if w.inRgn then 4 else 0) + (if w.hflag then 8 else 0)
  | 0x10 => fieldAt g.pkt 0x58 8
  | 0x12 => (s.scrBase t).toNat
  | 0x14 => (s.reg (ctlAddr r.site r.core 0x20)).toNat
  | 0x16 => (s.timeAt r.site).toNat
  | 0x18 => s.curCore.clk
  | 0x20 => w.tcause.toNat
  | 0x21 => w.tpc.toNat
  | 0x22 => w.tlpc.toNat
  | 0x24 => w.tamask.toNat
  | 0x26 => w.tfmask.toNat
  | 0x28 => w.taddr.toNat
  | _ => (FMap.get 0 w.tinfo (n - 0x30)).toNat

/-- SREAD (R427): a trailing warp takes the value from the LVQ (R314). -/
def execSread (d : BitVec 6) (num : BitVec 14) (s : State) : Out :=
  s.outside (specialReg s num.toNat) fun t v =>
    t.retire (if wideReg num then t.curW.wrPair d (BitVec.ofNat 64 v) else t.curW.wr d (BitVec.ofNat 32 v))

/-- SWRITE (R427, R341): TPC, TLPC and TAMASK take the value; a register with no writable field keeps its own. -/
def execSwrite (a : BitVec 6) (num : BitVec 14) (s : State) : Out :=
  if !s.curW.hflag then s.illegal (scalarInfo (.swrite a num))
  else
    let regs := if wideReg num then [a, a + 1] else [a]
    let act (t : State) : Out :=
      let w := t.curW.leave
      t.retire (match num.toNat with
        | 0x21 => { w with tpc := w.rd a }
        | 0x22 => { w with tlpc := w.rdPair a }
        | 0x24 => { w with tamask := w.rdPair a }
        | _ => w)
    s.matched regs (.swrite a num) act act

/-- TRAP (R428). -/
def execTrap (code : BitVec 20) (s : State) : Out :=
  s.drained fun s => (s.setW s.curW.leave).trap (scalarTrap 13 (code.toNat % 2 ^ 16) 0 [])

/-- ERET (R343, R429). -/
def execEret (s : State) : Out :=
  if !s.curW.hflag then s.illegal (scalarInfo .eret)
  else s.drained fun s => .next ((s.setW (eretWarp s.curW)).counted false)

/-- The warp ends (R430): its release at system scope, its place in the team, and its THROT count in the grid's total
(R221). -/
def exitWarp (s : State) : State :=
  let r := s.curRef
  let w := s.curW
  let s1 := releaseAct s r.site r.core 5
  let s2 := endWarp s1 r
  let t := s2.team w.team
  let t1 : Team :=
    if w.shadow then { t with shSlots := t.shSlots.filter fun k => k != r.slot, exits := t.exits + 1 }
    else { t with slots := t.slots.filter fun k => k != r.slot, exits := t.exits + 1 }
  let g := s2.grid t.g
  (s2.setTeam w.team t1).setGrid t.g { g with throt := satAdd 32 g.throt w.throt.toNat }

/-- EXIT (R430): in a pair the leader ends once its trailing warp stands at EXIT too. -/
def execExit (s : State) : Out :=
  s.drained fun s =>
    let w := s.curW
    if !w.ops.isEmpty then s.wait
    else
      s.reporting none true <|
        let there := match s.role with
          | .lead sh => let x := s.wref sh; x.nS == x.leadS && x.nL == x.leadL && !x.laneBusy && x.sscb.isEmpty
          | _ => true
        if !there then s.wait
        else
          let sig := crc64 ((List.range 63).flatMap fun k => leBytes 4 (FMap.get 0 w.s k).toNat)
          s.checked false sig.toNat w.pc.toNat fun t => .next (exitWarp (t.counted false))

end Sys2Proof.Machine
end

