-- ==== Sys2Proof/Machine/ScalarMem.lean ====
section
/-! DEFINITION. The memory accesses of the scalar stream (R410 to R413). -/
namespace Sys2Proof.Machine

/-- The address of SLD and SST: the pair and the signed offset in access sizes (R411). -/
def scalarAddr (w : Warp) (a : BitVec 6) (off : BitVec 8) (size : Nat) : DWord :=
  w.rdPair a + off.signExtend 64 * BitVec.ofNat 64 size
/-- The access size of a mode (R410). -/
def modeSize (mode : BitVec 6) : Nat := 2 ^ (mode.extractLsb' 0 2).toNat

/-- A scalar load has its value, or its failure: the record on path LOAD with a free value, or the error the warp consumes
(R331, R412, R346). `k` goes on with the value. -/
def State.loaded (s : State) (va : DWord) (t : Tr) (size v st : Nat) (k : State → Nat → Out) : Out :=
  if st = stPoison then .next (consume s s.curRef s.curW.pc.toNat (if t.kind == .localMem then t.pa else 0))
  else
    let w := s.curW
    let o : AsyncOp := { opNew w 0 w.pc with base := va, len := size }
    let w1 := { w with tag := w.tag + 1 }
    if st = stOk then (s.setW w1).outside v k
    else ((s.setW (addRec w1 (recOf o 8 st va 0))).fresh).outside (s.any 0) k

/-- A trailing warp takes the value of a scalar load from the LVQ and counts the operation (R314, R344); its region has ended where its
leader's has (R324). -/
def State.trailLoad (s : State) (k : State → Nat → Out) : Out :=
  s.outside 0 fun t v => k (t.setW (t.follow { t.curW with tag := t.curW.tag + 1 })) v

/-- SLD (R411, R412): a trailing warp takes the value from the LVQ. As every access here it waits while its core may make no more
requests (R56). -/
def execSld (d a mode : BitVec 6) (off : BitVec 8) (s : State) : Out :=
  let size := modeSize mode
  let acq := mode.getLsbD 2
  let scope := (mode.extractLsb' 3 3).toNat
  let put (ok : Bool) (t : State) (v : Nat) : Out :=
    let w := if acq && ok then t.curW.leave else t.curW
    t.retire (if size = 8 then w.wrPair d (BitVec.ofNat 64 v) else w.wr d (BitVec.ofNat 32 v))
  match s.role with
  | .trail _ => s.trailLoad (put false)
  | _ =>
    if !decide (s.curW.recs.length < 16) || !seqRoom s s.cur.site s.cur.core false 1 then s.wait
    else
      let va := scalarAddr s.curW a off size
      s.scalarAcc va size .load fun s1 t =>
        let s2 := if acq then acquireAct s1 s.cur.site s.cur.core scope else s1
        let (s3, v, st) := doLoad s2 (s.who s.curRef) t size 0
        s3.loaded va t size v st (put (st == stOk))

/-- SST (R411, R412): it raises the STORE counter and completes at issue. A release waits for the writes of the runs that a draining
instruction has ended (R290, R297). -/
def execSst (d a mode : BitVec 6) (off : BitVec 8) (s : State) : Out :=
  let size := modeSize mode
  let w := s.curW
  let va := scalarAddr w a off size
  let data := (if size = 8 then (w.rdPair d).toNat else (w.rd d).toNat) % 2 ^ (8 * size)
  let sig := signature [(va.toNat, data, 2 ^ size - 1)] (leBytes 4 (encodeScalar (.sst d a mode off)).toNat)
  let rel := mode.getLsbD 2
  match s.role with
  | .trail _ => let t := s.giveSig false sig; t.retire { t.curW with tag := t.curW.tag + 1 }
  | role =>
    let room := match role with | .lead sh => sscbRoom s sh | _ => true
    if !w.canIssue 1 || !room || !seqRoom s s.cur.site s.cur.core false 1 || (rel && w.owesEnded) then s.wait
    else
      s.scalarAcc va size .store fun s1 t =>
        let x : LaneRes := { lane := 0, va := va, tr := t, size := size, val := BitVec.ofNat 256 data, status := stOk }
        let o : AsyncOp :=
          { opNew w 1 w.pc with res := [x], op := 1, order := if rel then 2 else 0, scope := (mode.extractLsb' 3 3).toNat,
                                base := va, len := size }
        let s2 := issueOp s1 s.curRef o sig (.sst d a mode off)
        s2.retire s2.curW

/-- A load of a constant: a single or a pair in one access, a quad in two of 8 bytes (R413); the first failure is its status. -/
def constLoad (s : State) (who : Who) (t : Tr) (n : Nat) : State × Nat × Nat :=
  if n = 4 then
    let (s1, v, st) := doLoad s who t 8 0
    let (s2, x, st2) := doLoad s1 who { t with pa := t.pa + 8 } 8 0
    (s2, v + 2 ^ 64 * x, if st = stOk then st2 else st)
  else doLoad s who t (4 * n) 0

/-- SLDC (R413): a load from the kernel's data section. -/
def execSldc (d a : BitVec 6) (off : BitVec 12) (wd : BitVec 2) (s : State) : Out :=
  let n := 2 ^ wd.toNat
  let w := s.curW
  let t := s.team w.team
  let o := (w.rd a).toNat + 4 * off.toNat
  let va := BitVec.ofNat 64 (t.dataVa + o)
  let put (u : State) (v : Nat) : Out :=
    u.retire ((List.range n).foldl (fun (x : Warp) i => x.wr (d + BitVec.ofNat 6 i) (wordOf v i)) u.curW)
  match s.role with
  | .trail _ => s.trailLoad put
  | _ =>
    if !decide (w.recs.length < 16) || !seqRoom s s.cur.site s.cur.core false 2 then s.wait
    else if o % (4 * n) ≠ 0 then s.trap (scalarTrap 6 0 va [])
    else if t.dataVa = 0 || t.dlen < o + 4 * n then s.trap (scalarTrap 5 0 va [])
    else
      s.scalarAcc va (4 * n) .load fun s1 tr =>
        let (s2, v, st) := constLoad s1 (s.who s.curRef) tr n
        s2.loaded va tr (4 * n) v st put

end Sys2Proof.Machine
end

