-- ==== Sys2Proof/Machine/Engines.lean ====
section
/-! DEFINITION. The engine commands of the scalar stream and the engines behind them: descriptors and their checks, the
stream feeder, the copy engine with COPY, COPY.RESUME and NBR, completion objects and records, and LAUNCH (R176, R177, R264,
R306, R307, R348, R496 to R505). -/
namespace Sys2Proof.Machine

/-- Read `n` pieces of 32 bytes from a translated address on: the bytes and the worst status (R497). -/
def readPieces (s : State) (who : Who) (t : Tr) : Nat → State × Nat × Nat
  | 0 => (s, 0, stOk)
  | n + 1 =>
    let (s1, v, st) := doLoad s who t 32 0
    let (s2, x, st2) := readPieces s1 who { t with pa := t.pa + 32 } n
    (s2, v + 2 ^ 256 * x, if st = stOk then st2 else st)

/-- What a command has read (R331, R346, R497): an error that the warp consumes, or a failure, which makes a record under the tag that
the command takes and leaves its values free. -/
def State.commandRead (s : State) (va : DWord) (t : Tr) (len v st : Nat) (k : State → Nat → Out) : Out :=
  if st = stPoison then .next (consume s s.curRef s.curW.pc.toNat (if t.kind == .localMem then t.pa else 0))
  else if st = stOk then k s v
  else
    let w := s.curW
    let o : AsyncOp := { opNew w 0 w.pc with base := va, len := len }
    k ((s.setW (addRec w (recOf o 8 st va 0))).fresh) (s.any 0)
/-- Read a command's descriptor or packet (R497): aligned to its `32 n` bytes, as an access of the scalar stream. -/
def State.descAt (s : State) (va : DWord) (t : Tr) (n : Nat) (k : State → Nat → Out) : Out :=
  let (s2, v, st) := readPieces s (s.who s.curRef) t n
  s2.commandRead va t (32 * n) v st k
/-- The same with the range checked and translated first. -/
def State.descriptor (s : State) (va : DWord) (n : Nat) (k : State → Nat → Out) : Out :=
  s.scalarAcc va (32 * n) .load fun s1 t => s1.descAt va t n k

/-- The offset of the first failing byte of a list of checks in ascending offsets (R497). -/
def firstBad (l : List (Nat × Bool)) : Option Nat := (l.find? fun x => x.2).map fun x => x.1
/-- Checks that the bytes of a range of a descriptor are zero. -/
def zeroBytes (d off n : Nat) : List (Nat × Bool) :=
  (List.range n).map fun i => (off + i, d / 2 ^ (8 * (off + i)) % 256 != 0)
/-- `n` bytes of a descriptor. -/
def dfield (d off n : Nat) : Nat := d / 2 ^ (8 * off) % 2 ^ (8 * n)
/-- A signed 8-byte field of a descriptor. -/
def dsigned (d off : Nat) : Int := (BitVec.ofNat 64 (dfield d off 8)).toInt

/-- Bytes of an element of a FEED's rows (R499, R500): of the stream's elements, or of the format weights expand to. -/
def feedSize (d : Nat) (fb : BitVec 128) : Nat :=
  if dfield d 0x12 1 = 0 then 2 ^ dfield d 0x11 1 else fmtBits (fb.extractLsb' 4 4).toNat / 8
/-- COUNT i of a FEED. -/
def feedCount (d i : Nat) : Nat := dfield d (0x18 + 4 * i) 4
/-- Elements of a FEED's stream. -/
def feedElems (d : Nat) : Nat := feedCount d 0 * feedCount d 1 * feedCount d 2 * feedCount d 3
/-- Elements of a row. -/
def feedPerRow (d : Nat) (fb : BitVec 128) : Nat := 384 / max 1 (feedSize d fb)
/-- Rows of a FEED's stream. -/
def feedRows (d : Nat) (fb : BitVec 128) : Nat := (feedElems d + feedPerRow d fb - 1) / feedPerRow d fb

/-- What is wrong with a FEED descriptor, or with its format block (R497, R499). -/
def feedBad (d : Nat) (fb : BitVec 128) : Option Nat :=
  let wf := dfield d 0x12 1
  let esz := 2 ^ min 3 (dfield d 0x11 1)
  let plain := wf == 0
  let bf := (fb.extractLsb' 4 4).toNat
  let rows := if plain then (feedElems d + 384 / esz - 1) / (384 / esz) else feedRows d fb
  match firstBad ([(0x00, plain && dfield d 0 8 % esz != 0), (0x10, decide (7 < dfield d 0x10 1)),
      (0x11, if wf == 10 || wf == 11 then dfield d 0x11 1 != 0 else decide (3 < dfield d 0x11 1)), (0x12, !(wf == 0 || wf == 10 || wf == 11))] ++
      zeroBytes d 0x13 5 ++
      (List.range 4).map (fun i => (0x18 + 4 * i, feedCount d i == 0 || decide (2 ^ 24 < feedCount d i) || (i == 0 && decide (2 ^ 20 < rows)))) ++
      (List.range 4).map (fun i => (0x28 + 8 * i, plain && dfield d (0x28 + 8 * i) 8 % esz != 0)) ++ zeroBytes d 0x48 56) with
  | some o => some o
  | none =>
    if plain then none
    else if (fb.extractLsb' 0 4).toNat ≠ wf || !(bf == 3 || bf == 4 || bf == 5) then some 0x80
    else if fb.extractLsb' 14 2 = 3 then some 0x81
    else none

/-- What is wrong with a COPY descriptor (R501). -/
def copyBad (d : Nat) : Option Nat :=
  let len := dfield d 0x10 8
  firstBad ((0x10, len == 0 || decide (2 ^ 40 < len)) :: zeroBytes d 0x20 32)
/-- What is wrong with an NBR descriptor (R503). -/
def nbrBad (d : Nat) : Option Nat :=
  let len := dfield d 0x18 8
  firstBad ([(0x00, dfield d 0 8 % 4 != 0), (0x08, dfield d 8 8 % 4 != 0), (0x10, dfield d 0x10 8 % 4 != 0),
    (0x18, len == 0 || len % 4 != 0 || decide (2 ^ 32 < len)), (0x28, dfield d 0x28 8 % 4 != 0),
    (0x30, decide (3 < dfield d 0x30 1)), (0x31, decide (2 < dfield d 0x31 1))] ++ zeroBytes d 0x32 14)

/-- The chunk of a COPY that holds byte offset `off`: its first and its end offset (R348). -/
def chunkOf (dst len off : Nat) : Nat × Nat :=
  let a := (dst + off) / 4096 * 4096
  (if a ≤ dst then 0 else a - dst, min len (a + 4096 - dst))

/-- Whether the SSCB of a pair has a place for a command that is compared (R318). -/
def State.commandRoom (s : State) (compare : Bool) : Bool :=
  match s.role, compare with | .lead sh, true => sscbRoom s sh | _, _ => true
/-- Hand a command to its engine (R497, R306): its release at its scope, its counter and tag; the leader of a pair holds it
in the SSCB. -/
def State.handOver (s : State) (path scope : Nat) (e : EngOp) (regs : List (BitVec 6)) (i : Instr) (compare : Bool) : Out :=
  let r := s.curRef
  let w := s.curW
  let put (t : State) (x : EngOp) : State :=
    if path = 2 then (let c := t.core r.site r.core; t.setCore r.site r.core { c with feeds := c.feeds ++ [x] })
    else (let d := t.die r.site; t.setDie r.site { d with copies := d.copies ++ [x] })
  let o : AsyncOp := { opNew w path w.pc with engine := true, scope := scope }
  match s.role, compare with
  | .lead sh, true =>
    if !sscbRoom s sh then s.wait
    else
      let s1 := put s { e with tag := w.tag, held := true }
      let s2 := pushSscb s1 sh { lane := false, sig := regSig w regs i, ins := i, pc := w.pc, tag := w.tag, path := path, ready := true, matched := false }
      s2.retire (s2.curW.enter { o with held := true })
  | _, _ =>
    let s1 := put (releaseAt s r.site r.core r.slot scope none) { e with tag := w.tag, held := false }
    s1.retire (s1.curW.enter o).leave

/-- Release a held engine command of the leader (R316): its release and its engine's start, which end the region of both (R324). -/
def releaseEngine (s : State) (r : WRef) (tag : BitVec 16) : State :=
  match (s.wref r).ops.find? fun o => o.tag == tag && o.held && o.engine with
  | none => s
  | some o =>
    let s1 := releaseAt s r.site r.core r.slot o.scope none
    let go (e : EngOp) : EngOp := if e.w == r && e.tag == tag then { e with held := false } else e
    let c := s1.core r.site r.core
    let s2 := s1.setCore r.site r.core { c with feeds := c.feeds.map go }
    let d := s2.die r.site
    let s3 := leaveMate (s2.setDie r.site { d with copies := d.copies.map go }) r
    let w := s3.wref r
    s3.setWref r { w.leave with ops := w.ops.map fun x => if x.tag == tag && x.held then { x with held := false } else x }

/-- A command's engine operation before it starts. -/
def State.engNew (s : State) (k : EngKind) (d : Nat) (fb : BitVec 128) (scope : Nat) : EngOp :=
  let g := s.gridOf s.curW
  { w := s.curRef, tag := 0, kind := k, desc := BitVec.ofNat 1024 d, fb := fb, scope := scope, root := g.root, sec := g.sec,
    nbr := none, tile := none, fin := false, pos := 0, stop := none, held := false }

/-- The trailing warp of a pair gives its signature of an engine command and performs nothing (R507, R316); a FEED raises its counter
(R249), which falls with that of its leader. -/
def State.trailEngine (s : State) (regs : List (BitVec 6)) (i : Instr) (feed : Bool) : Out :=
  let t := s.giveSig false (regSig s.curW regs i)
  let w := t.curW
  t.retire (if feed then w.enter { opNew w 2 w.pc with engine := true } else { w with tag := w.tag + 1 })

/-- FEED (R496, R497, R499): under FAR each warp of a pair feeds its own core, uncompared (R312). Its release waits for the writes that
it publishes (R290, R297, R306). -/
def execFeed (a b : BitVec 6) (scope : BitVec 3) (s : State) : Out :=
  let w := s.curW
  let far := (s.gridOf w).redun == 2
  let regs := if a < b then [a, a + 1, b, b + 1, b + 2, b + 3] else if a = b || a = b + 2 then [b, b + 1, b + 2, b + 3]
    else [b, b + 1, b + 2, b + 3, a, a + 1]
  match s.role, far with
  | .trail _, false => s.trailEngine regs (.feed a b scope) true
  | _, _ =>
    if !w.canIssue 2 || decide (16 ≤ s.curCore.feeds.length) || !seqRoom s s.cur.site s.cur.core false 4 || w.owesEnded ||
        !s.commandRoom (!far) then s.wait
    else
      s.descriptor (w.rdPair a) 4 fun s1 d =>
        let fb : BitVec 128 := w.rd (b + 3) ++ w.rd (b + 2) ++ w.rd (b + 1) ++ w.rd b
        match feedBad d fb with
        | some o => s1.illegal [BitVec.ofNat 32 o]
        | none => s1.handOver 2 scope.toNat (s1.engNew .feed d fb scope.toNat) regs (.feed a b scope) (!far)

/-- The address of descriptor `b` of COPY and NBR (R496). -/
def copyDesc (w : Warp) (a b : BitVec 6) : DWord := w.rdPair a + BitVec.ofNat 64 (64 * (w.rd b).toNat)
/-- The registers COPY and NBR read, ascending. -/
def copyRegs (a b : BitVec 6) : List (BitVec 6) := if b < a then [b, a, a + 1] else if b = a || b = a + 1 then [a, a + 1] else [a, a + 1, b]

/-- A command of the copy engines: a wait while the engines' queue is full, then its descriptor (R497). -/
def State.copyCmd (s : State) (a b : BitVec 6) (i : Instr) (k : State → Nat → Out) : Out :=
  match s.role with
  | .trail _ => s.trailEngine (copyRegs a b) i false
  | _ =>
    if !s.curW.canIssue 3 || decide (64 ≤ (s.die s.cur.site).copies.length) || !seqRoom s s.cur.site s.cur.core false 4 ||
        s.curW.owesEnded || !s.commandRoom true then s.wait
    else s.descriptor (copyDesc s.curW a b) 2 k

/-- COPY (R501). -/
def execCopy (a b : BitVec 6) (scope : BitVec 3) (s : State) : Out :=
  s.copyCmd a b (.copy a b scope) fun s1 d =>
    match copyBad d with
    | some o => s1.illegal [BitVec.ofNat 32 o]
    | none => s1.handOver 3 scope.toNat (s1.engNew .copy d 0 scope.toNat) (copyRegs a b) (.copy a b scope) true

/-- COPY.RESUME (R502): from the COUNT of its completion object on, which the leader of a pair alone reads. -/
def execCopyResume (a b : BitVec 6) (scope : BitVec 3) (s : State) : Out :=
  s.copyCmd a b (.copyResume a b scope) fun s1 d =>
    match copyBad d with
    | some o => s1.illegal [BitVec.ofNat 32 o]
    | none =>
      let obj := dfield d 0x18 8
      if obj = 0 then s1.illegal [0x18, 1]
      else
        s1.scalarAcc (BitVec.ofNat 64 (obj + 8)) 8 .load fun s2 t =>
          let (s3, v, st) := doLoad s2 (s2.who s2.curRef) t 8 0
          s3.commandRead (BitVec.ofNat 64 (obj + 8)) t 8 v st fun s4 x =>
            let n := x % 2 ^ 64
            let dst := dfield d 8 8
            let len := dfield d 0x10 8
            if len ≤ n then s4.illegal [0x18, 2]
            else if n ≠ 0 && (dst + n) % 4096 ≠ 0 then s4.illegal [0x18, 3]
            else
              s4.handOver 3 scope.toNat { s4.engNew .copy d 0 scope.toNat with pos := n } (copyRegs a b) (.copyResume a b scope) true

/-- Entry DIR of the logical neighbour table for a die: N, E, S, W; none where it reads 0xFFFF (R55, R504). -/
def neighbour (s : State) (site dir : Nat) : Option Nat :=
  let l := s.logical site
  let x := if l < 64 then s.reg (nbrA l) else 0xFFFFFFFFFFFFFFFF
  let n := x.toNat / 2 ^ (48 - 16 * dir) % 2 ^ 16
  if n = 0xFFFF then none else some n

/-- NBR (R503, R504): the neighbour is taken at issue. -/
def execNbr (a b : BitVec 6) (scope : BitVec 3) (s : State) : Out :=
  s.copyCmd a b (.nbr a b scope) fun s1 d =>
    match nbrBad d with
    | some o => s1.illegal [BitVec.ofNat 32 o]
    | none =>
      s1.handOver 3 scope.toNat
        { s1.engNew .nbr d 0 scope.toNat with nbr := neighbour s1 s1.cur.site (dfield d 0x30 1) }
        (copyRegs a b) (.nbr a b scope) true

/-- The level-1 page table that a packet names (R150): bits [14:0] of PTROOT are no part of its address. -/
def rootOf (pkt : BitVec 1024) : Nat := fieldAt pkt 0x70 8 / 2 ^ 15 * 2 ^ 15
/-- A grid as the GCP takes it: its packet, queue, world, root and what it replaces. -/
def Grid.taken (pkt : BitVec 1024) (q : Option Nat) (sec : Bool) (root : Nat) (fallback : Bool) : Grid :=
  { Grid.none with pkt := pkt, q := q, sec := sec, root := root, isFallback := fallback, st := .waiting }

/-- Enter a grid in the GCP's table; what is written to its kernel from now on is a breach (R397). -/
def addGrid (s : State) (g : Grid) : State :=
  { s with hub := { s.hub with grids := FMap.set s.hub.grids s.hub.nextGrid { g with seen := s.wlog.length }, nextGrid := s.hub.nextGrid + 1 } }

/-- LAUNCH (R176, R177, R505): a device-scope release, then the GCP's copy of the packet. -/
def execLaunch (a : BitVec 6) (s : State) : Out :=
  s.drained fun s =>
    let w := s.curW
    let full := decide (256 ≤ (s.hub.grids.filter fun e => e.2.st == .waiting && e.2.q == none).length)
    match s.role with
    | .trail _ => let t := s.giveSig false (regSig w [a, a + 1] (.launch a)); t.retire t.curW
    | _ =>
      if full || w.owes || !seqRoom s s.cur.site s.cur.core false 4 then s.wait
      else
        s.scalarAcc (w.rdPair a) 128 .load fun s0 tr =>
          s0.matched [a, a + 1] (.launch a)
            (fun s1 =>
              let s2 := releaseAct s1 s1.cur.site s1.cur.core 4
              s2.descAt (w.rdPair a) tr 4 fun s3 v =>
                let g := s3.gridOf s3.curW
                let kid := Grid.taken (BitVec.ofNat 1024 v) none g.sec g.root false
                let s4 := addGrid s3 { kid with src := some (s3.curW.team, s3.curW.wid) }
                s4.retire s4.curW.leave)
            (fun t => t.retire t.curW)

/-- Why an access of an engine failed, as DETAIL holds it (R342): its page fault or its status. -/
def vmDetail : Vm → Nat
  | .ok _ => 0
  | .page _ _ => 0x0810
  | .perm => 0x0902
  | .misalign => 0x0901
  | .st x => 0x0900 + x

/-- A page fault of an engine writes its own record (R264). -/
def engFault (s : State) (site : Nat) (sec : Bool) (root va code : Nat) (write : Bool) (v : Vm) : State :=
  match v with
  | .page reason level => reportEngine s site sec va root reason level write code
  | _ => s

/-- Load `n` pieces of `k` bytes for an engine: the bytes, or the address that failed and why. -/
def engLoads (s : State) (who : Who) (root va k : Nat) : Nat → State × Nat × Option (Nat × Vm)
  | 0 => (s, 0, none)
  | n + 1 =>
    match vmLoad s who root va k with
    | (s1, .ok v) => let (s2, x, f) := engLoads s1 who root (va + k) k n; (s2, v + 2 ^ (8 * k) * x, f)
    | (s1, f) => (s1, 0, some (va, f))
/-- Store `n` pieces of `k` bytes for an engine. -/
def engStores (s : State) (who : Who) (root va k val : Nat) : Nat → State × Option (Nat × Vm)
  | 0 => (s, none)
  | n + 1 =>
    match vmStore s who root va k (val % 2 ^ (8 * k)) with
    | (s1, .ok _) => engStores s1 who root (va + k) k (val / 2 ^ (8 * k)) n
    | (s1, f) => (s1, some (va, f))

/-- Bytes of which those at destination addresses inside the source range are free values (R501). -/
def mixOverlap (s : State) (src len dst : Nat) (v : Nat) (n : Nat) : Nat :=
  (List.range n).foldl (fun x i =>
    let b := if src ≤ dst + i && dst + i < src + len then s.any (dst + i) % 256 else v / 2 ^ (8 * i) % 256
    x + b * 2 ^ (8 * i)) 0

/-- The copy engine of the die that performs an operation (R17, R46): the spec does not say which of the two takes it; the model
goes by its tag (log 20). -/
def engCode (e : EngOp) : Nat := 48 + e.tag.toNat % 2

/-- What an engine operation that has ended leaves: bytes or rows done, and the stop with its address, whether it was the
destination operand's, and its DETAIL. -/
structure EngEnd where
  count : Nat
  fail : Option (Nat × Bool × Nat)
  deriving DecidableEq, Repr

/-- The chunks of a COPY from byte offset `off` on, for at most `fuel` chunks (R348, R501). -/
def copyChunks (s : State) (who : Who) (root src dst len k : Nat) : Nat → Nat → State × EngEnd
  | 0, off => (s, { count := off, fail := none })
  | fuel + 1, off =>
    if len ≤ off then (s, { count := len, fail := none })
    else
      let (lo, hi) := chunkOf dst len off
      let n := (hi - off) / k
      match engLoads s who root (src + off) k n with
      | (s1, _, some (va, f)) =>
        (engFault s1 who.site who.sec root va who.core false f, { count := lo, fail := some (va, false, vmDetail f) })
      | (s1, v, none) =>
        let lap := decide (src < dst + len) && decide (dst < src + len)
        let x := if lap then mixOverlap s1 src len (dst + off) v (n * k) else v
        match engStores s1 who root (dst + off) k x n with
        | (s2, some (va, f)) =>
          (engFault s2 who.site who.sec root va who.core true f, { count := lo, fail := some (va, true, vmDetail f) })
        | (s2, none) => copyChunks s2 who root src dst len k fuel hi

/-- The pieces a COPY moves: 16 bytes, 4 bytes or single bytes (R501). -/
def copyPiece (src dst len : Nat) : Nat :=
  if src % 16 = 0 && dst % 16 = 0 && len % 16 = 0 then 16 else if src % 4 = 0 && dst % 4 = 0 && len % 4 = 0 then 4 else 1

/-- An atomic add of an engine to one word (R504): of 32 bits, of the operation's code. -/
def engAdd (s : State) (who : Who) (root va op x : Nat) : State × Vm :=
  match checkVa s who.site none root who.sec (BitVec.ofNat 64 va) 4 .atomic with
  | (s1, .ok t) => let (s2, _, st) := doAtomic s1 who t false op 4 x; (s2, if st = stOk then .ok 0 else .st st)
  | (s1, .perm) => (s1, .perm)
  | (s1, .misalign) => (s1, .misalign)
  | (s1, .page r l) => (s1, .page r l)
/-- Add `n` words one after another. -/
def engAdds (s : State) (who : Who) (root va op val : Nat) : Nat → State × Option (Nat × Vm)
  | 0 => (s, none)
  | n + 1 =>
    match engAdd s who root va op (val % 2 ^ 32) with
    | (s1, .ok _) => engAdds s1 who root (va + 4) op (val / 2 ^ 32) n
    | (s1, f) => (s1, some (va, f))

/-- The elements of an NBR (R504), moved or added at the neighbour's buffer, in the destination chunks of R348: a chunk's elements are
read first, and a stop leaves OFFSET at the chunk's start. `op` is 0 to move, else one more than the code of the addition. -/
def nbrChunks (s : State) (who : Who) (root src dst len op : Nat) : Nat → Nat → State × EngEnd
  | 0, off => (s, { count := off, fail := none })
  | fuel + 1, off =>
    if len ≤ off then (s, { count := len, fail := none })
    else
      let hi := (chunkOf dst len off).2
      let n := (hi - off) / 4
      match engLoads s who root (src + off) 4 n with
      | (s1, _, some (va, f)) =>
        (engFault s1 who.site who.sec root va who.core false f, { count := off, fail := some (va, false, vmDetail f) })
      | (s1, v, none) =>
        match (if op = 0 then engStores s1 who root (dst + off) 4 v n else engAdds s1 who root (dst + off) (op - 1) v n) with
        | (s2, some (va, f)) =>
          (engFault s2 who.site who.sec root va who.core true f, { count := off, fail := some (va, true, vmDetail f) })
        | (s2, none) => nbrChunks s2 who root src dst len op fuel hi

/-- Perform an NBR (R503, R504): its elements, then the add to its flag. The flag's failure reports the flag's address. -/
def performNbr (s : State) (who : Who) (e : EngOp) : State × EngEnd × Bool :=
  let d := e.desc.toNat
  match e.nbr with
  | none => (s, { count := 0, fail := none }, false)
  | some l =>
    let len := dfield d 0x18 8
    let step := l * dfield d 0x10 8
    let op := match dfield d 0x31 1 with | 0 => 0 | 1 => 1 | _ => 13
    let (s1, x) := nbrChunks s who e.root (dfield d 0 8) (dfield d 8 8 + step) len op (len / 4096 + 2) 0
    let flag := dfield d 0x28 8 + step
    if x.fail.isSome || dfield d 0x28 8 = 0 then (s1, x, false)
    else
      match engAdd s1 who e.root flag 0 1 with
      | (s2, .ok _) => (s2, x, false)
      | (s2, f) => (engFault s2 who.site who.sec e.root flag who.core true f,
              { x with fail := some (flag, true, 0x0900 + vmDetail f % 256) }, true)

/-- The requester of a FEED's accesses: the stream feeder, at the issuing core (R283, R498). -/
def feedWho (e : EngOp) : Who := { site := e.w.site, core := e.w.core, slot := 64, sec := e.sec, own := true }

/-- Element `n` of a FEED's stream, or the address and the reason of a stop (R500). -/
def feedElem (s : State) (e : EngOp) (n : Nat) : State × Nat × Option (Nat × Nat) :=
  let d := e.desc.toNat
  let c := feedCount d
  let ix (i : Nat) : Int := ((n / (List.range i).foldl (fun p j => p * c j) 1 % c i : Nat) : Int)
  let o : Int := (List.range 4).foldl (fun (x : Int) i => x + ix i * dsigned d (0x28 + 8 * i)) 0
  let base := dfield d 0 8
  let who := feedWho e
  let load (t : State) (va size : Nat) : State × Nat × Option (Nat × Nat) :=
    match vmLoad t who e.root va size with
    | (t1, .ok v) => (t1, v, none)
    | (t1, f) => (engFault t1 who.site who.sec e.root va who.core false f, 0, some (va, vmDetail f))
  if dfield d 0x12 1 = 0 then load s ((base + o) % 2 ^ 64).toNat (2 ^ dfield d 0x11 1)
  else if o < 0 then (s, 0, some (base, 0x0901))
  else
    let i := o.toNat
    let q4 := dfield d 0x12 1 == 10
    let gl := 32 * 2 ^ (e.fb.extractLsb' 14 2).toNat
    let scale := (e.fb.extractLsb' 80 48).toNat * 128
    match (if q4 then load s ((base + i / 2) % 2 ^ 64) 1 else load s ((base + i / 10 * 4) % 2 ^ 64) 4) with
    | (s1, w, none) =>
      let q : Int := if q4 then (BitVec.ofNat 4 (w / 2 ^ (4 * (i % 2)))).toInt else (BitVec.ofNat 3 (w / 2 ^ (3 * (i % 10)))).toInt
      (match load s1 ((scale + 2 * (i / gl)) % 2 ^ 64) 2 with
       | (s2, sc, none) => (s2, expandWeight (e.fb.extractLsb' 4 4).toNat q sc, none)
       | r => r)
    | r => r

/-- The elements `n` on of a row, as the row's bytes; `k` elements of `size` bytes. -/
def feedRow (s : State) (e : EngOp) (size : Nat) : Nat → Nat → State × Nat × Option (Nat × Nat)
  | 0, _ => (s, 0, none)
  | k + 1, n =>
    if feedElems e.desc.toNat ≤ n then (s, 0, none)
    else
      match feedElem s e n with
      | (s1, v, none) =>
        let (s2, x, f) := feedRow s1 e size k (n + 1)
        (s2, v + 2 ^ (8 * size) * x, f)
      | r => r

/-- Append a row of 384 bytes at the tail of an operand queue (R279); the watches on its three lines fire (R247). -/
def appendRow (s : State) (site core k row : Nat) : State :=
  let c := s.core site core
  let q := FMap.get OpQueue.none c.queues k
  let a := (0x1C0000 + k * 0xC000 + q.tail * 384) / 4
  let line := lineOf (winAddr site core) + a / 32
  fireWatches
    (s.setCore site core
      { c with words := writeWords c.words a 96 row,
               queues := FMap.set c.queues k { q with tail := (q.tail + 1) % 128, left := q.left + 1, left2 := q.left2 + 1 } })
    fun key w => key / 64 == coreKey site core && (watches line w || watches (line + 1) w || watches (line + 2) w)

/-- The AsyncOp of an engine operation takes what its record will hold. -/
def noteStop (s : State) (r : WRef) (tag : BitVec 16) (base len off addr detail : Nat) (dst : Bool) : State :=
  let w := s.wref r
  let x : LaneRes := { lane := 0, va := BitVec.ofNat 64 addr, tr := Tr.zero, size := 0, val := 0, status := 0 }
  s.setWref r { w with ops := w.ops.map fun o =>
    if o.tag == tag && o.engine then
      { o with base := BitVec.ofNat 64 base, len := len, off := off, cause := 11, detail := detail + (if dst then 2 ^ 16 else 0), res := [x] }
    else o }

/-- The oldest FEED of a core into a queue that has not ended (R500). -/
def feedFor (c : Core) (k : Nat) : Option EngOp :=
  c.feeds.find? fun e => !e.fin && dfield e.desc.toNat 0x10 1 == k

/-- Append the next row of the oldest FEED into a queue that has room (R279, R500), once its core can make the requests of the row
(R56); before its first access comes the acquire of its fork edge (R306). -/
def feedStep (s : State) (site core k : Nat) : State :=
  let c := s.core site core
  match feedFor c k with
  | none => s
  | some e =>
    let d := e.desc.toNat
    let size := feedSize d e.fb
    if e.held || decide (128 ≤ (FMap.get OpQueue.none c.queues k).count) || !seqRoom s site core false (2 * feedPerRow d e.fb) then s
    else
      let rows := feedRows d e.fb
      let upd (t : State) (f : EngOp → EngOp) : State :=
        let c := t.core site core
        t.setCore site core { c with feeds := c.feeds.map fun x => if x.w == e.w && x.tag == e.tag then f x else x }
      match feedRow (if e.pos = 0 then acquireAct s site core e.scope else s) e size (feedPerRow d e.fb) (e.pos * feedPerRow d e.fb) with
      | (s1, row, none) =>
        let s2 := appendRow s1 site core k row
        upd s2 fun x => { x with pos := e.pos + 1, fin := decide (rows ≤ e.pos + 1) }
      | (s1, _, some (va, detail)) =>
        noteStop (upd s1 fun x => { x with fin := true, stop := some detail }) e.w e.tag (dfield d 0 8) (rows * 384)
          (e.pos * 384) va detail false

/-- The completion object of an engine operation (R498). -/
def engObject (e : EngOp) : Nat :=
  match e.kind with
  | .feed => dfield e.desc.toNat 8 8
  | .copy => dfield e.desc.toNat 0x18 8
  | .nbr => dfield e.desc.toNat 0x20 8
  | .flush => 0

/-- The FEED counter of a NEAR pair's trailing warp falls by `k`, as its leader's has (R507). -/
def followFeeds (s : State) (r : WRef) (k : Nat) : State :=
  match roleOf (s.wref r) with
  | .lead sh =>
    if (s.gridOf (s.wref r)).redun = 1 then
      let w := s.wref sh
      let gone := (w.ops.filter fun o => o.path == 2).take k
      s.setWref sh { w with ops := w.ops.filter fun o => !gone.contains o, cnt := FMap.put 0 w.cnt 2 (w.count 2 - gone.length) }
    else s
  | _ => s

/-- An engine operation ends (R307, R348, R498): its record where it stopped, its completion object, and its counter. -/
def engineEnd (s : State) (who : Who) (e : EngOp) (count : Nat) (detail : Nat) : State :=
  let w := s.wref e.w
  let op := w.ops.find? fun o => o.tag == e.tag && o.engine
  let s1 := match op with
    | some o =>
      if detail = 0 then s
      else s.setWref e.w (addRec w (recOf o 11 detail (match o.res with | x :: _ => x.va | [] => 0) 0))
    | none => s
  let status := if detail = 0 then 1 else detail / 256
  let obj := engObject e
  let s2 :=
    if obj = 0 then s1
    else
      match writeCplobj s1 who e.root obj status 0 count with
      | (t, .ok _) => t
      | (t, f) =>
        let t1 := engFault t who.site who.sec e.root obj who.core true f
        match op with
        | some o =>
          t1.setWref e.w (addRec (t1.wref e.w)
            (recOf { o with base := BitVec.ofNat 64 obj, len := 32, off := 0, detail := 2 ^ 16 } 11 (0x0900 + vmDetail f % 256)
              (BitVec.ofNat 64 obj) 0))
        | none => t1
  let w2 := s2.wref e.w
  let w3 := { w2 with ops := w2.ops.map fun o => if o.tag == e.tag && o.engine then { o with engine := false, cause := 0, res := [], dst := none } else o }
  let s3 := completeOp (s2.setWref e.w w3) e.w e.tag
  followFeeds s3 e.w (w3.count 2 - (s3.wref e.w).count 2)

/-- Drop an engine operation from its queue. -/
def dropEng (s : State) (e : EngOp) : State :=
  let same (x : EngOp) : Bool := x.w == e.w && x.tag == e.tag
  let c := s.core e.w.site e.w.core
  let s1 := s.setCore e.w.site e.w.core { c with feeds := c.feeds.filter fun x => !same x }
  let d := s1.die e.w.site
  s1.setDie e.w.site { d with copies := d.copies.filter fun x => !same x }

/-- Perform a COPY or NBR whole, or end a FEED whose rows are all appended or that has stopped. -/
def engineRun (s : State) (e : EngOp) : State :=
  let d := e.desc.toNat
  match e.kind with
  | .feed => if e.fin then engineEnd (dropEng s e) (feedWho e) e e.pos (match e.stop with | some x => x | none => 0) else s
  | .copy =>
    let who := dieWho e.w.site (engCode e) e.sec
    let src := dfield d 0 8
    let dst := dfield d 8 8
    let len := dfield d 0x10 8
    let (s1, x) := copyChunks s who e.root src dst len (copyPiece src dst len) (len / 4096 + 2) e.pos
    let s2 := match x.fail with
      | some (va, isDst, detail) => noteStop s1 e.w e.tag (if isDst then dst else src) len x.count va detail isDst
      | none => s1
    engineEnd (dropEng s2.fresh e) who e x.count (match x.fail with | some f => f.2.2 | none => 0)
  | .nbr =>
    let who := dieWho e.w.site (engCode e) e.sec
    let (s1, x, flag) := performNbr s who e
    let l := match e.nbr with | some l => l | none => 0
    let s2 := match x.fail with
      | some (va, isDst, detail) =>
        if flag then noteStop s1 e.w e.tag va 4 0 va detail true
        else noteStop s1 e.w e.tag (if isDst then dfield d 8 8 + l * dfield d 0x10 8 else dfield d 0 8) (dfield d 0x18 8) x.count va detail isDst
      | none => s1
    engineEnd (dropEng s2 e) who e x.count (match x.fail with | some f => f.2.2 | none => 0)
  | .flush => s

end Sys2Proof.Machine
end

