-- ==== Sys2Proof/Machine/Fetch.lean ====
section
/-! DEFINITION. The fetch of an instruction (R259, R263, R331, R394). -/
namespace Sys2Proof.Machine

/-- What a fetch gives: the instruction's bytes, a PC beyond the code section, a page fault, a refusal at translation, or an
error that the warp consumes, a read that ends with a status other than OK (R50, R331, R394), or a wait for the core's requests
(R56). -/
inductive Fetched where
  | word (v : Nat)
  | beyond
  | page (va : DWord) (reason level : Nat)
  | perm (va : DWord)
  | consumed (pa : Nat)
  | held
  | status (va : DWord) (st : Nat)
  deriving DecidableEq, Repr

/-- Whether bytes of package memory were written while a grid that reads them as its kernel was admitted (R397). -/
def kernelWritten (s : State) (g : Grid) (t : Tr) (n : Nat) : Bool :=
  t.kind == .localMem &&
    (s.wlog.take (s.wlog.length - g.seen)).any fun e => e.1 == lineOf t.pa && e.2 / 2 ^ (t.pa % 128) % 2 ^ n != 0

/-- Fetch `n` pieces of 4 bytes. A fetch reads the coherent copy (log 10); a word written while the grid was admitted is undefined
(R397). -/
def fetchPieces (s : State) (who : Who) (g : Grid) (va : Nat) : Nat → State × Fetched
  | 0 => (s, .word 0)
  | n + 1 =>
    match checkVa s who.site (some who.core) g.root who.sec (BitVec.ofNat 64 va) 4 .fetch with
    | (s1, .page r l) => (s1, .page (BitVec.ofNat 64 va) r l)
    | (s1, .perm) => (s1, .perm (BitVec.ofNat 64 va))
    | (s1, .misalign) => (s1, .perm (BitVec.ofNat 64 va))
    | (s1, .ok t) =>
      let (s2, v, st) := doLoad s1 { who with own := false } t 4 0
      if st = stPoison then (s2, .consumed t.pa)
      else if st ≠ stOk then (s2, .status (BitVec.ofNat 64 va) st)
      else
        let (s3, x) := if kernelWritten s2 g t 4 then (s2.fresh, s2.any 0 % 2 ^ 32) else (s2, v)
        match fetchPieces s3 who g (va + 4) n with
        | (s4, .word y) => (s4, .word (x + 2 ^ 32 * y))
        | e => e

/-- Fetch the instruction at the current turn's PC (R394). -/
def fetch (s : State) : State × Fetched :=
  let w := s.curW
  let t := s.team w.team
  let g := s.gridOf w
  let who := s.who s.curRef
  if !seqRoom s who.site who.core false 3 then (s, .held)
  else match s.cur.lane with
  | none => if t.slen ≤ w.pc.toNat then (s, .beyond) else fetchPieces s who g (t.scode + 4 * w.pc.toNat) 1
  | some one =>
    let pc := (w.lane.slot one).pc.toNat
    if t.llen ≤ pc then (s, .beyond) else fetchPieces s who g (t.lcode + 12 * pc) 3

end Sys2Proof.Machine
end

