-- ==== Sys2Proof/Machine/LaneInt.lean ====
section
/-! DEFINITION. Lane integer arithmetic on singles and pairs (R431 to R439): classes 0x0 and 0x1. -/
namespace Sys2Proof.Machine

/-- SAT of a modifier field (R431). -/
def satOf (m : BitVec 29) : Bool := m.getLsbD 2
/-- U of a modifier field (R431). -/
def natOf (m : BitVec 29) : Bool := m.getLsbD 7
/-- An `n`-bit source read per U (R434). -/
def readU (u : Bool) (n x : Nat) : Int := if !u && x.testBit (n - 1) then (x : Int) - 2 ^ n else x
/-- An exact integer clamped with SAT per U, then written modulo 2^n (R434, R439). -/
def writeU (sat u : Bool) (n : Nat) (x : Int) : Nat :=
  let y := if sat then (if u then clampInt 0 (2 ^ n - 1) x else clampInt (-(2 ^ (n - 1))) (2 ^ (n - 1) - 1) x) else x
  (y % 2 ^ n).toNat

/-- An arithmetic instruction on two sources of `n` bits (R434, R439). -/
def State.intOp2 (s : State) (h : Hdr) (t : Timing) (f : L3) (n : Nat) (op : Int → Int → Int) : Out :=
  let u := natOf f.m
  s.laneOp h t f.d [f.a, f.b] fun e l =>
    writeU (satOf f.m) u n (op (readU u n (srcVal s e f.a l)) (readU u n (srcVal s e f.b l)))
/-- An instruction on the bits of one 32-bit source. -/
def State.bitOp1 (s : State) (h : Hdr) (f : L3) (op : Word → Word) : Out :=
  s.laneOp h tBasic f.d [f.a] fun e l => (op (BitVec.ofNat 32 (srcVal s e f.a l))).toNat
/-- An instruction on the bits of two 32-bit sources. -/
def State.bitOp2 (s : State) (h : Hdr) (f : L3) (op : Word → Word → Word) : Out :=
  s.laneOp h tBasic f.d [f.a, f.b] fun e l =>
    (op (BitVec.ofNat 32 (srcVal s e f.a l)) (BitVec.ofNat 32 (srcVal s e f.b l))).toNat
/-- A shift of a pair by the low 6 bits of a single. -/
def State.pairShift (s : State) (h : Hdr) (f : L3) (op : DWord → Nat → DWord) : Out :=
  s.laneOp h tWide f.d [f.a, f.b] fun e l => (op (BitVec.ofNat 64 (srcVal s e f.a l)) (srcVal s e f.b l % 64)).toNat
/-- A select by the predicate of C (R432, R436). -/
def State.select (s : State) (h : Hdr) (t : Timing) (f : L3) : Out :=
  s.laneOp h t f.d [f.a, f.b] fun e l => if predBit s e f.c l then srcVal s e f.a l else srcVal s e f.b l

/-- IADD (R434). -/
def execIadd (h : Hdr) (f : L3) (s : State) : Out := s.intOp2 h tBasic f 32 (· + ·)
/-- ISUB (R434). -/
def execIsub (h : Hdr) (f : L3) (s : State) : Out := s.intOp2 h tBasic f 32 (· - ·)
/-- IMUL (R434). -/
def execImul (h : Hdr) (f : L3) (s : State) : Out := s.intOp2 h tBasic f 32 (· * ·)
/-- IMULH (R434). -/
def execImulh (h : Hdr) (f : L3) (s : State) : Out := s.intOp2 h tBasic f 32 fun a b => (a * b).fdiv (2 ^ 32)
/-- IMAD (R434). -/
def execImad (h : Hdr) (f : L3) (s : State) : Out :=
  let u := natOf f.m
  s.laneOp h tBasic f.d [f.a, f.b, f.c] fun e l =>
    writeU (satOf f.m) u 32
      (readU u 32 (srcVal s e f.a l) * readU u 32 (srcVal s e f.b l) + readU u 32 (srcVal s e f.c l))
/-- IMIN (R434). -/
def execImin (h : Hdr) (f : L3) (s : State) : Out := s.intOp2 h tBasic f 32 min
/-- IMAX (R434). -/
def execImax (h : Hdr) (f : L3) (s : State) : Out := s.intOp2 h tBasic f 32 max
/-- IABS (R434). -/
def execIabs (h : Hdr) (f : L3) (s : State) : Out :=
  s.laneOp h tBasic f.d [f.a] fun e l => writeU (satOf f.m) false 32 (readU false 32 (srcVal s e f.a l)).natAbs
/-- INEG (R434). -/
def execIneg (h : Hdr) (f : L3) (s : State) : Out :=
  s.laneOp h tBasic f.d [f.a] fun e l => writeU (satOf f.m) false 32 (-readU false 32 (srcVal s e f.a l))
/-- IAND (R435). -/
def execIand (h : Hdr) (f : L3) (s : State) : Out := s.bitOp2 h f (· &&& ·)
/-- IOR (R435). -/
def execIor (h : Hdr) (f : L3) (s : State) : Out := s.bitOp2 h f (· ||| ·)
/-- IXOR (R435). -/
def execIxor (h : Hdr) (f : L3) (s : State) : Out := s.bitOp2 h f (· ^^^ ·)
/-- INOT (R435). -/
def execInot (h : Hdr) (f : L3) (s : State) : Out := s.bitOp1 h f (~~~ ·)
/-- ISHL (R435). -/
def execIshl (h : Hdr) (f : L3) (s : State) : Out := s.bitOp2 h f fun a b => a <<< (b.toNat % 32)
/-- ISHR (R435). -/
def execIshr (h : Hdr) (f : L3) (s : State) : Out := s.bitOp2 h f fun a b => a >>> (b.toNat % 32)
/-- ISRA (R435). -/
def execIsra (h : Hdr) (f : L3) (s : State) : Out := s.bitOp2 h f fun a b => a.sshiftRight (b.toNat % 32)
/-- IROT (R435). -/
def execIrot (h : Hdr) (f : L3) (s : State) : Out := s.bitOp2 h f fun a b => a.rotateLeft (b.toNat % 32)
/-- ISET (R436). -/
def execIset (h : Hdr) (f : L3) (s : State) : Out :=
  s.lanePredOp h tBasic f.d [f.a, f.b] fun e l =>
    cmpInt (cmpOf f.m) (BitVec.ofNat 32 (srcVal s e f.a l)) (BitVec.ofNat 32 (srcVal s e f.b l))
/-- ISEL (R436). -/
def execIsel (h : Hdr) (f : L3) (s : State) : Out := s.select h tBasic f
/-- The number of 1 bits. -/
def popCount (x : Word) : Nat := ((List.range 32).filter fun i => x.getLsbD i).length
/-- POPC (R435). -/
def execPopc (h : Hdr) (f : L3) (s : State) : Out := s.bitOp1 h f fun a => BitVec.ofNat 32 (popCount a)
/-- CLZ (R435). -/
def execClz (h : Hdr) (f : L3) (s : State) : Out :=
  s.bitOp1 h f fun a => BitVec.ofNat 32 (if a = 0 then 32 else 31 - Nat.log2 a.toNat)
/-- BREV (R435). -/
def execBrev (h : Hdr) (f : L3) (s : State) : Out := s.bitOp1 h f fun a => maskOf fun i => a.getLsbD (31 - i)
/-- Position and length of a field specification (R437). -/
def fieldSpec (b : Nat) : Nat × Nat := (b % 32, min (b / 256 % 64) (32 - b % 32))
/-- BFX (R437). -/
def execBfx (h : Hdr) (f : L3) (s : State) : Out :=
  s.laneOp h tBasic f.d [f.a, f.b] fun e l =>
    let (pos, n) := fieldSpec (srcVal s e f.b l)
    if n = 0 then 0 else writeU false false 32 (readU (natOf f.m) n (srcVal s e f.a l / 2 ^ pos % 2 ^ n))
/-- BFI (R437). -/
def execBfi (h : Hdr) (f : L3) (s : State) : Out :=
  s.laneOp h tBasic f.d [f.a, f.b, f.c] fun e l =>
    let (pos, n) := fieldSpec (srcVal s e f.b l)
    let c := srcVal s e f.c l
    c - c / 2 ^ pos % 2 ^ n * 2 ^ pos + srcVal s e f.a l % 2 ^ n * 2 ^ pos
/-- MOV (R438). -/
def execMov (h : Hdr) (f : L3) (s : State) : Out := s.laneOp h tBasic f.d [f.a] fun e l => srcVal s e f.a l
/-- MOVI (R438). -/
def execMovi (h : Hdr) (f : LI) (s : State) : Out := s.laneOp h tBasic f.d [] fun _ _ => f.imm.toNat

/-- LADD (R439). -/
def execLadd (h : Hdr) (f : L3) (s : State) : Out := s.intOp2 h tWide f 64 (· + ·)
/-- LSUB (R439). -/
def execLsub (h : Hdr) (f : L3) (s : State) : Out := s.intOp2 h tWide f 64 (· - ·)
/-- LSHL (R439). -/
def execLshl (h : Hdr) (f : L3) (s : State) : Out := s.pairShift h f fun a n => a <<< n
/-- LSHR (R439). -/
def execLshr (h : Hdr) (f : L3) (s : State) : Out := s.pairShift h f fun a n => a >>> n
/-- LSRA (R439). -/
def execLsra (h : Hdr) (f : L3) (s : State) : Out := s.pairShift h f fun a n => a.sshiftRight n
/-- LSET (R439). -/
def execLset (h : Hdr) (f : L3) (s : State) : Out :=
  s.lanePredOp h tWide f.d [f.a, f.b] fun e l =>
    cmpInt (cmpOf f.m) (BitVec.ofNat 64 (srcVal s e f.a l)) (BitVec.ofNat 64 (srcVal s e f.b l))
/-- LMIN (R439). -/
def execLmin (h : Hdr) (f : L3) (s : State) : Out := s.intOp2 h tWide f 64 min
/-- LMAX (R439). -/
def execLmax (h : Hdr) (f : L3) (s : State) : Out := s.intOp2 h tWide f 64 max
/-- LMULW (R439). -/
def execLmulw (h : Hdr) (f : L3) (s : State) : Out :=
  s.laneOp h tWide f.d [f.a, f.b] fun e l =>
    writeU false true 64 (readU (natOf f.m) 32 (srcVal s e f.a l) * readU (natOf f.m) 32 (srcVal s e f.b l))
/-- LSEL (R439). -/
def execLsel (h : Hdr) (f : L3) (s : State) : Out := s.select h tWide f

end Sys2Proof.Machine
end

