-- ==== Sys2Proof/Machine/Sfu.lean ====
section
/-! DEFINITION. The special functions (R448 to R450). SQRT is exact. Every other form encloses the exact value between
two rationals and gives a value of the format within the form's bound of it, which one being free (log 11): the part
fixes one function of the source bits (R433), and the spec states its bound alone. -/
namespace Sys2Proof.Machine

/-- Newton's iteration for the integer square root, for at most `fuel` steps. -/
def isqrtFrom (n : Nat) : Nat → Nat → Nat
  | 0, x => x
  | fuel + 1, x => let y := (x + n / x) / 2; if y < x then isqrtFrom n fuel y else x

/-- The integer square root. -/
def isqrt (n : Nat) : Nat := if n = 0 then 0 else isqrtFrom n 64 (2 ^ (Nat.log2 n / 2 + 1))

/-- Fraction bits of the fixed-point numbers of this file. -/
def fixBits : Nat := 400
/-- One, in fixed point. -/
def fixOne : Int := 2 ^ fixBits

/-- `Σ z^(2k+1) / (2k+1)` with the sign alternating or not: `t` is the current power, `k` the current odd number. -/
def oddSeries (alt : Bool) (z2 : Int) : Nat → Int → Nat → Int
  | 0, _, _ => 0
  | fuel + 1, t, k => t / k + oddSeries alt z2 fuel ((if alt then -t else t) * z2 / fixOne) (k + 2)

/-- `Σ t · x^j / ((k+1)…)`: the exponential series from its term `t` on. -/
def expSeries (x : Int) : Nat → Int → Nat → Int
  | 0, _, _ => 0
  | fuel + 1, t, k => t + expSeries x fuel (t * x / fixOne / k) (k + 1)

/-- The sine or cosine series from its term `t` on: each next term is `−t · x² / (k (k+1))`. -/
def trigSeries (x2 : Int) : Nat → Int → Nat → Int
  | 0, _, _ => 0
  | fuel + 1, t, k => t + trigSeries x2 fuel (-(t * x2 / fixOne / (k * (k + 1)))) (k + 2)

/-- ln 2 in fixed point. -/
def fixLn2 : Int := 2 * oddSeries false (fixOne / 9) 130 (fixOne / 3) 1
/-- 2π in fixed point, by Machin's formula. -/
def fixTwoPi : Int :=
  8 * (4 * oddSeries true (fixOne / 25) 90 (fixOne / 5) 1 - oddSeries true (fixOne / 57121) 30 (fixOne / 239) 1)

/-- e^x in fixed point, for 0 ≤ x ≤ 32. -/
def fixExp (x : Int) : Int := expSeries x 200 fixOne 1

/-- A signed rational. -/
structure Rat2 where
  n : Int
  d : Nat
  deriving DecidableEq, Repr

/-- A signed rational rounded in a mode. -/
def Rat2.round (r : Rat2) (f : Fmt) (rm : Nat) : Nat := f.round rm false (.fin (decide (r.n < 0)) r.n.natAbs r.d)

/-- The rational `r` less or plus a bound `b`. -/
def Rat2.shift (r b : Rat2) : Rat2 := { n := r.n * b.d + b.n * r.d, d := r.d * b.d }

/-- `k` units in the last place of a value (R449). -/
def ulps (f : Fmt) (k : Nat) (r : Rat2) : Rat2 :=
  let e : Int := if r.n = 0 then 1 - f.bias else max (exponent r.n.natAbs r.d) (1 - f.bias)
  let q := e - f.mb
  if 0 ≤ q then { n := k * 2 ^ q.toNat, d := 1 } else { n := k, d := 2 ^ (-q).toNat }

/-- The encoding whose place in the order of R369 is `k`. -/
def Fmt.ofKey (f : Fmt) (k : Int) : Nat := if k < 0 then f.pack true (-k - 1).toNat else k.toNat

/-- A value of the format that lies within `b` of every number from `lo` to `hi` and, in order, between two limits; which
one, `pick` says. The exact result is one of those numbers, so no value chosen exceeds the bound of R449. -/
def within (f : Fmt) (lo hi b : Rat2) (kmin kmax : Int) (pick : Nat) : Nat :=
  let neg : Rat2 := { n := -b.n, d := b.d }
  let a := max kmin (min kmax (f.key ((hi.shift neg).round f 3)))
  let z := max a (min kmax (f.key ((lo.shift b).round f 2)))
  f.ofKey (a + (pick : Int) % (z - a + 1))

/-- The place in order of the largest finite value. -/
def Fmt.topKey (f : Fmt) : Int := f.maxMag

/-- A value of the format within `b` of a number whose fixed-point value is `y`, an error of the fixed point below
2^−200 allowed for. -/
def withinFix (f : Fmt) (y b : Rat2) (kmin kmax : Int) (pick : Nat) : Nat :=
  within f (y.shift { n := -1, d := 2 ^ 200 }) (y.shift { n := 1, d := 2 ^ 200 }) b kmin kmax pick

/-- Whether a natural number above 0 is a power of two. -/
def isPow2 (n : Nat) : Bool := n == 2 ^ Nat.log2 n

/-- 1/x within 1 ulp, exact at powers of two in FP32 (R449, R450). -/
def sfuRcp (code : Nat) (sat : Bool) (x pick : Nat) : Nat :=
  let f := fmt code
  match f.read x with
  | .nan => f.nan
  | .inf s => f.pack s 0
  | .fin s n d =>
    if n = 0 then f.inf s
    else if code = 0 && isPow2 n && isPow2 d || decide (f.maxMag < f.roundMag 1 s d n) then f.round 0 sat (.fin s d n)
    else
      let y : Rat2 := { n := if s then -(d : Int) else d, d := n }
      within f y y (ulps f 1 y) (-f.topKey - 1) f.topKey pick

/-- 1/√x within 2 ulp in FP32, 1 ulp in FP64; exact at even powers of two in FP32 (R449, R450). -/
def sfuRsq (code : Nat) (x pick : Nat) : Nat :=
  let f := fmt code
  match f.read x with
  | .nan => f.nan
  | .inf s => if s then f.nan else f.pack s 0
  | .fin s n d =>
    if n = 0 then f.inf s
    else if s then f.nan
    else
      let k := 1200
      let r := isqrt (d * 2 ^ (2 * k) / n)
      let lo : Rat2 := { n := r, d := 2 ^ k }
      let hi : Rat2 := { n := r + 1, d := 2 ^ k }
      if code = 0 && isPow2 n && isPow2 d && r * r * n == d * 2 ^ (2 * k) then lo.round f 0
      else within f lo hi (ulps f (if code = 0 then 2 else 1) lo) 0 f.topKey pick

/-- √x, correctly rounded (R449, R450). -/
def sfuSqrt (rm : Nat) (sat : Bool) (x : Nat) : Nat :=
  let f := fmt 0
  match f.read x with
  | .nan => f.nan
  | .inf s => if s then f.nan else f.inf false
  | .fin s n d =>
    if n = 0 then f.pack s 0
    else if s then f.nan
    else
      let k := 300
      let r := isqrt (n * 2 ^ (2 * k) / d)
      if r * r * d = n * 2 ^ (2 * k) then f.round rm sat (.fin false r (2 ^ k))
      else f.round rm sat (.fin false (2 * r + 1) (2 ^ (k + 1)))

/-- 2^x within 2 ulp, exact at integers whose power is representable (R449, R450). -/
def sfuEx2 (sat : Bool) (x pick : Nat) : Nat :=
  let f := fmt 0
  match f.read x with
  | .nan => f.nan
  | .inf s => if s then 0 else f.inf false
  | .fin s n d =>
    if !s && decide (128 * d ≤ n) then (if sat then f.maxMag else f.inf false)
    else
      let v : Int := if s then -(n : Int) else n
      let i := max (-400) (v / d)
      let y2 (num : Nat) : Rat2 :=
        if 0 ≤ i then { n := num * 2 ^ i.toNat, d := 2 ^ fixBits } else { n := num, d := 2 ^ (fixBits + (-i).toNat) }
      if n % d = 0 && decide (-149 ≤ i) then (y2 (2 ^ fixBits)).round f 0
      else
        let e := fixExp ((v - i * d) * fixLn2 / d)
        let e := if v < -400 * d then fixOne else e
        let y := y2 e.toNat
        within f (y.shift { n := -y.n, d := y.d * 2 ^ 200 }) (y.shift { n := y.n, d := y.d * 2 ^ 200 }) (ulps f 2 y) 0 f.topKey
          pick

/-- log2 x: within 2^−22 for x in [0.5, 2], 2 ulp elsewhere, exact at powers of two (R449, R450). -/
def sfuLg2 (x pick : Nat) : Nat :=
  let f := fmt 0
  match f.read x with
  | .nan => f.nan
  | .inf s => if s then f.nan else f.inf false
  | .fin s n d =>
    if n = 0 then f.inf true
    else if s then f.nan
    else
      let e := exponent n d
      let num := if 0 ≤ e then n else n * 2 ^ (-e).toNat
      let den := if 0 ≤ e then d * 2 ^ e.toNat else d
      if num = den then f.round 0 false (Exact.ofInt e)
      else
        let z := ((num : Int) - den) * fixOne / (num + den)
        let y : Rat2 := { n := e * fixOne + 2 * oddSeries false (z * z / fixOne) 130 z 1 * fixOne / fixLn2, d := 2 ^ fixBits }
        let b := if decide (d ≤ 2 * n) && decide (n ≤ 2 * d) then { n := 1, d := 2 ^ 22 } else ulps f 2 y
        withinFix f y b (-f.topKey - 1) f.topKey pick

/-- The place in order of 1.0. -/
def oneKey : Int := 0x3F800000

/-- sin x or cos x within 2^−21, never above 1.0 in magnitude (R449, R450). -/
def sfuTrig (cosine : Bool) (x pick : Nat) : Nat :=
  let f := fmt 0
  match f.read x with
  | .nan => f.nan
  | .inf _ => f.nan
  | .fin s n d =>
    if n = 0 then (if cosine then 0x3F800000 else f.pack s 0)
    else
      let r := (n * 2 ^ fixBits / d : Nat) % fixTwoPi
      let r2 := r * r / fixOne
      let v := if cosine then trigSeries r2 60 fixOne 1 else trigSeries r2 60 r 2
      let y : Rat2 := { n := if s && !cosine then -v else v, d := 2 ^ fixBits }
      withinFix f y { n := 1, d := 2 ^ 21 } (-oneKey - 1) oneKey pick

/-- tanh x within 2^−21, exactly ±1.0 from magnitude 10 on (R449, R450). -/
def sfuTanh (x pick : Nat) : Nat :=
  let f := fmt 0
  match f.read x with
  | .nan => f.nan
  | .inf s => f.pack s 0x3F800000
  | .fin s n d =>
    if n = 0 then f.pack s 0
    else if 10 * d ≤ n then f.pack s 0x3F800000
    else
      let e := fixExp (2 * (n * 2 ^ fixBits / d : Nat))
      let v := (e - fixOne) * fixOne / (e + fixOne)
      let y : Rat2 := { n := if s then -v else v, d := 2 ^ fixBits }
      withinFix f y { n := 1, d := 2 ^ 21 } (-oneKey - 1) oneKey pick

/-- The special functions by op number (R448): rounding mode, saturate bit and source. -/
def sfu (op rm : Nat) (sat : Bool) (x : Nat) : Nat :=
  let pick := Config.sfu op (BitVec.ofNat 64 x)
  match op with
  | 0 => sfuRcp 0 sat x pick
  | 1 => sfuRsq 0 x pick
  | 2 => sfuSqrt rm sat x
  | 3 => sfuEx2 sat x pick
  | 4 => sfuLg2 x pick
  | 5 => sfuTrig false x pick
  | 6 => sfuTrig true x pick
  | 7 => sfuTanh x pick
  | 8 => sfuRcp 1 sat x pick
  | _ => sfuRsq 1 x pick

end Sys2Proof.Machine
end

