-- ==== Sys2Proof/Machine/LaneFp.lean ====
section
/-! DEFINITION. Lane floating point, paired half precision, conversion, packing and the special functions (R440 to R450):
classes 0x2 to 0x6. -/
namespace Sys2Proof.Machine

/-- RM of a modifier field (R431). -/
def rmOf (m : BitVec 29) : Nat := (m.extractLsb' 0 2).toNat

/-- A rounding instruction on two sources of a format, read as encodings. -/
def State.fpOp2 (s : State) (h : Hdr) (t : Timing) (f : L3) (op : Nat → Nat → Nat) : Out :=
  s.laneOp h t f.d [f.a, f.b] fun e l => op (srcVal s e f.a l) (srcVal s e f.b l)
/-- An instruction on one source of a format. -/
def State.fpOp1 (s : State) (h : Hdr) (t : Timing) (f : L3) (op : Nat → Nat) : Out :=
  s.laneOp h t f.d [f.a] fun e l => op (srcVal s e f.a l)
/-- A fused multiply and add of a format. -/
def State.fpOp3 (s : State) (h : Hdr) (t : Timing) (f : L3) (op : Nat → Nat → Nat → Nat) : Out :=
  s.laneOp h t f.d [f.a, f.b, f.c] fun e l => op (srcVal s e f.a l) (srcVal s e f.b l) (srcVal s e f.c l)
/-- A comparison of a format. -/
def State.fpSet (s : State) (h : Hdr) (t : Timing) (f : L3) (g : Fmt) : Out :=
  s.lanePredOp h t f.d [f.a, f.b] fun e l => cmpFloat g (cmpOf f.m) (srcVal s e f.a l) (srcVal s e f.b l)

/-- FADD (R441). -/
def execFadd (h : Hdr) (f : L3) (s : State) : Out := s.fpOp2 h tBasic f ((fmt 0).add false (rmOf f.m) (satOf f.m))
/-- FSUB (R441). -/
def execFsub (h : Hdr) (f : L3) (s : State) : Out := s.fpOp2 h tBasic f ((fmt 0).sub false (rmOf f.m) (satOf f.m))
/-- FMUL (R441). -/
def execFmul (h : Hdr) (f : L3) (s : State) : Out := s.fpOp2 h tBasic f ((fmt 0).mul false (rmOf f.m) (satOf f.m))
/-- FFMA (R441). -/
def execFfma (h : Hdr) (f : L3) (s : State) : Out := s.fpOp3 h tBasic f ((fmt 0).fma false (rmOf f.m) (satOf f.m))
/-- FMIN (R442). -/
def execFmin (h : Hdr) (f : L3) (s : State) : Out := s.fpOp2 h tBasic f (fmt 0).min
/-- FMAX (R442). -/
def execFmax (h : Hdr) (f : L3) (s : State) : Out := s.fpOp2 h tBasic f (fmt 0).max
/-- FSET (R442). -/
def execFset (h : Hdr) (f : L3) (s : State) : Out := s.fpSet h tBasic f (fmt 0)
/-- FRND (R443). -/
def execFrnd (h : Hdr) (f : L3) (s : State) : Out := s.fpOp1 h tBasic f ((fmt 0).integral (rmOf f.m))
/-- FCLASS (R443). -/
def execFclass (h : Hdr) (f : L3) (s : State) : Out := s.fpOp1 h tBasic f (fmt 0).classify
/-- DADD (R441). -/
def execDadd (h : Hdr) (f : L3) (s : State) : Out := s.fpOp2 h tWide f ((fmt 1).add false (rmOf f.m) (satOf f.m))
/-- DSUB (R441). -/
def execDsub (h : Hdr) (f : L3) (s : State) : Out := s.fpOp2 h tWide f ((fmt 1).sub false (rmOf f.m) (satOf f.m))
/-- DMUL (R441). -/
def execDmul (h : Hdr) (f : L3) (s : State) : Out := s.fpOp2 h tWide f ((fmt 1).mul false (rmOf f.m) (satOf f.m))
/-- DFMA (R441). -/
def execDfma (h : Hdr) (f : L3) (s : State) : Out := s.fpOp3 h tWide f ((fmt 1).fma false (rmOf f.m) (satOf f.m))
/-- DMIN (R442). -/
def execDmin (h : Hdr) (f : L3) (s : State) : Out := s.fpOp2 h tWide f (fmt 1).min
/-- DMAX (R442). -/
def execDmax (h : Hdr) (f : L3) (s : State) : Out := s.fpOp2 h tWide f (fmt 1).max
/-- DSET (R442). -/
def execDset (h : Hdr) (f : L3) (s : State) : Out := s.fpSet h tWide f (fmt 1)
/-- DRND (R443). -/
def execDrnd (h : Hdr) (f : L3) (s : State) : Out := s.fpOp1 h tWide f ((fmt 1).integral (rmOf f.m))

/-- Element `i` of `n` bits of a packed value (R362). -/
def elemOf (n i x : Nat) : Nat := x / 2 ^ (n * i) % 2 ^ n
/-- Pack elements of `n` bits, element 0 lowest (R362). -/
def packElems (n : Nat) (l : List Nat) : Nat := l.foldr (fun x acc => x % 2 ^ n + 2 ^ n * acc) 0
/-- Both halves of a paired operation. -/
def halves (op : Nat → Nat → Nat → Nat) (a b c : Nat) : Nat :=
  packElems 16 ((List.range 2).map fun i => op (elemOf 16 i a) (elemOf 16 i b) (elemOf 16 i c))
/-- Whether the BF16 exception of R368 applies to a paired operation. -/
def flushOf (m : BitVec 29) : Bool := fmtOf m == 3

/-- HADD2 (R444). -/
def execHadd2 (h : Hdr) (f : L3) (s : State) : Out :=
  s.fpOp2 h tBasic f fun a b => halves (fun x y _ => (fmt (fmtOf f.m)).add (flushOf f.m) (rmOf f.m) (satOf f.m) x y) a b 0
/-- HMUL2 (R444). -/
def execHmul2 (h : Hdr) (f : L3) (s : State) : Out :=
  s.fpOp2 h tBasic f fun a b => halves (fun x y _ => (fmt (fmtOf f.m)).mul (flushOf f.m) (rmOf f.m) (satOf f.m) x y) a b 0
/-- HFMA2 (R444). -/
def execHfma2 (h : Hdr) (f : L3) (s : State) : Out :=
  s.fpOp3 h tBasic f (halves ((fmt (fmtOf f.m)).fma (flushOf f.m) (rmOf f.m) (satOf f.m)))
/-- HMIN2 (R444). -/
def execHmin2 (h : Hdr) (f : L3) (s : State) : Out :=
  s.fpOp2 h tBasic f fun a b => halves (fun x y _ => (fmt (fmtOf f.m)).min x y) a b 0
/-- HMAX2 (R444). -/
def execHmax2 (h : Hdr) (f : L3) (s : State) : Out :=
  s.fpOp2 h tBasic f fun a b => halves (fun x y _ => (fmt (fmtOf f.m)).max x y) a b 0
/-- HSET2: element 0 to the predicate of D, element 1 to that of C (R444). -/
def execHset2 (h : Hdr) (f : L3) (s : State) : Out :=
  s.withRegs h [f.a, f.b] fun e =>
    let bits (i : Nat) : Word := maskOf fun l =>
      cmpFloat (fmt (fmtOf f.m)) (cmpOf f.m) (elemOf 16 i (srcVal s e f.a l)) (elemOf 16 i (srcVal s e f.b l))
    let s1 := laneIssued s e tBasic [(true, num f.d), (true, num f.c)] [f.a, f.b]
    .next (lanePath (writePred (writePred s1 e.r (num f.d) e.act (bits 0)) e.r (num f.c) e.act (bits 1)) e h)

/-- CVT (R445, R446). -/
def execCvt (h : Hdr) (f : L3) (s : State) : Out :=
  s.fpOp1 h tBasic f fun a => spread (fmtOf f.m) (convert (fmtOf f.m) (sfmtOf f.m) (rmOf f.m) (satOf f.m) a)
/-- The wide form of a packed format: FP32 or INT32 (R447). -/
def wideOf (k : Nat) : Nat := if isFloat k then 0 else 8
/-- Pack `k` registers into elements of `n` bits (R447). -/
def State.packOp (s : State) (h : Hdr) (f : L3) (n k : Nat) : Out :=
  let d := fmtOf f.m
  s.fpOp1 h tBasic f fun a =>
    packElems n ((List.range k).map fun i => convert d (wideOf d) (rmOf f.m) (satOf f.m) (elemOf 32 i a))
/-- Widen `k` elements of `n` bits into registers (R447). -/
def State.unpackOp (s : State) (h : Hdr) (f : L3) (n k : Nat) : Out :=
  let d := fmtOf f.m
  s.fpOp1 h tBasic f fun a => packElems 32 ((List.range k).map fun i => convert (wideOf d) d 0 false (elemOf n i a))
/-- PK8 (R447). -/
def execPk8 (h : Hdr) (f : L3) (s : State) : Out := s.packOp h f 8 4
/-- UPK8 (R447). -/
def execUpk8 (h : Hdr) (f : L3) (s : State) : Out := s.unpackOp h f 8 4
/-- PK16 (R447). -/
def execPk16 (h : Hdr) (f : L3) (s : State) : Out := s.packOp h f 16 2
/-- UPK16 (R447). -/
def execUpk16 (h : Hdr) (f : L3) (s : State) : Out := s.unpackOp h f 16 2

/-- A special function by its op number (R448). -/
def State.sfuOp (s : State) (h : Hdr) (t : Timing) (f : L3) (op : Nat) : Out :=
  s.fpOp1 h t f (sfu op (rmOf f.m) (satOf f.m))
/-- RCP (R449). -/
def execRcp (h : Hdr) (f : L3) (s : State) : Out := s.sfuOp h tSfu f 0
/-- RSQ (R449). -/
def execRsq (h : Hdr) (f : L3) (s : State) : Out := s.sfuOp h tSfu f 1
/-- SQRT (R449). -/
def execSqrt (h : Hdr) (f : L3) (s : State) : Out := s.sfuOp h tSfu f 2
/-- EX2 (R449). -/
def execEx2 (h : Hdr) (f : L3) (s : State) : Out := s.sfuOp h tSfu f 3
/-- LG2 (R449). -/
def execLg2 (h : Hdr) (f : L3) (s : State) : Out := s.sfuOp h tSfu f 4
/-- SIN (R449). -/
def execSin (h : Hdr) (f : L3) (s : State) : Out := s.sfuOp h tSfu f 5
/-- COS (R449). -/
def execCos (h : Hdr) (f : L3) (s : State) : Out := s.sfuOp h tSfu f 6
/-- TANH (R449). -/
def execTanh (h : Hdr) (f : L3) (s : State) : Out := s.sfuOp h tSfu f 7
/-- DRCP (R449). -/
def execDrcp (h : Hdr) (f : L3) (s : State) : Out := s.sfuOp h tSfu64 f 8
/-- DRSQ (R449). -/
def execDrsq (h : Hdr) (f : L3) (s : State) : Out := s.sfuOp h tSfu64 f 9

end Sys2Proof.Machine
end

