-- ==== Sys2Proof/Machine/LaneMem.lean ====
section
/-! DEFINITION. The lane memory and atomic instructions (R460 to R477): classes 0x8 and 0x9. -/
namespace Sys2Proof.Machine

/-- A lane and the address of its access. -/
structure LaneAddr where
  lane : Nat
  va : DWord
  deriving DecidableEq, Repr

/-- What the checks of one lane instruction found (R255): each lane's translation, or the trap, or the pages that fault. -/
inductive LaneCheck where
  | ok (l : List (LaneAddr × Tr))
  | trap (code : Nat) (mask : Word) (va : DWord)
  | page (faults : List (Nat × Nat × Nat × Word))
  deriving DecidableEq, Repr

/-- The mask of some lanes. -/
def lanesMask (l : List LaneAddr) : Word := l.foldl (fun m x => m ||| 1 <<< x.lane) 0

/-- Translate and check each lane in ascending order. -/
def checkEach (s : State) (r : WRef) (root : Nat) (sec : Bool) (align : Nat) (k : Acc) :
    List LaneAddr → State × List (LaneAddr × Checked)
  | [] => (s, [])
  | x :: xs =>
    let (s1, c) := checkVa s r.site (some r.core) root sec x.va align k
    let (s2, l) := checkEach s1 r root sec align k xs
    (s2, (x, c) :: l)

/-- Faulting lanes by 512 KiB page, in ascending order of the lowest lane of each (R263). -/
def groupFaults (l : List (LaneAddr × Nat × Nat)) : List (Nat × Nat × Nat × Word) :=
  l.foldl (fun (acc : List (Nat × Nat × Nat × Word)) x =>
    let page (y : Nat × Nat × Nat × Word) : Bool := y.1 / 2 ^ 19 == x.1.va.toNat / 2 ^ 19
    if acc.any page then
      acc.map fun y => if page y then (y.1, y.2.1, y.2.2.1, y.2.2.2 ||| (1 : Word) <<< x.1.lane) else y
    else acc ++ [(x.1.va.toNat, x.2.1, x.2.2, (1 : Word) <<< x.1.lane)]) []

/-- The verdict on all lanes: the earliest failing check among 1, 2 and 4, else the page faults (R255). -/
def verdict (l : List (LaneAddr × Checked)) : LaneCheck :=
  let high := l.filter fun x => decide (2 ^ 55 ≤ x.1.va.toNat)
  let odd := l.filter fun x => x.2 == .misalign
  let denied := l.filter fun x => x.2 == .perm
  let first (x : List (LaneAddr × Checked)) : DWord := match x with | y :: _ => y.1.va | [] => 0
  if !high.isEmpty then .trap 5 (lanesMask (high.map (·.1))) (first high)
  else if !odd.isEmpty then .trap 6 (lanesMask (odd.map (·.1))) (first odd)
  else if !denied.isEmpty then .trap 5 (lanesMask (denied.map (·.1))) (first denied)
  else
    let pages := l.filterMap fun x => match x.2 with | .page a b => some (x.1, a, b) | _ => none
    if !pages.isEmpty then .page (groupFaults pages)
    else .ok (l.filterMap fun x => match x.2 with | .ok t => some (x.1, t) | _ => none)

/-- The accesses of a lane instruction once every lane is checked (R255, R263, R462), and none has to be held (R141). -/
def State.laneAccess (s : State) (e : LaneEnv) (align : Nat) (k : Acc) (lanes : List LaneAddr)
    (go : State → List (LaneAddr × Tr) → Out) : Out :=
  let g := s.gridOf e.w
  let (s1, l) := checkEach s e.r g.root g.sec align k lanes
  match verdict l with
  | .ok t => if t.any fun x => peerHeld s1 e.r.site e.r.core x.2 then s.wait else go s1 t
  | .trap code mask va => s1.trap (laneTrap e code mask va [])
  | .page faults => .next (parkFault s1 e.r (some e.one) faults (if k == .store || k == .atomic then 1 else 0))

/-- The address of a lane (R462). -/
def laneVa (s : State) (e : LaneEnv) (f : LM) (l : Nat) : DWord :=
  BitVec.ofNat 64 (srcVal s e f.a l) + f.off.signExtend 64
/-- The access size in bytes of the SIZE field (R390). -/
def sizeOf (f : LM) : Nat := 2 ^ lmSize f

/-- The signature of a lane operation (R316): address, data and byte mask of each active lane. -/
def laneSignature (e : LaneEnv) (i : Instr) (va data mask : Nat → Nat) : BitVec 64 :=
  signature ((List.range 32).map fun l => if e.act.getLsbD l then (va l, data l, mask l) else (0, 0, 0))
    (leBytes 12 (encodeLane i).toNat)

/-- Under MIRROR, whether a store or atomic of lanes l and l + 16 agrees (R322). -/
def mirrored (s : State) (e : LaneEnv) (va data : Nat → Nat) : Bool :=
  !(s.gridOf e.w).mirror ||
    (List.range 16).all fun l => !e.act.getLsbD l || (e.act.getLsbD (l + 16) && va l == va (l + 16) && data l == data (l + 16))

/-- Whether an acquire of the same path, that is, of one of its lanes, has yet to return (R466). -/
def acquiring (e : LaneEnv) : Bool :=
  e.w.ops.any fun o => o.isLane && o.acq && !o.done && o.res.any fun x => e.path.mask.getLsbD x.lane
/-- An instruction of classes 0x8 and 0x9 that names registers: it is held while an acquire of its path has yet to return (R466). -/
def State.memRegs (s : State) (h : Hdr) (fs : List (BitVec 13)) (k : LaneEnv → Out) : Out :=
  if acquiring (s.laneEnv h) then s.wait else s.withRegs h fs k

/-- The end of a lane memory instruction: destinations wait for SWAIT (R464), and the path goes on. -/
def State.laneMemEnd (s : State) (e : LaneEnv) (h : Hdr) (fs : List (BitVec 13)) (dst : Option Nat) (width : Nat)
    (tag : BitVec 16) : Out :=
  let w := s.curW
  let s1 := match dst with
    | some d => s.setW { w with ldHaz := w.ldHaz ++ [{ tag := tag, num := d, n := width, mask := e.act }] }
    | none => s
  .next (lanePath (laneIssued s1 e tPlain [] fs) e h)

/-- The trailing warp takes a load's or an atomic's values from the LVQ (R314, R319); its region has ended where its leader's has
(R324). -/
def State.laneTake (s : State) (e : LaneEnv) (h : Hdr) (fs : List (BitVec 13)) (d width size : Nat) (ext : Bool) : Out :=
  match takeLvqs true width s.curW.lvq with
  | none => s.wait
  | some (es, l) =>
    if es.any fun x => x.check then .next (mismatch s e.r e.path.pc.toNat)
    else if es.any fun x => !x.ready then s.wait
    else
      let val (k : Nat) : Nat := wordsNat (es.map fun x => wordOf x.val.toNat k)
      let w := s.curW
      let s1 := s.setW (s.follow { w with lvq := l, tag := w.tag + 1, signed := false })
      let s2 := writeDst s1 e.r d width e.act ((lanesOf e.act).map fun k => (k, extendVal ext size (val k)))
      s2.laneMemEnd e h fs (some d) width w.tag

/-- What the accesses of a lane instruction wait for in their own thread: writes to the same bytes, and for a release every write of
its lanes (R288, R290, R297). The SSCB keeps the order of what it holds. -/
def State.ownFirst (s : State) (e : LaneEnv) (o : AsyncOp) (l : List LaneRes) : Bool :=
  let reads := match s.role with | .lead _ => o.op == 0 | _ => o.op != 4 && o.op != 5
  reads && e.w.behindOwn true l

/-- A load or an atomic that returns a value, or a store or reduction, that is checked and issued (R316, R318, R462):
`o` is the operation without its lanes, and `data` and `mask` what a lane writes. It waits while its core may make no more
requests (R56). Under MIRROR lanes 16 to 31 make no access: they share what lanes 0 to 15 receive (R322). -/
def State.laneIssue (s : State) (e : LaneEnv) (h : Hdr) (i : Instr) (fs : List (BitVec 13)) (o : AsyncOp) (size : Nat) (k : Acc)
    (va : Nat → DWord) (data : Nat → Nat) (sig : BitVec 64) : Out :=
  let room := match s.role with
    | .lead sh => (o.op == 0 || sscbRoom s sh) && (o.dst.isNone || lvqRoom s sh o.width)
    | _ => true
  if !e.w.canIssue o.path || !room || !seqRoom s e.r.site e.r.core (k == .atomic) 32 || (decide (2 ≤ o.order) && e.w.owesLanes e.act)
  then s.wait
  else
    let mirror := (s.gridOf e.w).mirror
    let lanes := (lanesOf e.act).filter fun l => !mirror || decide (l < 16)
    s.laneAccess e size k (lanes.map fun l => { lane := l, va := va l }) fun s1 ts =>
      let res (l : Nat) (t : Tr) : LaneRes :=
        { lane := l, va := va l, tr := t, size := size, val := BitVec.ofNat 256 (data l), status := stOk }
      let own := ts.map fun x => res x.1.lane x.2
      let twin (l : Nat) : LaneRes :=
        res l (match own.find? fun x => x.lane == l % 16 with | some x => x.tr | none => Tr.zero)
      let all := if mirror then own ++ ((lanesOf e.act).filter fun l => decide (16 ≤ l)).map twin else own
      if s1.ownFirst e o own then s.wait
      else
        let s2 := issueOp s1 e.r { o with res := all } sig i
        s2.laneMemEnd e h fs o.dst o.width e.w.tag

/-- An operation of a lane instruction with the order, scope and hint of its word. -/
def laneOpNew (e : LaneEnv) (f : LM) (path op : Nat) : AsyncOp :=
  { opNew e.w path e.path.pc with
    isLane := true, slot1 := e.one, op := op, order := lmOrder f, scope := lmScope f, hint := lmHint f, acq := (lmOrder f) % 2 == 1 }

/-- LD (R463). -/
def execLd (h : Hdr) (f : LM) (s : State) : Out :=
  s.memRegs h [f.d, f.a] fun e =>
    let ext := f.m.getLsbD 10
    match s.role with
    | .trail _ => s.laneTake e h [f.a] (num f.d) (regCount f.d) (sizeOf f) ext
    | _ =>
      let o := { laneOpNew e f 0 0 with dst := some (num f.d), width := regCount f.d, ext := ext }
      s.laneIssue e h (.ld h f) [f.a] o (sizeOf f) .load (laneVa s e f) (fun _ => 0) 0

/-- A store or a reduction: held for the trailing warp's signature in a pair (R316), compared under MIRROR (R322). -/
def State.laneStore (s : State) (h : Hdr) (f : LM) (i : Instr) (op hint : Nat) (k : Acc) : Out :=
  s.memRegs h [f.a, f.b] fun e =>
    let data (l : Nat) : Nat := srcVal s e f.b l % 2 ^ (8 * sizeOf f)
    let sig := laneSignature e i (fun l => (laneVa s e f l).toNat) data fun _ => 2 ^ sizeOf f - 1
    match s.role with
    | .trail _ =>
      let t := s.giveSig true sig
      (t.setW { t.curW with tag := t.curW.tag + 1 }).laneMemEnd e h [f.a, f.b] none 0 0
    | _ =>
      if !mirrored s e (fun l => (laneVa s e f l).toNat) data then .next (mismatch s e.r e.path.pc.toNat)
      else
        s.laneIssue e h i [f.a, f.b] { laneOpNew e f 1 op with hint := hint } (sizeOf f) k (laneVa s e f) data sig

/-- ST (R465). -/
def execSt (h : Hdr) (f : LM) (s : State) : Out := s.laneStore h f (.st h f) 1 (lmHint f) .store

/-- LDC (R467): its own checks come before those of its accesses. -/
def execLdc (h : Hdr) (f : LM) (s : State) : Out :=
  s.memRegs h [f.d, f.a] fun e =>
    let ext := f.m.getLsbD 10
    let size := sizeOf f
    match s.role with
    | .trail _ => s.laneTake e h [f.a] (num f.d) (regCount f.d) size ext
    | _ =>
      let t := s.team e.w.team
      let off (l : Nat) : Int := (srcVal s e f.a l : Int) + f.off.toInt
      let va (l : Nat) : DWord := BitVec.ofInt 64 ((t.dataVa : Int) + off l)
      let bad (p : Nat → Bool) : List LaneAddr := ((lanesOf e.act).filter p).map fun l => { lane := l, va := va l }
      let odd := bad fun l => off l % size != 0
      let out := bad fun l => t.dataVa == 0 || decide (off l < 0) || decide ((t.dlen : Int) < off l + size)
      match odd, out with
      | x :: _, _ => s.trap (laneTrap e 6 (lanesMask odd) x.va [])
      | [], x :: _ => s.trap (laneTrap e 5 (lanesMask out) x.va [])
      | [], [] =>
        let o := { laneOpNew e f 0 0 with dst := some (num f.d), width := regCount f.d, ext := ext }
        s.laneIssue e h (.ldc h f) [f.a] o size .load va (fun _ => 0) 0

/-- Fetch the line of one lane's address ahead of use, or drop the lane (R468). -/
def prefetch (s : State) (r : WRef) (g : Grid) (hint : Nat) (va : DWord) : State :=
  match checkVa s r.site (some r.core) g.root g.sec va 1 .load with
  | (s1, .ok t) => if t.kind == .localMem && t.attr != 3 then (doLoad s1 (s1.who r) t 1 hint).1 else s1
  | (s1, _) => s1

/-- PRF (R468): the trailing warp skips it, and so do lanes 16 to 31 under MIRROR (R322); it waits while its core may make no more
requests (R56). -/
def execPrf (h : Hdr) (f : LM) (s : State) : Out :=
  s.memRegs h [f.a] fun e =>
    if !seqRoom s e.r.site e.r.core false 32 then s.wait
    else
      let g := s.gridOf e.w
      let lanes := (lanesOf e.act).filter fun l => !g.mirror || decide (l < 16)
      let s1 := match s.role with
        | .trail _ => s
        | _ => lanes.foldl (fun t l => prefetch t e.r g (lmHint f) (laneVa s e f l)) s
      s1.laneMemEnd e h [f.a] none 0 0

/-- WBL and INVL (R469): path STORE, with neither data nor alignment. -/
def State.lineOp (s : State) (h : Hdr) (f : LM) (i : Instr) (op : Nat) : Out :=
  s.memRegs h [f.a] fun e =>
    let sig := laneSignature e i (fun l => (laneVa s e f l).toNat) (fun _ => 0) fun _ => 0
    match s.role with
    | .trail _ =>
      let t := s.giveSig true sig
      (t.setW { t.curW with tag := t.curW.tag + 1 }).laneMemEnd e h [f.a] none 0 0
    | _ => s.laneIssue e h i [f.a] (laneOpNew e f 1 op) 1 .load (laneVa s e f) (fun _ => 0) sig
/-- WBL (R469). -/
def execWbl (h : Hdr) (f : LM) (s : State) : Out := s.lineOp h f (.wbl h f) 4
/-- INVL (R469). -/
def execInvl (h : Hdr) (f : LM) (s : State) : Out := s.lineOp h f (.invl h f) 5

/-- An atomic that returns the old value (R471 to R474, R319): the trailing warp gives its signature, then waits for the
result. -/
def State.laneAtomic (s : State) (h : Hdr) (f : LM) (i : Instr) (cas : Bool) : Out :=
  s.memRegs h [f.d, f.a, f.b] fun e =>
    let n := sizeOf f
    let b (l : Nat) : Nat := srcVal s e f.b l % 2 ^ (8 * (if cas then 2 * n else n))
    let data (l : Nat) : Nat := if cas then b l / 2 ^ (8 * n) + b l % 2 ^ (8 * n) * 2 ^ 128 else b l
    let mask : Nat := if cas then (2 ^ n - 1) * (2 ^ 16 + 1) else 2 ^ n - 1
    let sig := laneSignature e i (fun l => (laneVa s e f l).toNat) data fun _ => mask
    match s.role with
    | .trail _ =>
      if !s.curW.signed then
        let t := s.giveSig true sig
        .next (t.setW { t.curW with signed := true })
      else s.laneTake e h [f.a, f.b] (num f.d) (regCount f.d) n false
    | _ =>
      if !mirrored s e (fun l => (laneVa s e f l).toNat) b then .next (mismatch s e.r e.path.pc.toNat)
      else
        let o := { laneOpNew e f 0 (if cas then 2 else 16 + aopOf f) with dst := some (num f.d), width := regCount f.d }
        s.laneIssue e h i [f.a, f.b] o n .atomic (laneVa s e f) b sig
/-- ATOM (R471, R472). -/
def execAtom (h : Hdr) (f : LM) (s : State) : Out := s.laneAtomic h f (.atom h f) false
/-- CAS (R471, R474). -/
def execCas (h : Hdr) (f : LM) (s : State) : Out := s.laneAtomic h f (.cas h f) true
/-- RED (R471, R472, R476). -/
def execRed (h : Hdr) (f : LM) (s : State) : Out :=
  s.laneStore h f (.red h f) (16 + aopOf f) (if f.m.getLsbD 14 && aopOf f == 12 then 1 else 0) .atomic
/-- ATOMF (R471, R472). -/
def execAtomf (h : Hdr) (f : LM) (s : State) : Out := s.laneAtomic h f (.atomf h f) false

end Sys2Proof.Machine
end

