-- ==== Sys2Proof/Machine/Matrix.lean ====
section
/-! DEFINITION. The matrix unit (R206, R218, R278, R279, R312, R372 to R377, R483 to R495): class 0xB, its acceptance and
the order in which accepted instructions take effect on the tiles. -/
namespace Sys2Proof.Machine

/-- One step of an MMA form (R486, R488): the queues and rows of its entries, whether the B entry leaves its queue with it,
the first tile of its span and its shape. -/
structure MatItem where
  qa : Nat
  na : Nat
  qb : Nat
  nb : Nat
  popB : Bool
  z : Nat
  m : Nat
  n : Nat
  deriving DecidableEq, Repr

/-- AFMT, BFMT, CFMT and the number of K segments of a format block (R373). -/
def fbA (fb : BitVec 128) : Nat := (fb.extractLsb' 0 4).toNat
/-- BFMT (R373). -/
def fbB (fb : BitVec 128) : Nat := (fb.extractLsb' 4 4).toNat
/-- CFMT (R373). -/
def fbC (fb : BitVec 128) : Nat := (fb.extractLsb' 8 2).toNat
/-- K segments (R373). -/
def fbSegs (fb : BitVec 128) : Nat := (fb.extractLsb' 12 2).toNat + 1
/-- Elements per segment: 384 bytes of the operand format (R374). -/
def fbK (fb : BitVec 128) : Nat := 3072 / fmtBits (fbB fb)

/-- Whether a matrix instruction accepts a format block (R374). -/
def fbOk (fb : BitVec 128) (weights : Bool) : Bool :=
  let a := fbA fb
  let b := fbB fb
  let c := fbC fb
  fb.extractLsb' 10 2 == 0 && fb.extractLsb' 16 64 == 0 &&
    (if weights then (a == 10 || a == 11) && (b == 3 || b == 4 || b == 5) && c == 0 && fb.extractLsb' 14 2 != 3
     else a == b && ((a == 1 && c == 2) || ((a == 2 || a == 3 || a == 4 || a == 5) && c == 0) || (a == 6 && c == 1)))

/-- M and N of a shape (R484). -/
def shapeOf (shape : BitVec 2) : Nat × Nat :=
  match shape.toNat with
  | 0 => (16, 16)
  | 1 => (16, 32)
  | 2 => (32, 16)
  | _ => (8, 64)

/-- The steps of an instruction, its quarters or groups in ascending order (R486, R488). -/
def MatOp.items (m : MatOp) : List MatItem :=
  let up := if m.heads = 2 then 128 else 0
  let segs := fbSegs m.fb
  let wide (f : LX) : List MatItem :=
    let split := f.m.getLsbD 1
    let tq := tilesPer f.shape m.fb
    let sh := shapeOf f.shape
    let qs := (List.range 4).filter (quarterOn m.act)
    qs.map fun q =>
      { qa := f.qa.toNat, na := sh.1 * segs, qb := if split then (f.qb.toNat + q) % 8 else f.qb.toNat, nb := sh.2 * segs,
        popB := split || qs.getLast? == some q, z := f.zd.toNat + q * tq + up, m := sh.1, n := sh.2 }
  match m.ins with
  | .mma _ f => wide f
  | .mmaw _ f => wide f
  | .mmag _ f =>
    m.counts.mapIdx fun g r =>
      { qa := f.qa.toNat, na := r * segs, qb := f.qb.toNat, nb := 16 * segs, popB := true,
        z := f.zd.toNat + g * tilesPer 0 m.fb + up, m := r, n := 16 }
  | _ => []

/-- Whether each computed element starts from zero (R483). -/
def MatOp.clr (m : MatOp) : Bool :=
  match m.ins with
  | .mma _ f => f.m.getLsbD 0
  | .mmaw _ f => f.m.getLsbD 0
  | .mmag _ f => f.m.getLsbD 0
  | _ => false

/-- The clocks one step keeps the matrix unit busy at the rate in force (R219, R220, R490). -/
def MatOp.work (m : MatOp) (rate : Nat) : Nat :=
  let wide := match m.ins with | .mma _ f => f.shape != 0 | .mmaw _ f => f.shape != 0 | _ => false
  let per := if fbC m.fb = 2 then (if wide then 384 else 192) else (if wide then 12 else 6)
  per * fbSegs m.fb * 16 / max rate 1

/-- Rows of a queue that an instruction's heads have yet to pop (R279, R312). -/
def rowsLeft (c : Core) (heads k : Nat) : Nat :=
  let q := FMap.get OpQueue.none c.queues k
  if heads = 1 then q.left else if heads = 2 then q.left2 else min q.left q.left2
/-- Rows of a queue that accepted, unfinished instructions will pop ahead of a new one of these heads (R487). -/
def reserved (c : Core) (heads k : Nat) : Nat :=
  ((c.matQ.filter fun m => m.heads == 0 || heads == 0 || m.heads == heads).flatMap fun m => m.items.drop m.pos).foldl
    (fun n i => n + (if i.qa = k then i.na else 0) + (if i.qb = k && i.popB then i.nb else 0)) 0

/-- Whether the matrix unit can accept an instruction now (R206, R218, R487): its queue has room, it has accepted none in this clk, the
granted start that the instruction found is there, and so are its first rows. -/
def matReady (s : State) (site core : Nat) (m : MatOp) : Bool :=
  let c := s.core site core
  decide (c.matQ.length < 4) && decide (0 < coreRate s site core) && c.matAt != c.clk + 1 &&
    (match m.items with
     | [] => true
     | i :: _ =>
       (match m.gate with | some g => decide (g ≤ c.clk) | none => true) &&
         decide (reserved c m.heads i.qa + i.na ≤ rowsLeft c m.heads i.qa) &&
         decide (reserved c m.heads i.qb + i.nb ≤ rowsLeft c m.heads i.qb))

/-- What waits at a pipe for lane slot 0 or 1 (R236). -/
def Core.matWait (c : Core) (p : Nat) (one : Bool) : Option MatOp :=
  match p, one with
  | 0, false => c.matWait0
  | 0, true => c.matNext0
  | _, false => c.matWait1
  | _, true => c.matNext1
/-- Change what waits at a pipe for a lane slot. -/
def Core.setMatWait (c : Core) (p : Nat) (one : Bool) (m : Option MatOp) : Core :=
  match p, one with
  | 0, false => { c with matWait0 := m }
  | 0, true => { c with matNext0 := m }
  | _, false => { c with matWait1 := m }
  | _, true => { c with matNext1 := m }

/-- Whether the warp of an ACC instruction may take what it needs besides the unit (R249, R314, R316, R318, R494, R56): a place in its
path, in the LVQ or the SSCB, and room for the requests of a tile. -/
def matRoom (s : State) (m : MatOp) : Bool :=
  let w := s.wref m.w
  match m.ins, roleOf w with
  | .accld _ _, .trail _ => (takeLvqs true 8 w.lvq).isSome
  | .accld _ _, .lead sh => w.canIssue 0 && lvqRoom s sh 8 && seqRoom s m.w.site m.w.core false 256
  | .accld _ _, .alone => w.canIssue 0 && seqRoom s m.w.site m.w.core false 256
  | .accst _ _, .lead sh => w.canIssue 1 && sscbRoom s sh
  | .accst _ _, .alone => w.canIssue 1
  | .accmv _ f, _ => f.m.getLsbD 0 || decide (w.count 0 < 255)
  | _, _ => true

/-- The instruction that waits at a pipe as the one being executed. -/
def actMat (s : State) (m : MatOp) : State := { s with cur := { site := m.w.site, core := m.w.core, slot := m.w.slot, lane := some m.one } }
/-- Whether an instruction that waits at a pipe could be accepted (R206, R318). -/
def matMay (s : State) (site core : Nat) (m : MatOp) : Bool := matReady s site core m && matRoom s m && (actMat s m).pairReady

/-- Whether an instruction is one of class B. -/
def isMatrix : Instr → Bool
  | .mma _ _ | .mmaw _ _ | .mmag _ _ | .accz _ _ | .accld _ _ | .accst _ _ | .accmv _ _ => true
  | _ => false
/-- Whether a pipe has still to present a class B instruction in this clk: the next of a run that has its turn to come (R206). -/
def presentsNext (s : State) (site core p : Nat) : Bool :=
  s.turns.any fun t =>
    t.site == site && t.core == core && t.lane.isSome && pipeOf t.slot == p &&
      (match (fetch { s with cur := t }).2 with
       | .word v => (match decodeLane (BitVec.ofNat 96 v) with | .ok i => isMatrix i | .err _ => false)
       | _ => false)
/-- Whether the other pipe presents an instruction in the same clk (R206): one that waits there and could be accepted. -/
def matConflict (s : State) (site core p : Nat) : Bool :=
  [false, true].any fun one => match (s.core site core).matWait (1 - p) one with | some o => matMay s site core o | none => false
/-- The granted start that an instruction has to wait for (R218): that of the record it found when it reached its pipe. -/
def gateOf (s : State) (site core p : Nat) (one : Bool) (w : WRef) : Option Nat :=
  let c := s.core site core
  let found := match c.phase with | some x => if c.clk < x.tg then some x.tg else none | none => none
  match c.matWait p one with
  | some o => if o.w = w then o.gate else found
  | none => found
/-- Whether a pipe wins (R206): the one that lost the previous conflict does; `matLost` says whether pipe 1 did. Where the other pipe
has its turn still to come in this clk, MATRIX_ACCEPT decides after it. -/
def matWins (s : State) (site core p : Nat) : Bool :=
  !presentsNext s site core (1 - p) && (!matConflict s site core p || (if (s.core site core).matLost then p == 1 else p == 0))

/-- A class B instruction at its pipe: accepted at once where the unit can take it, else it waits there (R206, R487).
`go` does what else its acceptance does, on the instruction as accepted. -/
def State.present (s : State) (e : LaneEnv) (h : Hdr) (m : MatOp) (fs : List (BitVec 13)) (go : State → MatOp → State × MatOp) :
    Out :=
  let p := pipeOf e.r.slot
  let m := { m with gate := gateOf s e.r.site e.r.core p e.one m.w }
  if matReady s e.r.site e.r.core m && matWins s e.r.site e.r.core p then
    let lost := matConflict s e.r.site e.r.core p
    let (s1, m1) := go s m
    let c := s1.core e.r.site e.r.core
    let c1 := { c.setMatWait p e.one none with
      matQ := c.matQ ++ [m1],
      matAt := c.clk + 1,
      matLost := if lost then decide (p = 0) else c.matLost,
      matWarps := if m1.items.isEmpty then c.matWarps else c.matWarps ||| 1 <<< e.r.slot }
    .next (lanePath (laneIssued (s1.setCore e.r.site e.r.core c1) e tOne [] fs) e h)
  else
    let c := s.core e.r.site e.r.core
    .next (s.setCore e.r.site e.r.core (c.setMatWait p e.one (some m)))

/-- An instruction with no active lane has no effect (R485). -/
def State.idle (s : State) (e : LaneEnv) (h : Hdr) : Out := .next (lanePath (laneIssued s e tOne [] []) e h)

/-- A class B instruction as its warp presents it. -/
def matNew (s : State) (e : LaneEnv) (i : Instr) : MatOp :=
  let g := s.gridOf e.w
  { w := e.r, one := e.one, sec := g.sec, alive := true, ins := i, act := e.act, fb := 0, counts := [],
    heads := if g.redun = 1 then (if e.w.shadow then 2 else 1) else 0, pos := 0, addr := 0, data := 0, mem := none, gate := none }

/-- The captured scalar quad that a matrix instruction reads as its format block (R373). -/
def capturedQuad (w : Warp) (k : Nat) : BitVec 128 :=
  let cap (n : Nat) : Word := match w.running with | some x => FMap.get 0 x.caps n | none => 0
  cap (k + 3) ++ cap (k + 2) ++ cap (k + 1) ++ cap k

/-- Whether a span leaves the tiles its grid may name (R312, R489). -/
def spanBad (s : State) (e : LaneEnv) (z n : Nat) : Bool :=
  decide (256 < z + n) || ((s.gridOf e.w).redun == 1 && decide (128 < z + n))

/-- MMA and MMAW (R486, R489). -/
def State.wideMma (s : State) (h : Hdr) (f : LX) (i : Instr) (weights : Bool) : Out :=
  let e := s.laneEnv h
  let fb := capturedQuad e.w f.fbq.toNat
  let tq := tilesPer f.shape fb
  let split := f.m.getLsbD 1
  let same := if split then
      (List.range 4).any fun q => quarterOn e.act q && (f.qb.toNat + q) % 8 == f.qa.toNat
    else f.qa == f.qb
  let sh := shapeOf f.shape
  if !fbOk fb weights || f.zd.toNat % (4 * tq) != 0 || spanBad s e f.zd.toNat (4 * tq) || same ||
      decide (128 < sh.1 * fbSegs fb) || decide (128 < sh.2 * fbSegs fb) then s.illegal (laneInfo i)
  else if e.act = 0 then s.idle e h
  else s.present e h { matNew s e i with fb := fb } [] fun t m => (t, m)
/-- MMA (R486). -/
def execMma (h : Hdr) (f : LX) (s : State) : Out := s.wideMma h f (.mma h f) false
/-- MMAW (R486). -/
def execMmaw (h : Hdr) (f : LX) (s : State) : Out := s.wideMma h f (.mmaw h f) true

/-- MMAG (R488): its row counts come from the team's own scratchpad. -/
def execMmag (h : Hdr) (f : LX) (s : State) : Out :=
  let e := s.laneEnv h
  let i : Instr := .mmag h f
  let fb := capturedQuad e.w f.fbq.toNat
  let n := (f.m.extractLsb' 2 6).toNat + 1
  let tq := tilesPer 0 fb
  if !fbOk fb false || f.zd.toNat % tq != 0 || spanBad s e f.zd.toNat (n * tq) || f.qa == f.qb then s.illegal (laneInfo i)
  else
    match lanesOf e.act with
    | [] => s.idle e h
    | low :: _ =>
      let t := s.team e.w.team
      let addr := BitVec.ofNat 64 (srcVal s e f.x low)
      let off := (addr - s.scrBase t).toNat
      if addr.getLsbD 0 then s.trap (laneTrap e 6 (1 <<< low) addr [])
      else if 1024 * t.ngran < off + 2 * n then s.trap (laneTrap e 5 (1 <<< low) addr [])
      else
        let base := winAddr t.site t.core + 0x100000 + 1024 * t.gran + off
        let counts := (List.range n).map fun g => readBytes s.mem (base + 2 * g) 2
        if counts.any fun r => r == 0 || decide (16 < r) then s.illegal (laneInfo i)
        else s.present e h { matNew s e i with fb := fb, counts := counts } [] fun t m => (t, m)

/-- ACCZ (R492). -/
def execAccz (h : Hdr) (f : LX) (s : State) : Out :=
  let e := s.laneEnv h
  if spanBad s e f.zd.toNat ((f.m.extractLsb' 0 8).toNat + 1) then s.illegal (laneInfo (.accz h f))
  else if e.act = 0 then s.idle e h
  else s.present e h (matNew s e (.accz h f)) [] fun t m => (t, m)

/-- Scope, row pitch and address of ACCLD and ACCST (R483, R493). -/
def accScope (f : LX) : Nat := (f.m.extractLsb' 0 3).toNat
/-- Row pitch in bytes (R483). -/
def accPitch (f : LX) : Nat := if f.m.extractLsb' 3 16 = 0 then 64 else 4 * (f.m.extractLsb' 3 16).toNat
/-- The address of row 0 (R493). -/
def accAddr (s : State) (e : LaneEnv) (f : LX) : DWord :=
  BitVec.ofNat 64 (srcVal s e f.x 0) + (f.m.extractLsb' 19 20).signExtend 64
/-- The address of word `k` of the tile in memory (R493). -/
def accWord (addr : DWord) (pitch k : Nat) : DWord := addr + BitVec.ofNat 64 (k / 16 * pitch + k % 16 * 4)

/-- The tile a number of words makes, word 0 lowest; words that failed are free values (R346). -/
def tileOf (s : State) (res : List LaneRes) : BitVec 8192 :=
  BitVec.ofNat 8192 (wordsNat (res.mapIdx fun k x =>
    if x.status = stOk then x.val.setWidth 32 else BitVec.ofNat 32 (s.any k)))

/-- The words of a tile in memory, checked all at once by the lowest active lane's thread (R493). -/
def State.accCheck (s : State) (e : LaneEnv) (low : Nat) (addr : DWord) (pitch : Nat) (k : Acc)
    (go : State → List (LaneAddr × Tr) → Out) : Out :=
  s.laneAccess e 4 k ((List.range 256).map fun i => { lane := low, va := accWord addr pitch i }) go

/-- Words of a tile as the pieces of one operation. -/
def accPieces (ts : List (LaneAddr × Tr)) : List LaneRes :=
  ts.map fun x => { lane := x.1.lane, va := x.1.va, tr := x.2, size := 4, val := 0, status := stOk }

/-- ACCLD (R493): its data is read when the unit accepts it, and its tile is written in matrix-unit order; a trailing warp
takes the data from the LVQ (R495). -/
def execAccld (h : Hdr) (f : LX) (s : State) : Out :=
  let e := s.laneEnv h
  let i : Instr := .accld h f
  if spanBad s e f.zd.toNat 1 then s.illegal (laneInfo i)
  else
    match lanesOf e.act with
    | [] => s.idle e h
    | low :: _ =>
      let addr := accAddr s e f
      match s.role with
      | .trail _ =>
        (match takeLvqs true 8 s.curW.lvq with
         | none => s.wait
         | some (es, l) =>
           if es.any fun x => x.check then .next (mismatch s e.r e.path.pc.toNat)
           else
             s.present e h { matNew s e i with
                 addr := addr
                 data := BitVec.ofNat 8192 (es.foldr (fun x n => x.val.toNat + 2 ^ 1024 * n) 0) } [f.x]
               fun t m => (t.setWref e.r { t.wref e.r with lvq := l, tag := (t.wref e.r).tag + 1 }, m))
      | role =>
        if !matRoom s (matNew s e i) then s.wait
        else
          s.accCheck e low addr (accPitch f) .load fun s1 ts =>
            if e.w.behindOwn true (accPieces ts) then s1.wait
            else s1.present e h { matNew s e i with addr := addr } [f.x] fun t m =>
              let o : AsyncOp := { opNew e.w 0 e.path.pc with isLane := true, slot1 := e.one, scope := accScope f, op := 0 }
              let (t1, res) := performLanes t (t.who e.r) o (accPieces ts)
              let tile := tileOf t1 res
              let o1 := { o with res := res, op := 6 }
              let t2 := (t1.setWref e.r ((t1.wref e.r).enter o1)).fresh
              let t3 := match role with
                | .lead sh => pushLvq t2 sh ((List.range 8).map fun k => lvqVal true false (tile.toNat / 2 ^ (1024 * k) % 2 ^ 1024))
                | _ => t2
              (t3, { m with data := tile, mem := some o1 })

/-- ACCST (R493): it reads its tile in matrix-unit order; in a pair it is held until both signatures match (R495). -/
def execAccst (h : Hdr) (f : LX) (s : State) : Out :=
  let e := s.laneEnv h
  let i : Instr := .accst h f
  if spanBad s e f.zd.toNat 1 then s.illegal (laneInfo i)
  else
    match lanesOf e.act with
    | [] => s.idle e h
    | low :: _ =>
      let addr := accAddr s e f
      match s.role with
      | .trail _ =>
        s.present e h { matNew s e i with addr := addr } [f.x] fun t m =>
          let w := t.wref e.r
          (t.setWref e.r { w with sigs := w.sigs ++ [(true, none)], tag := w.tag + 1 }, m)
      | role =>
        if !matRoom s (matNew s e i) then s.wait
        else
          s.accCheck e low addr (accPitch f) .store fun s1 ts =>
            s1.present e h { matNew s e i with addr := addr } [f.x] fun t m =>
              let held := match role with | .lead _ => true | _ => false
              let o : AsyncOp :=
                { opNew e.w 1 e.path.pc with
                  isLane := true, slot1 := e.one, scope := accScope f, op := 6, held := held, res := accPieces ts }
              let t1 := t.setWref e.r ((t.wref e.r).enter o)
              let t2 := match role with
                | .lead sh =>
                  pushSscb t1 sh { lane := true, sig := 0, ins := i, pc := e.path.pc, tag := o.tag, path := 1, ready := false, matched := false }
                | _ => t1
              (t2, { m with mem := some o })

/-- A tag that no operation of a warp has: that of an operation that takes none of its warp's tags. -/
def spareTag (w : Warp) : BitVec 16 :=
  match ((List.range 1024).map fun k => w.tag + 0x8000 + BitVec.ofNat 16 k).find? fun t => w.ops.all fun o => o.tag != t with
  | some t => t
  | none => w.tag

/-- ACCMV (R494): get counts on LOAD and writes its registers when the unit reaches it; put carries its data along. -/
def execAccmv (h : Hdr) (f : LX) (s : State) : Out :=
  s.withRegs h [f.x] fun e =>
    let i : Instr := .accmv h f
    if spanBad s e f.zd.toNat 1 then s.illegal (laneInfo i)
    else if e.act = 0 then s.idle e h
    else if f.m.getLsbD 0 then
      let val (l : Nat) : Nat := srcVal s e f.x l
      let words := (List.range 256).map fun k => wordOf (val (k % 32)) (k / 32)
      s.present e h { matNew s e i with data := BitVec.ofNat 8192 (wordsNat words) } [f.x] fun t m => (t, m)
    else if !matRoom s (matNew s e i) then s.wait
    else
      s.present e h (matNew s e i) [] fun t m =>
        let w := t.wref e.r
        let o : AsyncOp :=
          { opNew w 0 e.path.pc with
            tag := spareTag w, isLane := true, slot1 := e.one, dst := some (num f.x), width := 8, op := 6 }
        (t.setWref e.r { w with
           cnt := FMap.put 0 w.cnt 0 (w.count 0 + 1), ops := w.ops ++ [o],
           ldHaz := w.ldHaz ++ [{ tag := o.tag, num := num f.x, n := 8, mask := e.act }] }, { m with mem := some o })

/-- A row of an operand queue as a number (R279). -/
def queueRow (c : Core) (k idx : Nat) : Nat := readWords c.words ((0x1C0000 + k * 0xC000 + idx % 128 * 384) / 4) 96
/-- The rows of an entry from a head on (R485). -/
def entryRows (c : Core) (heads k n : Nat) : List Nat :=
  let q := FMap.get OpQueue.none c.queues k
  let h := if heads = 2 then q.head2 else q.head
  (List.range n).map fun i => queueRow c k (h + i)
/-- Pop rows (R279, R312): a leading or trailing warp of a NEAR grid moves its own head, any other both. -/
def popRows (c : Core) (heads k n : Nat) : Core :=
  let q := FMap.get OpQueue.none c.queues k
  let one := if heads = 2 then q else { q with head := (q.head + n) % 128, left := q.left - n }
  let two := if heads = 1 then one else { one with head2 := (q.head2 + n) % 128, left2 := q.left2 - n }
  { c with queues := FMap.set c.queues k two }

/-- The exact sum of a group (R376). -/
def exactSum : List Exact → Exact
  | [] => .fin false 0 1
  | [x] => x
  | x :: xs => Exact.add 0 x (exactSum xs)

/-- One output element accumulated over the K dimension (R375, R376, R377): `a k` and `b k` are the operands. -/
def dot (fb : BitVec 128) (c : Nat) (a b : Nat → Nat) : Nat :=
  let n := fbSegs fb * fbK fb
  let f := fmt (fbB fb)
  if fbC fb = 2 then (List.range n).foldl (fun x k => (fmt 1).fma false 0 false (a k) (b k) x) c
  else if fbC fb = 1 then
    (((List.range n).foldl (fun (x : Int) k => x + readInt 6 (a k) * readInt 6 (b k)) (c : Int)) % 2 ^ 32).toNat
  else
    (List.range (n / 32)).foldl (fun x g =>
      let s := exactSum ((List.range 32).map fun i => (f.read (a (32 * g + i))).mul (f.read (b (32 * g + i))))
      (fmt 0).round 0 false (Exact.add 0 ((fmt 0).read x) s)) c

/-- The words of core storage at which a tile starts (R278). -/
def tileWord (z : Nat) : Nat := (0x180000 + 1024 * z) / 4

/-- Compute one step's span (R484, R485, R486). -/
def computeItem (c : Core) (m : MatOp) (i : MatItem) : FMap Word :=
  let a := entryRows c m.heads i.qa i.na
  let b := entryRows c m.heads i.qb i.nb
  let k := fbK m.fb
  let bits := fmtBits (fbB m.fb)
  let e := if fbC m.fb = 2 then 2 else 1
  let elem (rows : List Nat) (per line x : Nat) : Nat := elemOf bits (x % k) (rows.getD (x / k * per + line) 0)
  (List.range (i.m * i.n)).foldl (fun words x =>
    let at0 := tileWord i.z + x * e
    let old := if m.clr then 0 else readWords c.words at0 e
    writeWords words at0 e (dot m.fb old (elem a i.m (x / i.n)) (elem b i.n (x % i.n)))) c.words

/-- The tile an ACC instruction names, as its warp sees it (R312). -/
def MatOp.tile (m : MatOp) : Nat :=
  (match m.ins with
   | .accld _ f => f.zd.toNat
   | .accst _ f => f.zd.toNat
   | .accmv _ f => f.zd.toNat
   | _ => 0) + if m.heads = 2 then 128 else 0

/-- The signature of an ACCST (R495): 32 pieces of 32 bytes with their addresses. -/
def accSig (m : MatOp) (pitch tile : Nat) : BitVec 64 :=
  signature ((List.range 32).map fun j =>
      ((accWord m.addr pitch (8 * j)).toNat, tile / 2 ^ (256 * j) % 2 ^ 256, 2 ^ 32 - 1))
    (leBytes 12 (encodeLane m.ins).toNat)

/-- Change the operation that an instruction of the matrix unit counts as, while its warp holds it. -/
def setMatOp (s : State) (m : MatOp) (f : AsyncOp → AsyncOp) : State :=
  match m.mem with
  | some o =>
    if m.alive then
      let w := s.wref m.w
      s.setWref m.w { w with ops := w.ops.map fun x => if x.tag == o.tag && x.op == 6 then f x else x }
    else s
  | none => s

/-- The store of an ACCST whose tile has been read (R493, R495): performed, or known to the SSCB and to the trailing warp's
signatures. -/
def accStore (s : State) (m : MatOp) (f : LX) (tile : Nat) : State :=
  let put (l : List LaneRes) : List LaneRes := l.mapIdx fun k x => { x with val := BitVec.ofNat 256 (elemOf 32 k tile) }
  let sig := accSig m (accPitch f) tile
  match m.mem with
  | none =>
    let w := s.wref m.w
    let fill (acc : List (Bool × Option (BitVec 64)) × Bool) (x : Bool × Option (BitVec 64)) :
        List (Bool × Option (BitVec 64)) × Bool :=
      if !acc.2 && x.2.isNone then (acc.1 ++ [(x.1, some sig)], true) else (acc.1 ++ [x], acc.2)
    if m.alive then s.setWref m.w { w with sigs := (w.sigs.foldl fill ([], false)).1 } else s
  | some o =>
    if o.held then
      let s1 := setMatOp s m fun x => { x with op := 1, res := put x.res }
      match (s.wref m.w).mate with
      | some sh =>
        let x := s1.wref sh
        s1.setWref sh { x with sscb := x.sscb.map fun y =>
          if y.tag == o.tag && y.path == 1 && !y.ready then { y with sig := sig, ready := true } else y }
      | none => s1
    else
      let who : Who := { site := m.w.site, core := m.w.core, slot := m.w.slot, sec := m.sec, own := true }
      let (s1, res) := performLanes s who { o with op := 1 } (put o.res)
      setMatOp s1 m fun x => { x with op := 1, res := res }

/-- The watches on tiles of a core that are written fire (R247). -/
def fireTiles (s : State) (site core : Nat) (zs : List Nat) : State :=
  fireWatches s fun k w => k / 64 == coreKey site core && zs.any fun z => (List.range 8).any fun i =>
    watches (lineOf (winAddr site core + 0x180000 + 1024 * z + 128 * i)) w
/-- An instruction leaves the unit: the tiles it writes that a window access wrote meanwhile are undefined (R491). -/
def matDone (s : State) (site core : Nat) (m : MatOp) : State :=
  let c := s.core site core
  let spoil (ws : FMap Word) (z : Nat) : FMap Word :=
    (List.range 256).foldl (fun t i => FMap.put 0 t (tileWord z + i) ((Config.free s.free (256 * z + i)).setWidth 32)) ws
  let s1 := s.setCore site core { c with matQ := c.matQ.drop 1, words := m.bad.foldl spoil c.words }
  if m.bad.isEmpty then s1 else s1.fresh

/-- An ACC instruction takes effect on its tile (R490 to R494); an ACCLD whose data came back poisoned writes none (R331). -/
def accRun (s : State) (site core : Nat) (m : MatOp) : State :=
  let c := s.core site core
  let at0 := tileWord m.tile
  let write (words : FMap Word) : State := fireTiles (s.setCore site core { c with words := words }) site core m.writes
  match m.ins with
  | .accz _ _ => write (m.writes.foldl (fun words z => writeWords words (tileWord z) 256 0) c.words)
  | .accld _ _ =>
    let odd := match m.mem with | some o => o.res.any fun x => x.status == stPoison | none => false
    setMatOp (if odd then s else write (writeWords c.words at0 256 m.data.toNat)) m fun x => { x with op := 3 }
  | .accst _ f => accStore s m f (readWords c.words at0 256)
  | .accmv _ f =>
    if f.m.getLsbD 0 then
      write ((List.range 256).foldl (fun words k =>
        if m.act.getLsbD (k % 32) then FMap.put 0 words (at0 + k) (wordOf m.data.toNat k) else words) c.words)
    else
      let tile := readWords c.words at0 256
      let res := (lanesOf m.act).map fun l =>
        ({ lane := l, va := 0, tr := Tr.zero, size := 32, status := stOk,
           val := BitVec.ofNat 256 (wordsNat ((List.range 8).map fun i => wordOf tile (32 * i + l))) } : LaneRes)
      setMatOp s m fun x => { x with op := 3, res := res }
  | _ => s

/-- The matrix unit works for a number of clk from now on; those of the activity window count in it (R219). -/
def Core.spend (c : Core) (w : Nat) : Core := { c with busy := c.busy + min w (1024 * (c.win + 1) - c.clk), busyTo := c.clk + w }

/-- The oldest accepted instruction goes on once the unit has done its last step (R487, R490): each quarter or group at the rate in
force as soon as its entries are complete, until the instruction has finished, or the unit works, or waits for rows. -/
def matAdvance (s : State) (site core : Nat) : Nat → State
  | 0 => s
  | fuel + 1 =>
    let c := s.core site core
    match c.matQ with
    | [] => s
    | m :: rest =>
      match m.items, m.items[m.pos]? with
      | [], _ => if c.clk < c.busyTo then s else matAdvance (matDone (accRun s site core m) site core m) site core fuel
      | _, none => if c.clk < c.busyTo then s else matAdvance (matDone s site core m) site core fuel
      | _, some i =>
        if c.busyTo ≤ c.clk && decide (0 < coreRate s site core) && i.na ≤ rowsLeft c m.heads i.qa && i.nb ≤ rowsLeft c m.heads i.qb then
          let c1 := { c.spend (m.work (coreRate s site core)) with words := computeItem c m i }
          let c2 := popRows c1 m.heads i.qa i.na
          let c3 := if i.popB then popRows c2 m.heads i.qb i.nb else c2
          let s1 := s.setCore site core { c3 with matQ := { m with pos := m.pos + 1 } :: rest }
          let s2 := fireTiles s1 site core ((List.range ((i.m * i.n * (if fbC m.fb = 2 then 8 else 4) + 1023) / 1024)).map fun k => i.z + k)
          if m.pos = 0 && m.alive then s2.setWref m.w (s2.wref m.w).leave else s2
        else s

/-- The instruction that waits at a pipe, run for its warp. -/
def matRun (s : State) (m : MatOp) : Out :=
  match m.ins with
  | .mma h f => execMma h f s
  | .mmaw h f => execMmaw h f s
  | .mmag h f => execMmag h f s
  | .accz h f => execAccz h f s
  | .accld h f => execAccld h f s
  | .accst h f => execAccst h f s
  | .accmv h f => execAccmv h f s
  | _ => .next s

end Sys2Proof.Machine
end

