-- ==== Sys2Proof/Machine/Render.lean ====
section
/-! DEFINITION. The render instructions and what they act on (R179 to R202, R508 to R518): class 0xC, frames, tiles, the
raster engine, the tile ordering unit, texture sampling and tile flushes. -/
namespace Sys2Proof.Machine

/-- A frame that no slot holds. -/
def Frame.none : Frame := { desc := 0, own := [], sites := 0, acks := 0, opening := false, closed := 0, rel := 0 }
/-- The frame of a slot. -/
def State.frame (s : State) (f : Nat) : Frame := FMap.get Frame.none s.hub.frames f
/-- Change the frame of a slot. -/
def State.setFrame (s : State) (f : Nat) (x : Frame) : State :=
  { s with hub := { s.hub with frames := FMap.set s.hub.frames f x } }
/-- FRSTAT.STATE of a slot: 0 IDLE, 1 OPEN, 2 FINISH, 3 LATCH (R179). -/
def State.frameSt (s : State) (f : Nat) : Nat := s.regF (frstatA f) 2 0
/-- WIDTH of a frame (R182). -/
def Frame.wd (f : Frame) : Nat := fieldAt f.desc 2 2
/-- HEIGHT of a frame (R182). -/
def Frame.ht (f : Frame) : Nat := fieldAt f.desc 4 2
/-- NDRAWS of a frame (R182). -/
def Frame.ndraws (f : Frame) : Nat := fieldAt f.desc 6 2
/-- Tile columns of a frame (R183). -/
def Frame.tw (f : Frame) : Nat := (f.wd + 63) / 64
/-- Tile rows of a frame (R183). -/
def Frame.th (f : Frame) : Nat := (f.ht + 63) / 64
/-- Tiles of a frame (R183). -/
def Frame.tiles (f : Frame) : Nat := f.tw * f.th
/-- Site and core position that own a tile (R185). -/
def Frame.owner (f : Frame) (i : Nat) : Nat × Nat := let e := f.own.getD i 0; (e / 64, e % 64)
/-- The tiles that a core owns, in index order. -/
def Frame.mine (f : Frame) (site core : Nat) : List Nat := (List.range f.tiles).filter fun i => f.owner i == (site, core)
/-- The order gate of a die for a frame slot (R191). -/
def State.gate (s : State) (site f : Nat) : Gate := FMap.get Gate.reset (s.die site).gates f
/-- Change the order gate of a die for a frame slot. -/
def State.setGate (s : State) (site f : Nat) (g : Gate) : State :=
  let d := s.die site
  s.setDie site { d with gates := FMap.set d.gates f g }
/-- The state of a tile at its gate (R195). -/
def Gate.tile (g : Gate) (i : Nat) : TileSt := FMap.get .binning g.tiles i

/-- A vertex: x and y in 24.8 fixed point, z and q as FP32 (R187). -/
structure Vtx where
  x : Int
  y : Int
  z : Nat
  q : Nat
  deriving DecidableEq, Repr
/-- Vertex `i` of a packet (R187). -/
def vtx (p : BitVec 2048) (i : Nat) : Vtx :=
  let o := 0x10 + 16 * i
  { x := (BitVec.ofNat 32 (fieldAt p o 4)).toInt, y := (BitVec.ofNat 32 (fieldAt p (o + 4) 4)).toInt,
    z := fieldAt p (o + 8) 4, q := fieldAt p (o + 12) 4 }
/-- The edge function of vertices a and b at a point: twice a signed area. -/
def edge (a b : Vtx) (x y : Int) : Int := (a.x - x) * (b.y - y) - (b.x - x) * (a.y - y)
/-- Twice the signed area of a triangle; above 0 where it faces the front (R512). -/
def area (a b c : Vtx) : Int := (b.x - a.x) * (c.y - a.y) - (c.x - a.x) * (b.y - a.y)
/-- Whether an edge from a to b is a top or a left edge of the triangle with the third vertex c (R198). -/
def topLeft (a b c : Vtx) : Bool :=
  if a.y = b.y then decide (a.y < c.y)
  else
    let d := (c.x - a.x) * (b.y - a.y) - (b.x - a.x) * (c.y - a.y)
    if a.y < b.y then decide (0 < d) else decide (d < 0)
/-- Whether a point is covered (R198). -/
def covers (a b c : Vtx) (x y : Int) : Bool :=
  let s := area a b c
  let one (p q r : Vtx) : Bool :=
    let e := edge p q x y * s.sign
    decide (0 < e) || (e == 0 && topLeft p q r)
  s != 0 && one b c a && one c a b && one a b c

/-- The centre of a pixel of a block in 24.8 fixed point, and the pixel within its tile (R197, R198). -/
def pixelAt (blk l : Nat) : Nat × Nat := (blk % 8 * 8 + l % 8, blk / 8 * 4 + l / 8)
/-- The batches of a primitive in a tile: blocks with covered lanes, in ascending order (R198). -/
def batchesOf (fr : Frame) (tile : Nat) (p : Prim) : List (Nat × Word) :=
  let a := vtx p.payload 0
  let b := vtx p.payload 1
  let c := vtx p.payload 2
  let flags := fieldAt p.payload 1 1
  let culled := if 0 < area a b c then flags / 2 % 2 == 1 else flags % 2 == 1
  let tx := tile % fr.tw
  let ty := tile / fr.tw
  let lane (blk l : Nat) : Bool :=
    let (px, py) := pixelAt blk l
    decide (64 * tx + px < fr.wd) && decide (64 * ty + py < fr.ht) &&
      covers a b c (((64 * tx + px) * 256 + 128 : Nat) : Int) (((64 * ty + py) * 256 + 128 : Nat) : Int)
  if culled then []
  else ((List.range 128).map fun blk => (blk, maskOf (lane blk))).filter fun x => x.2 != 0

/-- A finite FP32 value as a signed quotient (R512). -/
def ratOf (x : Nat) : Option Rat2 :=
  match (fmt 0).read x with
  | .fin s n d => some { n := if s then -(n : Int) else n, d := d }
  | _ => none
/-- A sum of quotients weighted by integers: numerator and denominator. -/
def weighted : List (Int × Rat2) → Rat2
  | [] => { n := 0, d := 1 }
  | (w, r) :: l => let t := weighted l; { n := w * r.n * t.d + t.n * r.d, d := r.d * t.d }
/-- A quotient of quotients rounded to FP32 (R512). -/
def divRound (a b : Rat2) : Nat :=
  let n := a.n * b.d
  let d := a.d * b.n
  (fmt 0).round 0 false (.fin (decide ((n < 0) != (d < 0)) && n != 0) n.natAbs d.natAbs)

/-- The words of a fragment (R512): fragment word, depth and both weights. -/
def fragment (fr : Frame) (tile : Nat) (p : Prim) (blk : Nat) (cov : Word) (l : Nat) : Nat :=
  let a := vtx p.payload 0
  let b := vtx p.payload 1
  let c := vtx p.payload 2
  let (px, py) := pixelAt blk l
  let x : Int := ((64 * (tile % fr.tw) + px) * 256 + 128 : Nat)
  let y : Int := ((64 * (tile / fr.tw) + py) * 256 + 128 : Nat)
  let e0 := edge b c x y
  let e1 := edge c a x y
  let e2 := edge a b x y
  let s := area a b c
  let word := (if cov.getLsbD l then 2 ^ 31 else 0) + (if 0 < s then 2 ^ 30 else 0) + blk * 2 ^ 12 + py * 64 + px
  let z := match ratOf a.z, ratOf b.z, ratOf c.z with
    | some r0, some r1, some r2 => divRound (weighted [(e0, r0), (e1, r1), (e2, r2)]) { n := s, d := 1 }
    | _, _, _ => (fmt 0).nan
  let bary (k : Int → Int → Int → List (Int × Rat2) → Rat2) : Nat :=
    match ratOf a.q, ratOf b.q, ratOf c.q with
    | some r0, some r1, some r2 =>
      let t := weighted [(e0, r0), (e1, r1), (e2, r2)]
      if t.n = 0 then 0 else divRound (k e0 e1 e2 [(e0, r0), (e1, r1), (e2, r2)]) t
    | _, _, _ => (fmt 0).nan
  let b1 := bary fun _ _ _ l => weighted (l.drop 1 |>.take 1)
  let b2 := bary fun _ _ _ l => weighted (l.drop 2)
  word + z * 2 ^ 32 + b1 * 2 ^ 64 + b2 * 2 ^ 96

/-- A render instruction (R313, R508): illegal outside NONE; otherwise its warp leaves its region (R324). -/
def State.rendering (s : State) (h : Hdr) (i : Instr) (fs : List (BitVec 13)) (k : State → LaneEnv → Out) : Out :=
  s.withRegs h fs fun e =>
    if (s.gridOf e.w).redun ≠ 0 then s.illegal (laneInfo i) else k s e
/-- The warp of a render instruction as it issues, outside any region (R324). -/
def State.left (s : State) : State := s.setW s.curW.leave

/-- A word that every active lane gives alike, taken in the lane `low`; lanes that differ are illegal (R508). -/
def State.uniform (s : State) (e : LaneEnv) (f : BitVec 13) (low : Nat) (i : Instr) (k : Nat → Out) : Out :=
  let v := srcVal s e f low
  let odd := maskOf fun l => e.act.getLsbD l && srcVal s e f l != v
  if odd ≠ 0 then s.trap (laneTrap e 1 odd 0 (laneInfo i)) else k v

/-- The packet of a primitive in its lane's registers (R187, R510), with the tile box it meets on the screen. -/
def packetOf (fr : Frame) (f : Nat) (flags : Nat) (key : BitVec 48) (a b : Nat) : Prim × List Nat :=
  let raw : BitVec 2048 := BitVec.ofNat 2048 (a * 2 ^ 128 + b % 2 ^ 192 * 2 ^ 384)
  let v0 := vtx raw 0
  let v1 := vtx raw 1
  let v2 := vtx raw 2
  let lo (x y z : Int) : Int := (min x (min y z)).fdiv 16384
  let hi (x y z : Int) : Int := (max x (max y z)).fdiv 16384
  let c0 := max 0 (lo v0.x v1.x v2.x)
  let c1 := min ((fr.tw : Int) - 1) (hi v0.x v1.x v2.x)
  let r0 := max 0 (lo v0.y v1.y v2.y)
  let r1 := min ((fr.th : Int) - 1) (hi v0.y v1.y v2.y)
  let box := if c1 < c0 || r1 < r0 || area v0 v1 v2 = 0 then []
    else (List.range fr.tiles).filter fun i =>
      decide (c0 ≤ (i % fr.tw : Nat)) && decide (((i % fr.tw : Nat) : Int) ≤ c1) &&
        decide (r0 ≤ (i / fr.tw : Nat)) && decide (((i / fr.tw : Nat) : Int) ≤ r1)
  let head := f + flags * 2 ^ 8 + c0.toNat * 2 ^ 16 + r0.toNat * 2 ^ 32 + c1.toNat * 2 ^ 48 + r1.toNat * 2 ^ 64
  ({ frame := f, key := key, payload := raw ||| BitVec.ofNat 2048 head }, box)

/-- Primitive packets leave their core for the mesh (R187). -/
def injectPrims (s : State) (l : List PrimMsg) : State :=
  { s with prims := s.prims ++ l,
           mesh := s.mesh ++ l.map fun m => { router := m.src.site, hdr := m.hdr, set := 0, slot := m.prim.frame, data := 0 } }

/-- PRIMOUT (R187 to R190, R510). -/
def execPrimout (h : Hdr) (f : L3) (s : State) : Out :=
  let i : Instr := .primout h f
  s.rendering h i [f.a, f.b, f.c] fun s e =>
    if !e.w.canIssue 1 then s.wait
    else
      let r := e.r
      let w := s.curW
      let o : AsyncOp := { opNew w 1 e.path.pc with isLane := true, slot1 := e.one }
      match lanesOf e.act with
      | [] =>
        let s1 := releaseAt s.left r.site r.core r.slot 4 none
        let s2 := s1.setWref r ((s1.wref r).enter o)
        .next (lanePath (laneIssued s2 e tPlain [] [f.a, f.b, f.c]) e h)
      | low :: _ =>
        s.uniform e f.c low i fun word =>
          let slot := word % 16
          let draw := word / 2 ^ 16
          let t := s.team w.team
          let fr := s.frame slot
          let other := match t.bound with | some x => x != (slot, draw) | none => false
          if word / 64 % 2 ^ 10 ≠ 0 || other then s.illegal (laneInfo i)
          else if s.frameSt slot ≠ 1 || s.regF (frstatA slot) 4 4 ≠ worldNo (s.gridOf w).sec then
            s.trap (laneTrap e 5 e.act 0 [])
          else
            let s1 := releaseAt s.left r.site r.core r.slot 4 none
            let s2 := s1.setTeam w.team { s1.team w.team with bound := some (slot, draw), gone := false }
            let msgs := (lanesOf e.act).flatMap fun l =>
              let b := srcVal s e f.b l
              let key := BitVec.ofNat 48 (draw * 2 ^ 32 + t.t * 2 ^ 12 + b / 2 ^ 192 % 2 ^ 12)
              let (p, box) := packetOf fr slot (word / 16 % 4) key (srcVal s e f.a l) b
              ((List.range 48).filter fun x => box.any fun k => (fr.owner k).1 == x).map fun x =>
                ({ hdr := mkHdr x r.site r.core 2 (genOf s r.site) 0 1 0 0 key.toNat 0, lost := false, site := x, prim := p, team := w.team,
                   src := r, tag := w.tag } : PrimMsg)
            let s3 := injectPrims s2 msgs
            let s4 := s3.setWref r ((s3.wref r).enter { o with op := if msgs.isEmpty then 3 else 7 })
            .next (lanePath (laneIssued s4 e tPlain [] [f.a, f.b, f.c]) e h)

/-- The claim of a team on its core (R195). -/
def claimOf (s : State) (r : WRef) : Option Claim :=
  (s.core r.site r.core).claims.find? fun c => c.team == (s.wref r).team
/-- Change the claim of a team. -/
def setClaim (s : State) (r : WRef) (x : Claim) : State :=
  let c := s.core r.site r.core
  s.setCore r.site r.core { c with claims := c.claims.map fun y => if y.team == x.team then x else y }
/-- Drop the claim of a team. -/
def dropClaim (s : State) (site core team : Nat) : State :=
  let c := s.core site core
  s.setCore site core { c with claims := c.claims.filter fun y => y.team != team }

/-- Physical address of a byte of a team's tile memory (R196). -/
def tilePa (s : State) (team : Nat) (f : Frame) (off : Nat) : Nat :=
  let t := s.team team
  winAddr t.site t.core + 0x100000 + 1024 * t.gran + fieldAt f.desc 0x4C 4 + off
/-- Write bytes of tile memory through its core's window port. -/
def tileWrite (s : State) (team : Nat) (f : Frame) (off size val : Nat) : State :=
  let t := s.team team
  (windowStore s t.site t.core (tilePa s team f off - winAddr t.site t.core) size val).1
/-- `n` copies of a value of `k` bits, the first lowest. -/
def copies (k n v : Nat) : Nat := v * ((2 ^ (k * n) - 1) / (2 ^ k - 1))

/-- The render units of a core as a requester: under the position of the core (log 20), but located at the die and at no core or
cluster, so that no L1 serves them (R283). -/
def renderWho (s : State) (r : WRef) : Who :=
  { site := r.site, core := r.core, slot := 64, sec := (s.gridOf (s.wref r)).sec, own := false }

/-- The warps of a team have no primitive and no batch: those of an earlier claim are none of a new one (R195, R511). -/
def noBatches (s : State) (team : Nat) : State :=
  (teamWarps s (s.team team)).foldl (fun t r => t.setWref r { t.wref r with prim := none, batch := none }) s

/-- A team claims a READY tile (R195): its tile memory is cleared, or filled from its spill slot. A fill that fails leaves the
tile as it was, and answers the address and the failure (R264). -/
def claimTile (s : State) (r : WRef) (f i : Nat) : State × Option (Nat × Vm) :=
  let team := (s.wref r).team
  let fr := s.frame f
  let hold (s : State) (first : State → State) : State :=
    let g := s.gate r.site f
    let s1 := s.setGate r.site f { g with tiles := FMap.set g.tiles i .claimed }
    let c := s1.core r.site r.core
    let x : Claim := { frame := f, fr := fr, ended := false, tile := i, team := team, final := !g.part.contains i, nextOrd := 0,
                       handed := [], flushing := false }
    first (noBatches (s1.setCore r.site r.core { c with claims := c.claims ++ [x] }) team)
  if (s.gate r.site f).spilled.contains i then
    let who := renderWho s r
    let root := (s.gridOf (s.wref r)).root
    match engLoads s who root (fieldAt fr.desc 0x30 8 + i * 49152) 8 6144 with
    | (s1, v, none) => (hold s1 fun t => tileWrite t team fr 0 49152 v, none)
    | (s1, _, some (va, x)) => (engFault s1 who.site who.sec root va who.core false x, some (va, x))
  else
    (hold s fun t => tileWrite (tileWrite t team fr 0 32768 (copies 64 4096 (fieldAt fr.desc 0x40 8))) team fr 0x8000 16384
      (copies 32 4096 (fieldAt fr.desc 0x48 4)), none)

/-- Give a pending BINNEXT its eight words (R511). -/
def binGive (s : State) (r : WRef) (o : AsyncOp) (words : Nat) : State :=
  let w := s.wref r
  let put (x : AsyncOp) : AsyncOp :=
    if x.tag == o.tag && x.op == 8 then { x with op := 3, res := x.res.map fun y => { y with val := BitVec.ofNat 256 words } } else x
  s.setWref r { w with ops := w.ops.map put, binWait := none }

/-- A BINNEXT whose tile could not be filled stops (R264): it counts as complete, with undefined results and its record. -/
def binStop (s : State) (r : WRef) (o : AsyncOp) (base : Nat) (va : Nat) (x : Vm) : State :=
  let w := s.wref r
  let put (y : AsyncOp) : AsyncOp :=
    if y.tag == o.tag && y.op == 8 then
      { y with op := 3, cause := 11, detail := vmDetail x, base := BitVec.ofNat 64 base, len := 49152, off := 0,
               res := y.res.map fun z => { z with va := BitVec.ofNat 64 va, val := BitVec.ofNat 256 (s.any z.lane) } }
    else y
  (s.setWref r { w with ops := w.ops.map put, binWait := none }).fresh

/-- Hand out the next bin entry of a claimed tile, or END; nothing while 64 primitives are not retired (R197, R511). -/
def binHand (s : State) (r : WRef) (o : AsyncOp) (c : Claim) : Option State :=
  let fr := c.fr
  let g := s.gate r.site c.frame
  let place := 64 * (c.tile % fr.tw) * 2 ^ 192 + 64 * (c.tile / fr.tw) * 2 ^ 224
  match FMap.get [] g.bins c.tile with
  | [] => some (binGive s r o (1 + c.tile * 2 ^ 32 + place))
  | p :: rest =>
    if 64 ≤ c.handed.length then none
    else
      let bs := batchesOf fr c.tile p
      let x : Handed := { ord := c.nextOrd, prim := p, todo := bs, blocks := bs.map fun b => b.1 }
      let s1 := s.setGate r.site c.frame { g with bins := FMap.set g.bins c.tile rest }
      let c1 : Claim := { c with nextOrd := c.nextOrd + 1, handed := if bs.isEmpty then c.handed else c.handed ++ [x] }
      let s2 := setClaim s1 r c1
      let s3 := s2.setWref r { s2.wref r with prim := some c.nextOrd }
      let words := c.tile * 2 ^ 32 + fieldAt p.payload 0x40 8 * 2 ^ 64 + p.key.toNat * 2 ^ 128 + place
      some (acquireAct (binGive s3 r o words) r.site r.core 4)

/-- Whether a team that is off its core holds a tile there, or has a BINNEXT pending there: no other team claims one (R353). -/
def heldClaim (s : State) (site core : Nat) : Bool :=
  let off (t : Team) : Bool := t.st == .saved || t.st == .returning
  (s.core site core).claims.any (fun c => !c.ended && off (s.team c.team)) ||
    s.hub.teams.any fun e => e.2.site == site && e.2.core == core && off e.2 && e.2.kept.any fun w => w.binWait.isSome

/-- Serve the BINNEXT that a warp waits in, where it can end (R195, R197, R511). A team whose tile belongs to a frame that has
ended holds it no more, and is told FRAMEDONE (R181). While its team holds a tile, the slot that the BINNEXT names is not looked at
(log 20, R195). -/
def binTry (s : State) (r : WRef) : Option State :=
  match (s.wref r).binWait with
  | none => none
  | some (f, o) =>
    match claimOf s r with
    | some c =>
      if c.flushing then none
      else if c.ended then some (binGive (dropClaim s r.site r.core c.team) r o 2)
      else binHand s r o c
    | none =>
      if s.frameSt f = 0 then some (binGive s r o 2)
      else
        let g := s.gate r.site f
        let mine := if heldClaim s r.site r.core then [] else (s.frame f).mine r.site r.core
        match mine.find? fun i => g.tile i == .ready with
        | some i =>
          (match claimTile s r f i with
           | (s1, some (va, x)) => some (binStop s1 r o (fieldAt (s.frame f).desc 0x30 8 + i * 49152) va x)
           | (s1, none) =>
             match claimOf s1 r with
             | some c => (match binHand s1 r o c with | some s2 => some s2 | none => some s1)
             | none => some s1)
        | none => if ((s.frame f).mine r.site r.core).all fun i => g.tile i == .done then some (binGive s r o 2) else none

/-- What the end of a frame does to a warp (R181): a BINNEXT of it that waits returns FRAMEDONE. -/
def Warp.frameOver (w : Warp) (f : Nat) : Warp :=
  match w.binWait with
  | some (g, o) =>
    if g = f then
      let put (x : AsyncOp) : AsyncOp :=
        if x.tag == o.tag && x.op == 8 then { x with op := 3, res := x.res.map fun y => { y with val := 2 } } else x
      { w with ops := w.ops.map put, binWait := .none }
    else w
  | .none => w
/-- What the end of a frame does at the cores (R181, R353): the BINNEXTs of the frame that wait return FRAMEDONE; a team that
holds one of its tiles is marked, so that its flush writes nothing; a team that is off its core holds none any more; one that is bound
to a draw of it sends no markers. -/
def frameOver (s : State) (f : Nat) : State :=
  let off (team : Nat) : Bool := (s.team team).st == .saved || (s.team team).st == .returning
  let core : Nat × Core → Nat × Core := fun e =>
    (e.1, { e.2 with claims := (e.2.claims.filter fun x => !(x.frame == f && off x.team)).map fun x => if x.frame = f then { x with ended := true } else x })
  let holds (id : Nat) (t : Team) : Bool := (s.core t.site t.core).claims.any fun x => x.frame == f && x.team == id
  let team : Nat × Team → Nat × Team := fun e =>
    (e.1, { e.2 with gone := e.2.gone || (match e.2.bound with | some b => b.1 == f | none => false),
                     kept := e.2.kept.map fun w => if holds e.1 e.2 then { w.frameOver f with prim := none, batch := none } else w.frameOver f })
  { s with cores := s.cores.map core, warps := s.warps.map fun e => (e.1, e.2.frameOver f),
           hub := { s.hub with teams := s.hub.teams.map team } }

/-- Batches of the current primitive that RASTQ has not returned are retired without being written (R511). -/
def retirePrim (s : State) (r : WRef) : State :=
  let w := s.wref r
  match claimOf s r, w.prim with
  | some c, some k =>
    let cut (x : Handed) : Handed :=
      if x.ord = k then { x with todo := [], blocks := x.blocks.filter fun b => !x.todo.any fun t => t.1 == b } else x
    (setClaim s r { c with handed := (c.handed.map cut).filter fun x => !x.blocks.isEmpty }).setWref r { w with prim := none }
  | _, _ => s.setWref r { w with prim := none }

/-- A lane's share of an operation whose values a render unit gives. -/
def unitRes (l : Nat) (size val : Nat) : LaneRes :=
  { lane := l, va := 0, tr := Tr.zero, size := size, val := BitVec.ofNat 256 val, status := stOk }

/-- BINNEXT (R195, R197, R508, R511). -/
def execBinnext (h : Hdr) (f : L3) (s : State) : Out :=
  let i : Instr := .binnext h f
  s.rendering h i [f.d, f.a] fun s e =>
    let low := match lanesOf e.act, lanesOf e.path.mask with | l :: _, _ => l | [], l :: _ => l | [], [] => 0
    s.uniform e f.a low i fun word =>
      if 16 ≤ word || e.w.batch.isSome then s.illegal (laneInfo i)
      else if s.frameSt word ≠ 0 && s.regF (frstatA word) 4 4 ≠ worldNo (s.gridOf e.w).sec then s.trap (laneTrap e 5 e.act 0 [])
      else if !e.w.canIssue 0 || e.w.binWait.isSome then s.wait
      else
        let s1 := retirePrim s.left e.r
        let w := s1.curW
        let o : AsyncOp :=
          { opNew w 0 e.path.pc with
            isLane := true, slot1 := e.one, op := 8, dst := some (num f.d), width := 8
            res := (lanesOf e.act).map fun l => unitRes l 32 0 }
        let s2 := s1.setW { w.enter o with binWait := some (word, o) }
        let s3 := match binTry s2 e.r with | some t => t | none => s2
        s3.laneMemEnd e h [f.a] (some (num f.d)) 8 w.tag

/-- RASTQ (R198, R512). -/
def execRastq (h : Hdr) (f : L3) (s : State) : Out :=
  let i : Instr := .rastq h f
  s.rendering h i [f.d] fun s e =>
    match claimOf s e.r with
    | none => s.illegal (laneInfo i)
    | some c =>
      if e.w.batch.isSome then s.illegal (laneInfo i)
      else if !e.w.canIssue 0 then s.wait
      else
        let fr := c.fr
        let cur := c.handed.find? fun x => some x.ord == e.w.prim
        let w := s.left.curW
        let go (t : State) (b : Option Batch) (val : Nat → Nat) : Out :=
          let o : AsyncOp :=
            { opNew w 0 e.path.pc with
              isLane := true, slot1 := e.one, dst := some (num f.d), width := 4
              res := (lanesOf e.act).map fun l => unitRes l 16 (val l) }
          let t1 := t.setW { (t.curW.leave).enter o with batch := b }
          t1.laneMemEnd e h [] (some (num f.d)) 4 w.tag
        match cur with
        | some x =>
          (match x.todo with
           | (blk, cov) :: rest =>
             let c1 := { c with handed := c.handed.map fun y => if y.ord = x.ord then { y with todo := rest } else y }
             go (setClaim s e.r c1) (some { blk := blk, cov := cov, opened := false }) (fragment fr c.tile x.prim blk cov)
           | [] => go s none fun _ => 0x20000000)
        | none => go s none fun _ => 0x20000000

/-- Whether the ordered step of a batch may open (R199): no lower entry still holds its block. -/
def stepFree (c : Claim) (ord blk : Nat) : Bool := !c.handed.any fun x => decide (x.ord < ord) && x.blocks.contains blk

/-- An instruction of the current batch's ordered step (R199, R509): illegal without claim or batch, a wait until the step
may open. -/
def State.ordered (s : State) (e : LaneEnv) (i : Instr) (k : Claim → Batch → Nat → Out) : Out :=
  match claimOf s e.r, e.w.batch, e.w.prim with
  | some c, some b, some ord =>
    if b.opened || stepFree c ord b.blk then k c b ord else s.wait
  | _, _, _ => s.illegal (laneInfo i)

/-- Whether a depth test passes (R508, R513). -/
def zPass (fn a t : Nat) : Bool :=
  match fn with
  | 0 => false
  | 1 => cmpFloat (fmt 0) 2 a t
  | 2 => cmpFloat (fmt 0) 3 a t
  | 3 => cmpFloat (fmt 0) 0 a t
  | 4 => cmpFloat (fmt 0) 1 a t
  | 5 => cmpFloat (fmt 0) 5 a t
  | 6 => cmpFloat (fmt 0) 4 a t
  | _ => true

/-- Offsets in tile memory of a pixel's colour and depth (R196). -/
def colourOff (px py : Nat) : Nat := (64 * py + px) * 8
/-- Offset of a pixel's depth (R196). -/
def depthOff (px py : Nat) : Nat := 0x8000 + (64 * py + px) * 4

/-- ZTEST (R199, R513). -/
def execZtest (h : Hdr) (f : L3) (s : State) : Out :=
  let i : Instr := .ztest h f
  s.rendering h i [f.a] fun s e =>
    s.ordered e i fun c b _ =>
      let team := e.w.team
      let lane (l : Nat) : Nat × Bool :=
        let (px, py) := pixelAt b.blk l
        let off := depthOff px py
        let a := srcVal s e f.a l
        (off, e.act.getLsbD l && b.cov.getLsbD l &&
          zPass (f.m.extractLsb' 7 3).toNat a (readBytes s.mem (tilePa s team c.fr off) 4))
      let s1 := (List.range 32).foldl (fun t l =>
        let (off, ok) := lane l
        if ok && f.m.getLsbD 10 then tileWrite t team c.fr off 4 (srcVal s e f.a l) else t) s.left
      let s2 := s1.setW { s1.curW with batch := some { b with opened := true } }
      let s3 := laneIssued s2 e tCross [(true, num f.d)] [f.a]
      .next (lanePath (writePred s3 e.r (num f.d) e.act (maskOf fun l => (lane l).2)) e h)

/-- One channel of a blend (R514). -/
def blendOne (mode s d sa : Nat) : Nat :=
  let g := fmt 2
  match mode with
  | 0 => s
  | 1 => g.add false 0 false s d
  | _ => g.round 0 false (Exact.add 0 (g.read s) ((g.read d).mul (Exact.add 0 (.fin false 1 1) (g.read sa).neg)))
/-- A blended colour of four FP16 channels (R514). -/
def blend (mode s d : Nat) : Nat :=
  packElems 16 ((List.range 4).map fun i => blendOne mode (elemOf 16 i s) (elemOf 16 i d) (elemOf 16 3 s))

/-- TILEW (R199, R514). -/
def execTilew (h : Hdr) (f : L3) (s : State) : Out :=
  let i : Instr := .tilew h f
  s.rendering h i [f.a] fun s e =>
    s.ordered e i fun c b ord =>
      let team := e.w.team
      let s1 := (List.range 32).foldl (fun t l =>
        if e.act.getLsbD l && b.cov.getLsbD l then
          let (px, py) := pixelAt b.blk l
          let off := colourOff px py
          tileWrite t team c.fr off 8
            (blend (f.m.extractLsb' 7 2).toNat (srcVal s e f.a l) (readBytes s.mem (tilePa s team c.fr off) 8))
        else t) s.left
      let pass (x : Handed) : Handed := if x.ord = ord then { x with blocks := x.blocks.filter fun k => k != b.blk } else x
      let s2 := setClaim s1 e.r { c with handed := (c.handed.map pass).filter fun x => !x.blocks.isEmpty }
      let s3 := s2.setW { s2.curW with batch := none }
      .next (lanePath (laneIssued s3 e tPlain [] [f.a]) e h)

/-- Occupancy and latency of TILERD (R509). -/
def tRead : Timing := { o2 := 2, o3 := 3, l2 := 24, l3 := 27 }
/-- TILERD (R515). -/
def execTilerd (h : Hdr) (f : L3) (s : State) : Out :=
  let i : Instr := .tilerd h f
  s.rendering h i [f.d, f.a] fun s e =>
    match claimOf s e.r with
    | none => s.illegal (laneInfo i)
    | some c =>
      let depth := f.m.getLsbD 7
      s.left.laneOp h tRead f.d [f.a] fun e l =>
        let a := srcVal s e f.a l
        let px := a % 64
        let py := a / 64 % 64
        if depth then readBytes s.mem (tilePa s e.w.team c.fr (depthOff px py)) 4
        else readBytes s.mem (tilePa s e.w.team c.fr (colourOff px py)) 8

/-- A texture descriptor's fields are all in range (R516). -/
def texOk (d : Nat) : Bool :=
  let size := match dfield d 0x10 1 with | 0 => 4 | 1 => 8 | _ => 4
  let side (x : Nat) : Bool := decide (1 ≤ x) && decide (x ≤ 16384)
  side (dfield d 8 2) && side (dfield d 0xA 2) && dfield d 0xC 4 % size == 0 && decide (dfield d 0x10 1 ≤ 2) &&
    decide (dfield d 0x11 1 ≤ 1) && decide (dfield d 0x12 1 ≤ 1) && dfield d 0x13 13 == 0

/-- What sampling a coordinate takes (R516): the texel index and the 1/256 weight of the next one. -/
def texCoord (bilinear : Bool) (u size : Nat) : Int × Nat :=
  let r : Rat2 := match ratOf u with | some x => x | none => { n := 0, d := 1 }
  if !bilinear then ((r.n * size).fdiv r.d, 0)
  else
    let n := 2 * r.n * size - r.d
    let d : Int := 2 * r.d
    let i := n.fdiv d
    (i, ((n - i * d) * 256 / d).toNat)
/-- A texel index wrapped (R516). -/
def texWrap (rep : Bool) (size : Nat) (i : Int) : Nat :=
  if rep then (i % size).toNat else (max 0 (min ((size : Int) - 1) i)).toNat
/-- The four channels of a texel (R516). -/
def texel (format raw : Nat) : List Exact :=
  match format with
  | 0 => (List.range 4).map fun i => .fin false (elemOf 8 i raw) 255
  | 1 => (List.range 4).map fun i => (fmt 2).read (elemOf 16 i raw)
  | _ => [(fmt 0).read raw, .fin false 0 1, .fin false 0 1, .fin false 1 1]

/-- The texels of a sample with their weights in 1/65536 (R516): column, row, weight. -/
def texTaps (d u v : Nat) : List (Nat × Nat × Nat) :=
  let bi := dfield d 0x11 1 == 1
  let rep := dfield d 0x12 1 == 1
  let w := dfield d 8 2
  let ht := dfield d 0xA 2
  let (i, fu) := texCoord bi u w
  let (j, fv) := texCoord bi v ht
  let tap (a b k : Nat) : Nat × Nat × Nat := (texWrap rep w (i + a), texWrap rep ht (j + b), k)
  if bi then [tap 0 0 ((256 - fu) * (256 - fv)), tap 1 0 (fu * (256 - fv)), tap 0 1 ((256 - fu) * fv), tap 1 1 (fu * fv)]
  else [tap 0 0 65536]

/-- What a lane's sample came to: its value, its status, the failure that a check found, and the address of the access that failed
(R517). -/
structure TexEnd where
  val : Nat
  status : Nat
  fail : Option Nat
  va : DWord
  deriving DecidableEq, Repr

/-- The canonical NaN in all four components. -/
def texNan : Nat := copies 32 4 (fmt 0).nan

/-- Read the texels of a sample and sum them (R516, R517). -/
def texSum (s : State) (who : Who) (root d : Nat) : List (Nat × Nat × Nat) → List Exact → State × TexEnd
  | [], acc => (s, { val := packElems 32 (acc.map fun x => (fmt 0).round 0 false x), status := stOk, fail := none, va := 0 })
  | (x, y, k) :: l, acc =>
    let size := if dfield d 0x10 1 = 1 then 8 else 4
    let va := BitVec.ofNat 64 (dfield d 0 8 + y * dfield d 0xC 4 + x * size)
    match checkVa s who.site (some who.core) root who.sec va size .load with
    | (s1, .ok t) =>
      let (s2, v, st) := doLoad s1 who t size 0
      if st = stPerm then (s2, { val := texNan, status := stOk, fail := some 2, va := va })
      else if st ≠ stOk then (s2, { val := texNan, status := st, fail := none, va := va })
      else
        let part := (texel (dfield d 0x10 1) v).map fun c => c.mul (.fin false k 65536)
        texSum s2 who root d l (if acc.isEmpty then part else (acc.zip part).map fun z => Exact.add 0 z.1 z.2)
    | (s1, .page _ _) => (s1, { val := texNan, status := stOk, fail := some 1, va := va })
    | (s1, _) => (s1, { val := texNan, status := stOk, fail := some 2, va := va })

/-- One lane of TEX: its descriptor, then its texels (R516). -/
def texLane (s : State) (who : Who) (root u v : Nat) (va : DWord) (t : Tr) : State × TexEnd :=
  let (s1, d, st) := doLoad s who t 32 0
  if st ≠ stOk then (s1, { val := texNan, status := st, fail := none, va := va })
  else if !texOk d then (s1, { val := texNan, status := stOk, fail := none, va := va })
  else texSum s1 who root d (texTaps d u v) []

/-- TEX (R200, R516, R517). -/
def execTex (h : Hdr) (f : L3) (s : State) : Out :=
  let i : Instr := .tex h f
  s.rendering h i [f.d, f.a, f.b] fun s e =>
    if !e.w.canIssue 0 || !seqRoom s e.r.site e.r.core false 288 then s.wait
    else
      s.laneAccess e 32 .load ((lanesOf e.act).map fun l => { lane := l, va := BitVec.ofNat 64 (srcVal s e f.b l) }) fun s1 ts =>
        let who := renderWho s1 e.r
        let root := (s1.gridOf e.w).root
        let (s2, ends) := ts.foldl (fun (acc : State × List (LaneAddr × TexEnd)) x =>
          let uv := srcVal s e f.a x.1.lane
          let (t, r) := texLane acc.1 who root (uv % 2 ^ 32) (uv / 2 ^ 32) x.1.va x.2
          (t, acc.2 ++ [(x.1, r)])) (s1.left, [])
        let w := s2.curW
        let res := ends.map fun x => { unitRes x.1.lane 16 x.2.val with va := x.2.va, status := x.2.status }
        let bad := ends.filter fun x => x.2.fail.isSome
        let o : AsyncOp :=
          { opNew w 0 e.path.pc with
            isLane := true, slot1 := e.one, dst := some (num f.d), width := 4, scope := (f.m.extractLsb' 7 3).toNat, res := res
            fmask := lanesMask (bad.map fun x => x.1) }
        let o1 := match bad with
          | (_, { fail := some detail, va, .. }) :: _ => { o with cause := 8, detail := detail, base := va, len := 16 }
          | _ => o
        (s2.setW (w.enter o1)).laneMemEnd e h [f.a, f.b] (some (num f.d)) 4 w.tag

/-- TILEFL (R201, R518): the flush is an operation of the COPY path. -/
def execTilefl (h : Hdr) (f : L3) (s : State) : Out :=
  let i : Instr := .tilefl h f
  s.rendering h i [] fun s e =>
    match claimOf s e.r with
    | none => s.illegal (laneInfo i)
    | some c =>
      if c.flushing then s.illegal (laneInfo i)
      else if !e.w.canIssue 3 then s.wait
      else
        let s1 := setClaim s.left e.r { c with flushing := true }
        let w := s1.curW
        let g := s.gridOf w
        let x : EngOp :=
          { w := e.r, tag := w.tag, kind := .flush, desc := 0, fb := 0, scope := 5, root := g.root, sec := g.sec, nbr := none,
            tile := some (c.frame, c.tile), fin := false, pos := w.team, stop := none, held := false }
        let d := s1.die e.r.site
        let s2 := s1.setDie e.r.site { d with copies := d.copies ++ [x] }
        let s3 := s2.setW (w.enter { opNew w 3 e.path.pc with isLane := true, slot1 := e.one, engine := true, scope := 5 })
        .next (lanePath (laneIssued s3 e tPlain [] []) e h)

/-- The writes of a flush (R201): virtual address, size and value of each piece of a row. -/
def flushPieces (s : State) (fr : Frame) (final : Bool) (team tile : Nat) : List (Nat × Nat × Nat) :=
  let d := fr.desc
  if !final then [(fieldAt d 0x30 8 + tile * 49152, 49152, readBytes s.mem (tilePa s team fr 0) 49152)]
  else
    let x0 := 64 * (tile % fr.tw)
    let y0 := 64 * (tile / fr.tw)
    let nc := min 64 (fr.wd - x0)
    let nr := min 64 (fr.ht - y0)
    let zbuf := fieldAt d 0x28 8
    (List.range nr).flatMap fun py =>
      (fieldAt d 0x18 8 + (y0 + py) * fieldAt d 0x20 4 + x0 * 8, 8 * nc, readBytes s.mem (tilePa s team fr (colourOff 0 py)) (8 * nc)) ::
        (if zbuf = 0 then []
         else [(zbuf + (y0 + py) * fieldAt d 0x24 4 + x0 * 4, 4 * nc, readBytes s.mem (tilePa s team fr (depthOff 0 py)) (4 * nc))])

/-- Store the pieces of a flush; the first failure ends it, with its address and reason. -/
def flushStores (s : State) (who : Who) (root : Nat) : List (Nat × Nat × Nat) → State × Option (Nat × Nat)
  | [] => (s, none)
  | (va, n, v) :: l =>
    match engStores s who root va 4 v (n / 4) with
    | (s1, none) => flushStores s1 who root l
    | (s1, some (a, f)) => (engFault s1 who.site who.sec root a who.core true f, some (a, vmDetail f))

/-- Every tile has had its final flush (R202): the hub reads RELEASE, the frame waits for its latch, and LATE says that the
release time has passed. A RELEASE that cannot be read counts as 0 (log 17). -/
def frameDone (s : State) (f : Nat) : State :=
  let pa := fieldAt (s.frame f).desc 0x38 8 + 0x18
  let t : Tr := { kind := .localMem, pa := pa, attr := 0, set := 0, sec := false, page := 0, entry := 0 }
  let (s1, v, st) := doLoad s (dieWho 48 52 true) t 8 0
  let rel := if st = stOk then v else 0
  let s2 := (s1.setFrame f { s1.frame f with rel := rel }).setRegF (frstatA f) 2 0 3
  if rel ≠ 0 && rel < s.time.toNat then s2.setRegF (frstatA f) 3 3 1 else s2

/-- A tile leaves its team after a flush that succeeded (R195, R201): a partial one leaves it SPILLED, a final one DONE. -/
def tileDone (s : State) (site f tile : Nat) (final : Bool) : State :=
  let g := s.gate site f
  if final then
    let s1 := s.setGate site f { g with tiles := FMap.set g.tiles tile .done }
    let n := s1.regF (frstatA f) 48 32 + 1
    let s2 := s1.setRegF (frstatA f) 48 32 n
    if n = (s.frame f).tiles then frameDone s2 f else s2
  else
    s.setGate site f { g with
      tiles := FMap.set g.tiles tile .spilled, spilled := if g.spilled.contains tile then g.spilled else tile :: g.spilled,
      part := g.part.filter fun x => x != tile }

/-- A flush as a requester: the copy engine that performs it (R46, R518). -/
def flushWho (s : State) (e : EngOp) : Who := dieWho e.w.site (engCode e) (s.gridOf (s.wref e.w)).sec

/-- A flush acts once every primitive handed out for its tile is retired (R201, R518); a frame that has ended is not
written (R181). -/
def flushRun (s : State) (e : EngOp) : Option State :=
  match e.tile, claimOf s e.w with
  | some (f, tile), some c =>
    let who := flushWho s e
    let fr := c.fr
    if c.ended then some (engineEnd (dropEng (dropClaim s e.w.site e.w.core c.team) e) who e 0 0)
    else if !c.handed.isEmpty then none
    else
      let ps := flushPieces s fr c.final c.team tile
      (match flushStores s who e.root ps with
       | (s1, none) =>
         some (engineEnd (dropEng (tileDone (dropClaim s1 e.w.site e.w.core c.team) e.w.site f tile c.final) e) who e 0 0)
       | (s1, some (va, detail)) =>
         let s2 := setClaim s1 e.w { c with flushing := false }
         let base := match ps with | x :: _ => x.1 | [] => 0
         let len := ps.foldl (fun n x => n + x.2.1) 0
         some (engineEnd (dropEng (noteStop s2 e.w e.tag base len 0 va detail true) e) who e 0 detail))
  | _, _ => some (engineEnd (dropEng s e) (flushWho s e) e 0 0)

/-- An engine operation stops where it stands (R320, R348, R351), with a status and reason as DETAIL holds them: a tile stays claimed. -/
def stopEngine (s : State) (e : EngOp) (detail : Nat) : State :=
  let d := e.desc.toNat
  match e.kind with
  | .feed =>
    let rows := feedRows d e.fb
    engineEnd (dropEng (noteStop s e.w e.tag (dfield d 0 8) (rows * 384) (e.pos * 384) (dfield d 0 8) detail false) e) (feedWho e) e e.pos detail
  | .copy =>
    let dst := dfield d 8 8
    engineEnd (dropEng (noteStop s e.w e.tag dst (dfield d 0x10 8) e.pos (dst + e.pos) detail true) e) (dieWho e.w.site (engCode e) e.sec) e e.pos detail
  | .nbr =>
    let l := match e.nbr with | some l => l | none => 0
    let dst := dfield d 8 8 + l * dfield d 0x10 8
    engineEnd (dropEng (noteStop s e.w e.tag dst (dfield d 0x18 8) 0 dst detail true) e) (dieWho e.w.site (engCode e) e.sec) e 0 detail
  | .flush =>
    match e.tile, claimOf s e.w with
    | some (_, tile), some c =>
      let s1 := setClaim s e.w { c with flushing := false }
      let ps := flushPieces s c.fr c.final c.team tile
      let base := match ps with | x :: _ => x.1 | [] => 0
      let len := ps.foldl (fun n x => n + x.2.1) 0
      engineEnd (dropEng (noteStop s1 e.w e.tag base len 0 base detail true) e) (flushWho s e) e 0 detail
    | _, _ => engineEnd (dropEng s e) (flushWho s e) e 0 detail
/-- The engine operation of a warp with a tag that has been handed to its engine. -/
def engineOp (s : State) (w : WRef) (tag : BitVec 16) : Option EngOp :=
  ((s.core w.site w.core).feeds ++ (s.die w.site).copies).find? fun e => e.w == w && e.tag == tag && !e.held

end Sys2Proof.Machine
end

