-- ==== Sys2Proof/Machine/Route.lean ====
section
/-! DEFINITION. Routing tables and images: the default tables, the checks of the trust die and of a router, the phases of an
update, and what a change of a die's state does (R30, R51 to R55, R60 to R65, R105, R538). -/
namespace Sys2Proof.Machine

/-- A table set: the entry of a router for a destination. -/
abbrev Table := Nat → Nat → BitVec 8

/-- Direction of the X-then-Y route between two sites (R51). -/
def xyPort (r d : Nat) : Nat :=
  if r % 8 < d % 8 then 1 else if d % 8 < r % 8 then 3 else if d < r then 0 else if r < d then 2 else 4
/-- The site through which a site's packets for the hub pass (R51). -/
def hubSite (r : Nat) : Nat := if r / 8 ≤ 2 then 16 else 24
/-- Port of the default route: X then Y between dies; to the hub along the row and then along column 0 (R51). -/
def defaultPort (r d : Nat) : Nat :=
  if r = d then 4
  else if r = 48 then (if d / 8 ≤ 2 then 1 else 5)
  else if d = 48 then (if 0 < r % 8 then 3 else if r = hubSite r then 3 else xyPort r (hubSite r))
  else xyPort r d

/-- Whether an edge carries nothing: no module of it works, or it is fenced at one of its ends (R44, R52, R68). -/
def edgeDown (s : State) (r p : Nat) : Bool :=
  edgeMask s r p == 0 || edgeFenced s r p || (match linkOf r p with | some x => edgeFenced s x (backPort r p) | none => true)
/-- Whether the default route meets no removed die and no down edge, from one router on. -/
def defaultOk (s : State) (gone : Nat → Bool) (d : Nat) : Nat → Nat → Bool
  | 0, _ => false
  | fuel + 1, r =>
    r == d ||
      (let p := defaultPort r d
       match linkOf r p with
       | none => false
       | some x => !gone x && !edgeDown s r p && defaultOk s gone d fuel x)

/-- The entries of a table set, by router and destination. -/
def rtOf (t : Table) : FMap (BitVec 8) :=
  (List.range 49).flatMap fun r => ((List.range 64).filter fun d => t r d != 0).map fun d => (64 * r + d, t r d)
/-- The table set that a map lists. -/
def tableOf (m : FMap (BitVec 8)) : Table := fun r d => FMap.get 0 m (64 * r + d)
/-- The entry toward a removed die, or toward no router: none with its status (R68, R105). -/
def goneEntry (s : State) (d : Nat) : BitVec 8 := if 49 ≤ d then 7 else if s.hub.bootOut.getLsbD d then 0x0F else 0x17
/-- The tables that leave out a set of dies, with a port for every pair whose default route meets something removed (R51,
R68, R105); the router of a removed die has no other. -/
def tablesWith (s : State) (gone : Nat → Bool) (detour : Table) : Table := fun r d =>
  if r = d then 4
  else if 49 ≤ d || (decide (d < 48) && gone d) then goneEntry s d
  else if defaultOk s gone d 24 r then BitVec.ofNat 8 (defaultPort r d)
  else if decide (r < 48) && gone r then 7
  else detour r d
/-- The bytes of an image before its signature (R60). -/
def imageOf (seq : Nat) (flags : Nat) (t : Table) (nbr : Nat → DWord) : List Byte :=
  let head := bytesLe 4 0x4D595254 ++ bytesLe 4 1 ++ bytesLe 8 seq ++ bytesLe 8 flags
  let tail := List.replicate 36 0 ++ ((List.range 49).flatMap fun r => (List.range 64).map fun d => t r d) ++
    List.replicate 96 0 ++ (List.range 64).flatMap fun l => bytesLe 8 (nbr l).toNat
  head ++ bytesLe 4 (crc32c (head ++ [0, 0, 0, 0] ++ tail)).toNat ++ tail
/-- The image without its signature. -/
def unsigned (img : List Byte) : List Byte := img.take 0xEE0
/-- `n` bytes of an image. -/
def imgField (img : List Byte) (off n : Nat) : Nat := (List.range n).foldl (fun v i => v + (img.getD (off + i) 0).toNat * 2 ^ (8 * i)) 0
/-- The tables of an image. -/
def imgTable (img : List Byte) : Table := fun r d => img.getD (0x40 + 64 * r + d) 0
/-- The default neighbour of a die in a direction, N, E, S, W: the nearest surviving die (R54). -/
def nearest (alive : Nat → Bool) (site dir : Nat) : Option Nat :=
  let step (k : Nat) : Option Nat :=
    match dir with
    | 0 => if 8 * k ≤ site then some (site - 8 * k) else none
    | 1 => if site % 8 + k < 8 then some (site + k) else none
    | 2 => if site + 8 * k < 48 then some (site + 8 * k) else none
    | _ => if k ≤ site % 8 then some (site - k) else none
  (List.range 7).findSome? fun k => match step (k + 1) with | some x => if alive x then some x else none | none => none
/-- The default neighbour table over the dies that have a logical number (R54, R55). -/
def defaultNbr (logical : Nat → Nat) : Nat → DWord := fun l =>
  match (List.range 48).find? fun x => logical x == l with
  | none => 0xFFFFFFFFFFFFFFFF
  | some site =>
    let f (dir : Nat) : Nat := match nearest (fun x => logical x != 0xFFFF) site dir with | some x => logical x | none => 0xFFFF
    BitVec.ofNat 64 (f 0 * 2 ^ 48 + f 1 * 2 ^ 32 + f 2 * 2 ^ 16 + f 3)

/-- Whether a die's router is cut off: every edge of it is down or fenced at the far end. -/
def cutOff (s : State) (r : Nat) : Bool :=
  (List.range 4).all fun p => match linkOf r p with | some x => edgeMask s r p == 0 || edgeFenced s x (backPort r p) | none => true
/-- Whether a router takes part in updates (R62, R63): the hub's, and those of dies whose routers work, which are UP or in QUIESCE
and not cut off. A router that is held in reset, mapped out or cut off cannot answer (log 19). -/
def takesPart (s : State) (r : Nat) : Bool := r == 48 || (decide (r < 48) && (s.dieUp r || (s.dieSt r == 4 && !cutOff s r)))
/-- The routers that take part. -/
def routers (s : State) : List Nat := (List.range 49).filter (takesPart s)

/-- Hops of a table's route to a destination; none where it does not end there. -/
def routeHops (t : Table) (d : Nat) : Nat → Nat → Option Nat
  | 0, _ => none
  | fuel + 1, r =>
    if r = d then some 0
    else
      match linkOf r ((t r d).extractLsb' 0 3).toNat with
      | none => none
      | some x => (routeHops t d fuel x).map fun n => n + 1
/-- Whether a table's route to a destination uses a down edge. -/
def routeDown (s : State) (t : Table) (d : Nat) : Nat → Nat → Bool
  | 0, _ => false
  | fuel + 1, r =>
    r != d &&
      (let p := ((t r d).extractLsb' 0 3).toNat
       match linkOf r p with
       | none => false
       | some x => edgeDown s r p || routeDown s t d fuel x)

/-- The channel dependencies of a table: links, by router and port, that some route takes one after the other (R52). -/
def channelDeps (t : Table) : List (Nat × Nat) :=
  (List.range 49).flatMap fun d => (List.range 49).filterMap fun r =>
    if r = d then none
    else
      let p := ((t r d).extractLsb' 0 3).toNat
      match linkOf r p with
      | none => none
      | some x =>
        let q := ((t x d).extractLsb' 0 3).toNat
        if x = d || (linkOf x q).isNone then none else some (8 * r + p, 8 * x + q)
/-- What can be reached over dependencies from a set of channels. -/
def reachable (deps : List (Nat × Nat)) : Nat → List Nat → List Nat
  | 0, l => l
  | fuel + 1, l =>
    let new := (deps.filterMap fun e => if l.contains e.1 && !l.contains e.2 then some e.2 else none).eraseDups
    if new.isEmpty then l else reachable deps fuel (l ++ new)
/-- The lowest router with a channel on a cycle of the dependencies (R52, R61). -/
def cycleAt (deps : List (Nat × Nat)) : Option Nat :=
  let chans := (List.range 392).filter fun c =>
    (reachable deps 392 ((deps.filter fun e => e.1 == c).map fun e => e.2)).contains c
  chans.head?.map fun c => c / 8

/-- Why the trust die refuses to sign a table set, with the site the refusal names (R52, R61): HOPS, LOOP, LINK, CYCLE, over the
routes of every router. Within a check the first refused route is that of the lowest router, and of it to the lowest destination
(log 20). -/
def refusal (s : State) (t : Table) : Option (Nat × Nat) :=
  let pairs := (List.range 49).flatMap fun r => ((List.range 49).filter fun d => d != r && (t r d).extractLsb' 0 3 != 7).map fun d => (r, d)
  match pairs.find? fun e => match routeHops t e.2 64 e.1 with | some n => decide (24 < n) | none => false with
  | some e => some (9, e.1)
  | none =>
    match pairs.find? fun e => (routeHops t e.2 64 e.1).isNone with
    | some e => some (8, e.1)
    | none =>
      match pairs.find? fun e => routeDown s t e.2 64 e.1 with
      | some e => some (5, e.1)
      | none => (cycleAt (channelDeps t)).map fun r => (7, r)

/-- Routes of one destination that are found so far, by router, and the channel dependencies of all routes (R52). -/
structure Found where
  ports : FMap Nat
  deps : List (Nat × Nat)
  deriving DecidableEq, Repr
/-- The port of a router toward a router whose route is found, such that no channel dependency closes a cycle. -/
def joinPort (s : State) (gone : Nat → Bool) (f : Found) (d r : Nat) : Option (Nat × Option (Nat × Nat)) :=
  (List.range 6).findSome? fun p =>
    match linkOf r p with
    | none => none
    | some x =>
      if (decide (x < 48) && gone x) || edgeDown s r p then none
      else if x = d then some (p, none)
      else
        match FMap.find f.ports x with
        | none => none
        | some q =>
          let e := (8 * r + p, 8 * x + q)
          if linkOf x q = some r then none
          else if f.deps.contains e then some (p, some e)
          else if (reachable f.deps 392 [e.2]).contains e.1 then none else some (p, some e)
/-- Add the routes of the routers that are next to those found, a number of rounds. -/
def growRoutes (s : State) (gone : Nat → Bool) (d : Nat) : Nat → Found → Found
  | 0, f => f
  | n + 1, f =>
    let add (g : Found) (r : Nat) : Found :=
      if r = d || (decide (r < 48) && gone r) || (FMap.find f.ports r).isSome then g
      else
        match joinPort s gone { g with ports := f.ports } d r with
        | some (p, e) => { ports := FMap.set g.ports r p, deps := match e with | some x => if g.deps.contains x then g.deps else x :: g.deps | none => g.deps }
        | none => g
    let g := (List.range 49).foldl add f
    if g.ports.length = f.ports.length then g else growRoutes s gone d n g
/-- Detours that keep the channels free of cycles, destination by destination: shortest ways to routers whose routes stand. -/
def detours (s : State) (gone : Nat → Bool) : FMap (BitVec 8) :=
  let base := tableOf (rtOf (tablesWith s gone fun _ _ => 7))
  let alive := (List.range 49).filter fun r => r == 48 || !gone r
  let one (acc : List (Nat × Nat) × FMap (BitVec 8)) (d : Nat) : List (Nat × Nat) × FMap (BitVec 8) :=
    let ports : FMap Nat := ((List.range 49).filter fun r => r != d && (base r d).extractLsb' 0 3 != 7).map fun r => (r, ((base r d).extractLsb' 0 3).toNat)
    let f := growRoutes s gone d 49 { ports := ports, deps := acc.1 }
    (f.deps, (f.ports.filter fun e => (FMap.find ports e.1).isNone).foldl (fun m e => FMap.set m (64 * e.1 + d) (BitVec.ofNat 8 e.2)) acc.2)
  (alive.foldl one ((channelDeps base).eraseDups, [])).2

/-- Trees over the routers that are left, as the port and the router of each one's parent, grown from a list of roots (R52). -/
def growTree (s : State) (gone : Nat → Bool) : Nat → FMap (Nat × Nat) → List Nat → FMap (Nat × Nat)
  | 0, m, _ => m
  | n + 1, m, roots =>
    let inTree (x : Nat) : Bool := roots.contains x || (FMap.find m x).isSome
    let up (r : Nat) : Option (Nat × Nat) := (List.range 6).findSome? fun p =>
      match linkOf r p with
      | some x => if inTree x && !edgeDown s r p then some (p, x) else none
      | none => none
    let new := ((List.range 49).filter fun r => !gone r && !inTree r).filterMap fun r => (up r).map fun e => (r, e)
    if new.isEmpty then m else growTree s gone n (new.foldl (fun m e => FMap.set m e.1 e.2) m) roots
/-- A tree for each part of the mesh that what is removed leaves apart, the first from one root, each other from its lowest router. -/
def growTrees (s : State) (gone : Nat → Bool) (root : Nat) : FMap (Nat × Nat) :=
  ((List.range 49).foldl (fun (acc : FMap (Nat × Nat) × List Nat) r =>
    if gone r || acc.2.contains r || (FMap.find acc.1 r).isSome then acc
    else (growTree s gone 49 acc.1 (r :: acc.2), r :: acc.2)) (growTree s gone 49 [] [root], [root])).1
/-- The routers from one up to the root of a tree. -/
def treePath (m : FMap (Nat × Nat)) : Nat → Nat → List Nat
  | 0, r => [r]
  | n + 1, r => match FMap.find m r with | some e => r :: treePath m n e.2 | none => [r]
/-- The tables that route over trees: up to where the way to the destination goes down, and to no router of another tree (R52). -/
def treeTable (m : FMap (Nat × Nat)) : Table := fun r d =>
  let down := treePath m 49 d
  if (treePath m 49 r).getLast? ≠ down.getLast? then 7 else
  match down.find? fun x => match FMap.find m x with | some e => e.2 == r | none => false with
  | some x => (match FMap.find m x with | some e => BitVec.ofNat 8 (backPort x e.1) | none => 7)
  | none => match FMap.find m r with | some e => BitVec.ofNat 8 e.1 | none => 7

/-- Whether every router that is left has a route to every other of its part of the mesh. -/
def joins (gone : Nat → Bool) (trees : FMap (Nat × Nat)) (t : Table) : Bool :=
  (List.range 49).all fun r => gone r || (List.range 49).all fun d =>
    gone d || (treePath trees 49 r).getLast? != (treePath trees 49 d).getLast? || (t r d).extractLsb' 0 3 != 7

/-- The tables that leave out a set of dies (R51, R68, R105): the default route where it meets nothing removed, none with the
status of a removed destination, and elsewhere a detour. Which detour is the trust die's choice (log 4), within the checks of
R52: where the free choice breaks one of them, detours that keep the channels free of cycles stand in. Around a die inside the
mesh no detours of all pairs do that beside every default route; the tables then route over a tree, or over one for each part of
a mesh that falls apart (log 20). Whatever is chosen passes the checks. -/
def tablesFor (s : State) (gone : Nat → Bool) : FMap (BitVec 8) :=
  let out (r : Nat) : Bool := decide (r < 48) && gone r
  let whole := (List.range 49).all fun r => (List.range 49).all fun d => out d || defaultOk s out d 24 r
  let none := rtOf (tablesWith s out fun _ _ => 7)
  if whole then none
  else
    let root := match (List.range 48).find? fun x => !out ((x + 20) % 48) with | some x => (x + 20) % 48 | _ => 48
    let trees := growTrees s out root
    let good (m : FMap (BitVec 8)) : Bool := joins out trees (tableOf m) && (refusal s (tableOf m)).isNone
    let free := rtOf (tablesWith s out (Config.detour s.free))
    let grown := detours s out
    let found := rtOf (tablesWith s out fun r d => FMap.get 7 grown (64 * r + d))
    let spans := rtOf fun r d => if r = d then 4 else if 49 ≤ d || out d then goneEntry s d else if out r then 7 else treeTable trees r d
    if good free then free else if good found then found else if (refusal s (tableOf spans)).isNone then spans else none

/-- The package key of the trust die, derived from the root secret (R111). -/
def packageKey : BitVec 512 := Config.deriveKey Config.rootSecret 2
/-- The public half of the package key that a router holds (R111). -/
def routerPub (s : State) (router : Nat) : BitVec 512 := if router = 48 then s.hub.pub else (s.die router).pub
/-- Whether an image's signature verifies under a public key (R62): one that the trust die made does under its own. -/
def sigOk (pub : BitVec 512) (img : List Byte) : Bool :=
  (pub == Config.publicOf packageKey && img.drop 0xEE0 == bytesLe 64 (Config.sign packageKey (unsigned img)).toNat) || Config.verify pub img

/-- A router's answer to an image (R62): 0 ACCEPT, 1 CRC, 2 SIG, 3 SEQ, 4 FORMAT, 5 LINK. -/
def routerCheck (s : State) (router : Nat) (img : List Byte) : Nat :=
  let zeroed := img.take 0x18 ++ [0, 0, 0, 0] ++ (img.drop 0x1C).take 0xEC4
  let entries := (List.range 64).map fun d => (d, imgTable img router d)
  let badPort (e : Nat × BitVec 8) : Bool :=
    let p := (e.2.extractLsb' 0 3).toNat
    let none := (e.2.extractLsb' 3 2).toNat
    p == 6 || (p == 5 && router != 48) || (p == 4 && e.1 != router) || (p != 7 && none != 0) || (p == 7 && none == 3)
  let badLink (e : Nat × BitVec 8) : Bool :=
    let p := (e.2.extractLsb' 0 3).toNat
    p != 7 && p != 4 && (linkOf router p).isNone
  if (crc32c zeroed).toNat ≠ imgField img 0x18 4 then 1
  else if !sigOk (routerPub s router) img then 2
  else if imgField img 8 8 ≤ s.hub.routeSeq then 3
  else if entries.any badPort then 4
  else if entries.any badLink then 5
  else 0

/-- The hub starts an update of its own (R44, R60, R68): the trust die is to sign tables without the dies that are not UP.
The image carries no neighbour table (log 19). -/
def startDetour (s : State) : State :=
  let img := imageOf (s.hub.routeSeq + 1) 0 (tableOf (tablesFor s fun x => decide (x < 48) && !s.dieUp x)) fun _ => 0
  let h := { s.hub with detour := false, upd := some { img := img, made := [], answered := 0, changed := false } }
  ({ s with hub := h }.setRegF rtstatA 2 0 1).fresh
/-- The hub wants an update of its own: at once, or when the one that runs has ended (R60). -/
def wantDetour (s : State) : State :=
  if s.regF rtstatA 2 0 = 0 then startDetour s else { s with hub := { s.hub with detour := true } }

/-- An update ends (R60 to R64, R136): its RESULT, REASON and FAILSITE; one that the hub still wants starts. -/
def endUpdate (s : State) (result reason site : Nat) : State :=
  let v := setF (setF (setF (setF (s.reg rtstatA) 2 0 0) 15 8 result) 55 48 reason) 47 40 site
  let s1 := raiseEvt { s.setReg rtstatA v with hub := { s.hub with upd := none } } 4
  if s1.hub.detour then startDetour s1 else s1

/-- A die changes its state (R30, R136): the event is reported, and an update in PREPARE will be retried (R63). -/
def setDieState (s : State) (site st : Nat) : State :=
  if s.dieSt site = st then s
  else
    let s1 := s.setRegF (dstateA site) 2 0 st
    let upd := if s.regF rtstatA 2 0 = 2 then s1.hub.upd.map fun u => { u with changed := true } else s1.hub.upd
    raiseEvt { s1 with hub := { s1.hub with upd := upd } } 8

/-- Drop a team from the hub's table: its warps end, their THROT counts join the grid's total (R134, R221), and its scratchpad is
free. -/
def dropTeam (s : State) (id : Nat) : State :=
  let t := s.team id
  let counts := (teamWarps s t).map (fun r => (s.wref r).throt.toNat) ++ t.kept.map fun w => w.throt.toNat
  let s0 := freeScratch ((teamWarps s t).foldl endWarp s) id
  let g := s0.grid t.g
  let s1 := s0.setGrid t.g { g with throt := counts.foldl (fun n x => satAdd 32 n x) g.throt }
  { s1 with hub := { s1.hub with teams := FMap.del s1.hub.teams id } }

/-- A packet of a frame has left the mesh: the PRIMOUT that sent it has one fewer to wait for (R510), and a gate acknowledges a marker
(R189). -/
def primTaken (s : State) (m : PrimMsg) : State :=
  let s1 := { s with prims := s.prims.erase m }
  if m.marker then
    (match FMap.find s1.hub.teams m.team with
     | some t => s1.setTeam m.team { t with acked := t.acked ||| (1 : BitVec 48) <<< m.site }
     | none => s1)
  else if s1.prims.any fun x => !x.marker && x.src == m.src && x.tag == m.tag then s1
  else
    let w := s1.wref m.src
    s1.setWref m.src { w with ops := w.ops.map fun o => if o.tag == m.tag && o.op == 7 then { o with op := 3 } else o }

/-- Write a frame's latch (R181, R202): status and COUNT at its physical address, as R154 orders the two stores. The hub is a
secure requester (R116). -/
def writeLatch (s : State) (f status count : Nat) : State :=
  let pa := fieldAt (s.frame f).desc 0x38 8
  let t : Tr := { kind := .localMem, pa := pa, attr := 0, set := 0, sec := false, page := 0, entry := 0 }
  let who := dieWho 48 52 true
  let s1 := (doStore s who { t with pa := pa + 8 } 16 (count + s.time.toNat * 2 ^ 64) 2 0).1
  (doStore s1 who t 8 status 2 0).1

/-- The gates of a frame that is over are gone, its packets in flight are discarded, and what its warps and tiles still have of it
ends (R181). -/
def closeGates (s : State) (f : Nat) : State :=
  let s1 := (s.prims.filter fun m => m.prim.frame == f).foldl primTaken s
  frameOver { s1 with dies := s1.dies.map fun (e : Nat × Die) => (e.1, { e.2 with gates := FMap.del e.2.gates f }) } f

/-- A frame that is not IDLE ends at once with an error (R179, R181): every gate discards what it holds, the latch reads FAULT and the slot is IDLE. -/
def endFrame (s : State) (f err site : Nat) : State :=
  if s.frameSt f = 0 && !(s.frame f).opening then s
  else
    let s2 := closeGates s f
    let s3 := (writeLatch s2 f 6 (s2.regF (frstatA f) 48 32)).setFrame f { s.frame f with opening := false, acks := 0 }
    s3.setReg (frstatA f) (setF (setF (setF (s3.reg (frstatA f)) 2 0 0) 23 16 err) 31 24 site)

/-- What follows when a die leaves UP (R165, R181): the grids that hold a part of their range on it will end with FAULT, their teams on
it end and start no more, and the frames it owns tiles of end with DIEDOWN. -/
def dieLeaves (s : State) (site : Nat) : State :=
  let cut (g : Grid) : Grid :=
    match g.st, FMap.find g.ranges site with
    | .running, some (_, b) => { g with lost := true, ranges := FMap.set g.ranges site (b, b) }
    | _, _ => g
  let s1 := { s with hub := { s.hub with grids := s.hub.grids.map fun (e : Nat × Grid) => (e.1, cut e.2) } }
  let gone := s1.hub.teams.filter fun (e : Nat × Team) => e.2.site == site
  let s2 := gone.foldl (fun t e => dropTeam t e.1) s1
  (List.range 16).foldl (fun t f => if (t.frame f).sites.getLsbD site then endFrame t f 6 site else t) s2

end Sys2Proof.Machine
end

