-- ==== Sys2Proof/Machine/EvMesh.lean ====
section
/-! DEFINITION. The mesh: packets at routers, replayed requests and memory ports, uncorrectable errors, routing-table updates,
and the reset or failure of a die (R42 to R71, R250, R326 to R335). -/
namespace Sys2Proof.Machine

/-- The header of a request (R46, R56, R118): KIND bit 5 is its world, and KIND[4:0] its operation, which is the kind of access
with an atomic's operation from 16 on (log 20); a store or an atomic carries its data in one flit. -/
def reqHdr (dest gen : Nat) (r : Req) : BitVec 128 :=
  let op := match r.kind with | .load => 0 | .store => 1 | .cas => 2 | .atomic => 16 + r.aop.toNat
  mkHdr dest r.srcSite r.srcCore 0 gen ((if r.sec then 32 else 0) + op) (if r.kind = .load then 0 else 1) r.seq r.lwm r.pa 0

/-- The completion of a request: a packet to its requester's site, with its data in one flit where it has any (R46, R50). -/
def rspMsg (s : State) (site core : Nat) (dest seq status data len : Nat) : MeshMsg :=
  { router := site, hdr := mkHdr dest site core 1 (genOf s site) 0 len seq 0 0 status, set := 0, slot := 0, data := BitVec.ofNat 256 data }

/-- A primitive packet that a router has discarded is accepted by no gate (R50, R510). -/
def losePrim (s : State) (hdr : BitVec 128) : State :=
  { s with prims := s.prims.map fun m => if m.hdr == hdr && !(s.mesh.any fun x => x.hdr == hdr) then { m with lost := true } else m }

/-- A router cannot send a packet on (R44, R46, R50, R51, R68): a request is answered with a status, in a completion that carries
no tag, and any other packet is discarded. -/
def cannotSend (s : State) (m : MeshMsg) (status : Nat) : State :=
  let s1 := errCpl s m.router
  if hdrF m.hdr 109 107 = 0 then sendMsg s1 (rspMsg s m.router 63 (hdrF m.hdr 121 116) 0 status 0 0)
  else if hdrF m.hdr 109 107 = 2 then losePrim s1 m.hdr
  else s1

/-- A router routes a packet by the table of its generation (R51, R64). -/
def routePkt (s : State) (m : MeshMsg) : State :=
  let d := hdrF m.hdr 127 122
  let old := s.regF rtstatA 2 0 == 3 && hdrF m.hdr 106 106 == s.regF rtstatA 3 3
  let e := FMap.get 0 (if old then s.rtOld else s.rt) (m.router * 64 + d)
  let p := (e.extractLsb' 0 3).toNat
  if p = 4 then s
  else if p = 7 then cannotSend s m (nonest e)
  else
    match linkOf m.router p with
    | none => cannotSend s m stUnreach
    | some x =>
      if edgeFenced s m.router p then cannotSend s m (fencedSt s d)
      else if edgeMask s m.router p = 0 then cannotSend s m stUnreach
      else sendMsg s { m with router := x }

/-- A drain marker of the old generation for a class and a destination (R64). -/
def markerMsg (s : State) (src dst cls : Nat) : MeshMsg :=
  { router := src, hdr := mkHdr dst src 63 cls (s.regF rtstatA 3 3) 31 0 0 0 0 0, set := 0, slot := 0, data := 0 }
/-- Whether a packet is a drain marker. -/
def isMarker (m : MeshMsg) : Bool := hdrF m.hdr 115 110 == 63 && hdrF m.hdr 105 100 == 31
/-- Whether one packet at a router must leave it before another (R48, R64): both are of one class and generation, from one source
to one destination; a marker comes after the packets of every core of its die. -/
def precedes (x m : MeshMsg) : Bool :=
  x.router == m.router && hdrF x.hdr 127 116 == hdrF m.hdr 127 116 && hdrF x.hdr 109 106 == hdrF m.hdr 109 106 &&
    (isMarker m || hdrF x.hdr 115 110 == hdrF m.hdr 115 110)
/-- Whether an earlier packet holds a packet back (R48): one that stands before it in the order of arrival. -/
def blocked (s : State) (m : MeshMsg) : Bool := (s.mesh.takeWhile fun x => x != m).any fun x => precedes x m

/-- The router of a packet's source holds a new-generation packet back until its destination has acknowledged the marker of the
packet's class (R64). -/
def heldBack (s : State) (m : MeshMsg) : Bool :=
  hdrF m.hdr 121 116 == m.router && s.regF rtstatA 2 0 == 3 && hdrF m.hdr 106 106 != s.regF rtstatA 3 3 &&
    s.markers.contains (m.router, hdrF m.hdr 127 122, hdrF m.hdr 109 107)
/-- A packet leaves a router, or waits there. -/
def forward (s : State) (m : MeshMsg) : State := if heldBack s m then sendMsg s m else routePkt s m

/-- The tokens that a discarded packet of class COH carried are lost (R49, R332). -/
def loseTokens (s : State) (hdr : BitVec 128) : State :=
  let line := lineOf (hdrF hdr 71 24)
  let src := hdrF hdr 121 116
  let dst := hdrF hdr 127 122
  let same (m : CohMsg) : Bool :=
    m.line == line && (m.src == src || m.src == 64 + src) && (match m.dst with | some d => d == dst | none => homeOf line == dst)
  { s with coh := match s.coh.find? same with | some m => s.coh.erase m | none => s.coh }

/-- An uncorrectable mesh error by the class of the discarded header (R332). -/
def meshError (s : State) (router cls slot addr : Nat) : State :=
  let s1 := rasLog (s.bumpReg (rascntA router) 47 32 1) router 5 11 63 0 3 0 addr
  match cls with
  | 2 => if slot < 16 then endFrame s1 slot 5 router else (List.range 16).foldl (fun t f => endFrame t f 5 router) s1
  | 3 | 4 =>
    let sweepAll (e : Nat × Die) : Nat × Die := (e.1, if s1.dieUp e.1 then { e.2 with sweep := 63 :: e.2.sweep, swept := [] } else e.2)
    { s1 with dies := s1.dies.map sweepAll }
  | _ => s1

/-- ROUTER_RECEIVE (R46 to R51, R64, R332): `set` is the die set and `slot` the frame slot that the payload names. A packet that
an earlier one of its flow holds back waits, and a marker that has reached its destination is its to acknowledge. DEST 63 in a
packet of another class than COH is discarded as a reserved value (log 20). -/
def execRouterReceive (router : Nat) (hdr : BitVec 128) (set : BitVec 48) (slot : Nat) (s : State) : Out :=
  let m : MeshMsg := { router := router, hdr := hdr, set := set, slot := slot, data := 0 }
  let same (x : MeshMsg) : Bool := x.router == router && x.hdr == hdr
  let listed := s.mesh.find? same
  let m := match listed with | some x => { m with data := x.data } | none => m
  let s1 := { s with mesh := match listed with | some x => s.mesh.erase x | none => s.mesh }
  let cls := hdrF hdr 109 107
  let d := hdrF hdr 127 122
  let bad := hdrPar hdr != hdrF hdr 7 0 || decide (5 < cls) || (decide (48 < d) && !(d == 63 && cls == 3))
  let waits := match listed with
    | some x => blocked s x || heldBack s x || (isMarker x && d == router)
    | none => blocked s m || (isMarker m && d == router)
  .next <|
    if bad then
      let s2 := if router < 48 then s1.bumpReg (merrA router) 63 48 1 else s1
      if cls < 2 then s2 else meshError (if cls = 3 then loseTokens s2 hdr else s2) router cls slot (hdrF hdr 71 24)
    else if waits then (if listed.isSome then s else sendMsg s m)
    else if d = 63 then
      (sitesOf set).foldl (fun t x =>
        if x = router then t
        else forward t { m with hdr := withPar (hdr.toNat % 2 ^ 122 + x * 2 ^ 122) }) s1
    else forward s1 m

/-- FLIT_REPLAY (R43, R71, R137, R142, R330): the replay is counted at the receiving die's edge, as a corrected error. An edge that
is not there, was never trained or is fenced carries no flit. Direction 4 is the die's Dalec port, and 5 is a codeword there
that its forward error correction cannot correct, whose flit is replayed too. -/
def execFlitReplay (site dir : Nat) (s : State) : Out :=
  let port := sitePort site
  let dalec (t : State) : State := (t.bumpReg (dlstatA port) 63 32 1).bumpReg (rascntA site) 63 48 1
  .next (if site < 48 && (dir = 4 || dir = 5) then
      (if port < 24 && s.regF (dlstatA port) 1 0 = 2 then (if dir = 5 then dalec (s.bumpReg (dlstatA port) 31 16 1) else dalec s) else s)
    else if site < 48 && dir < 4 && (linkOf site dir).isSome && edgeMask s site dir != 0 && !edgeFenced s site dir then
    (s.bumpReg (mlinkA site) (16 * dir + 11) (16 * dir) 1).bumpReg (rascntA site) 63 48 1 else s)

/-- Clear a module of an edge in a die's MLINK. -/
def dropModule (s : State) (site dir modl : Nat) : State :=
  if site < 48 then
    let v := s.regF (mlinkA site) (16 * dir + 15) (16 * dir + 12)
    s.setRegF (mlinkA site) (16 * dir + 15) (16 * dir + 12) (if v.testBit modl then v - 2 ^ modl else v)
  else s

/-- MODULE_DISABLE (R44): at both ends of the edge; with no module left the hub reports the down edge to the host and starts an
update that routes around it. -/
def execModuleDisable (site dir modl : Nat) (s : State) : Out :=
  if 48 ≤ site || 4 ≤ dir || 4 ≤ modl then .next s
  else
    match linkOf site dir with
    | none => .next s
    | some x =>
      let s1 := dropModule (dropModule s site dir modl) x (backPort site dir) modl
      .next (if edgeMask s site dir != 0 && edgeMask s1 site dir == 0 then
        wantDetour { s1 with outbox := s1.outbox ++ [.edgeDown site dir] } else s1)

/-- Whether an operation is one whose requests a warp's core has made and that no completion has reached. -/
def outstanding (tag : BitVec 16) (o : AsyncOp) : Bool :=
  o.tag == tag && !o.done && !o.held && !o.engine && decide (o.path < 2) && !o.res.isEmpty
/-- The requester gives up on an operation (R57, R142): every access of a kind completes with TIMEOUT. -/
def giveUp (s : State) (r : WRef) (tag : BitVec 16) (p : LaneRes → Bool) : State :=
  let w := s.wref r
  let late (o : AsyncOp) : AsyncOp :=
    if outstanding tag o then { o with res := o.res.map fun x => if p x then { x with status := stTimeout } else x } else o
  completeOp (s.setWref r { w with ops := w.ops.map late }) r tag

/-- An operation is reissued with the tags of its requests (R57, R59, R142): a replayed load reads memory again, a replayed store
writes the same bytes again, and a port applies an atomic once. -/
def reissue (s : State) (r : WRef) (o : AsyncOp) : State :=
  let send (t : State) (x : LaneRes) : State :=
    if x.tr.kind == .peer then (peerSend t { t.who r with again := x.seq } x.tr.pa true).1 else t
  let (s1, res) := if o.op < 2 then performLanes s (s.who r) o o.res else (o.res.foldl send s, o.res)
  let w := s1.wref r
  s1.setWref r { w with ops := w.ops.map fun x => if outstanding o.tag x then { x with res := res, retries := x.retries + 1 } else x }

/-- A request that no completion has reached (R57, R142): reissued three times, then completed with TIMEOUT. -/
def timeoutOp (s : State) (r : WRef) (tag : BitVec 16) (p : LaneRes → Bool) : State :=
  match (s.wref r).ops.find? fun o => outstanding tag o && o.res.any p with
  | none => s
  | some o => if o.retries < 3 then reissue s r o else giveUp s r tag p

/-- The same for a request of an engine operation: after the fourth interval it stops with TIMEOUT (R50, R57). -/
def timeoutEngine (s : State) (e : EngOp) : State :=
  let w := s.wref e.w
  let mine (o : AsyncOp) : Bool := o.tag == e.tag && o.engine
  match w.ops.find? mine with
  | some o =>
    if o.retries < 3 then s.setWref e.w { w with ops := w.ops.map fun x => if mine x then { x with retries := x.retries + 1 } else x }
    else stopEngine s e (0x0900 + stTimeout)
  | none => s

/-- REQUEST_TIMEOUT (R57): 64 microseconds have passed. -/
def execRequestTimeout (w : WRef) (tag : BitVec 16) (s : State) : Out :=
  .next (match engineOp s w tag with
    | some e => timeoutEngine s e
    | none => timeoutOp s w tag fun x => x.tr.kind == .localMem)

/-- What a memory port answers (R34, R58, R86, R90, R92, R115, R119): state, value, status; none where the request is a late
copy. -/
def portRequest (s : State) (site : Nat) (r : Req) : State × Option (Nat × Nat) :=
  let rq := reqKey r.srcSite r.srcCore
  if !s.dieUp site then (s, some (0, if s.dieSt site = 3 && s.hub.bootOut.getLsbD site then stAddr else stDieDown))
  else if region r.pa ≠ .hbm site || r.pa % r.size ≠ 0 then (s, some (0, stAddr))
  else if portSt s r.pa r.sec ≠ stOk then (portEvent s site r.srcSite r.srcCore r.pa r.sec, some (0, stPerm))
  else
    let line := lineOf r.pa
    let d := s.die site
    let mark := portMark d rq r.lwm
    let f := (FMap.get [] d.filter rq).filter fun e => seqAbove e.1 mark
    let s1 := s.setDie site { d with lwms := FMap.set d.lwms rq mark, filter := FMap.set d.filter rq f }
    match r.kind with
    | .load =>
      let s2 := gatherRead s1 site line (dirSlice s1 site line)
      (s2, some (if s2.poison.contains line then (0, stPoison) else (readBytes s2.mem r.pa r.size, stOk)))
    | .store => let (s2, st) := dieStore s1 site r.pa r.size r.data.toNat; (s2, some (0, st))
    | .atomic | .cas =>
      if !seqAbove r.seq mark then (s1, none)
      else
        let (s2, old, st) := portAtomic s1 site rq mark r.seq (r.kind == .cas) r.aop.toNat r.pa r.size r.data.toNat
        (s2, some (old, st))

/-- The world that the header of a request gives it: KIND[5] (R118). -/
def hdrSec (hdr : BitVec 128) : Bool := hdrF hdr 105 105 == 1
/-- MEMORY_PORT_REQUEST (R58, R118, R119): the request is performed in the world of its header, and its completion sent. -/
def execMemoryPortRequest (site : Nat) (r : Req) (s : State) : Out :=
  if 48 ≤ site then .next s
  else
    match portRequest s site { r with sec := hdrSec (reqHdr site (genOf s r.srcSite) r) } with
    | (s1, some (v, st)) => .next (sendMsg s1 (rspMsg s1 site 51 r.srcSite r.seq st v (if r.kind = .store || st ≠ stOk then 0 else 1)))
    | (s1, none) => .next s1

/-- A core drops its L1 copy of a line. -/
def dropCopy (s : State) (site core line : Nat) : State :=
  let x := s.core site core
  if (FMap.find x.l1 line).isSome then s.setCore site core { x with l1 := FMap.del x.l1 line } else s
/-- A slice drops its copy of a line, a replica too, and the cluster-held bytes of it (R331); the watches that its cores' warps hold on
the line fire (R247). -/
def dropSlice (s : State) (site slice line : Nat) : State :=
  let s1 := dropReps (setHeld s site slice ((heldOf s site slice).filter fun h => h.line != line)) site fun x => x.line == line && x.slice == slice
  let t := tokOf s1 line
  match FMap.find t.dies site with
  | none => s1
  | some e =>
    let cut := { e with slices := e.slices &&& ~~~((1 : BitVec 12) <<< slice) }
    fireWatches (setTok s1 line { t with dies := FMap.set t.dies site cut }) fun k w =>
      k / 4096 == site && e.slices.getLsbD slice && s1.sliceOf site (k / 64 % 64) == slice && watches line w
/-- A die drops all its copies of a line, with its tokens (R331). -/
def dropLine (s : State) (site line : Nat) : State :=
  let s1 := (List.range 48).foldl (fun t c => dropCopy t site c line) s
  let s2 := (List.range 12).foldl (fun t k => dropSlice t site k line) s1
  let t := tokOf s2 line
  setTok s2 line { t with dies := FMap.del t.dies site }

/-- Restart each of a list of warps, a pair once, lower warp-in-team ids first (R326, R340). -/
def restartAll (s : State) (l : List WRef) (x : Cause) : State :=
  (orderBy (fun r => (s.wref r).wid) l).foldl (fun t r =>
    if (t.wref r).resident && (!(t.wref r).shadow || !l.contains (leadOf t r)) then restartUnit t r x else t) s

/-- The end-to-end check that travels with data (R320): CRC-32C over the bytes and the 48-bit package physical address. Supplier and
consumer compute it over the same bytes here, so no access of this model's own fails it: it fails by an event alone (log 20). -/
def endToEnd (pa : Nat) (bytes : List Byte) : Word := crc32c (bytes ++ leBytes 6 pa)
/-- The site at which an error is logged (R334): that of the port that found it, or that of the warp. -/
def errSite (e : ErrAt) (site : Nat) : Nat := match e.port with | some p => p | none => site
/-- The PC of the instruction that consumes an error (R334). -/
def errPc (e : ErrAt) (w : Warp) : Nat := match e.lane with | none => w.pc.toNat | some one => (w.lane.slot one).pc.toNat
/-- A failed end-to-end check (R320, R331, R334): the warp consumes it, or the engine operation ends with ENGFAULT. Only under
NEAR, FAR and MIRROR does data carry the check. -/
def endToEndFails (s : State) (site : Nat) (e : ErrAt) : State :=
  let r : WRef := { site := site, core := e.core, slot := e.slot }
  let w := s.wref r
  let at0 := errSite e site
  if !w.resident || (s.gridOf w).redun = 0 then s
  else
    let s1 := rasLog (s.bumpReg (rascntA at0) 47 32 1) at0 6 e.unit e.core (leadOf s r).slot 0 (errPc e w) e.addr
    match e.tag with
    | none => restartUnit s1 r { wher := e.unit, unit := 0, pc := errPc e w }
    | some t => (match engineOp s1 r t with | some x => stopEngine s1 x 0x0912 | none => s1)
/-- An access of a scratchpad through its window completes with status POISON (R331); that of an engine operation stops it. -/
def poisonRead (s : State) (r : WRef) (tag : BitVec 16) : State :=
  let scratch (x : LaneRes) : Bool :=
    x.tr.kind == .localMem && (match region x.tr.pa with | .window _ _ off => decide (0x100000 ≤ off) && decide (off < 0x180000) | _ => false)
  match engineOp s r tag with
  | some x => stopEngine s x (0x0900 + stPoison)
  | none =>
    let w := s.wref r
    let odd (x : LaneRes) : LaneRes := if scratch x then { x with status := stPoison } else x
    let hit (o : AsyncOp) : AsyncOp := if outstanding tag o then { o with res := o.res.map odd } else o
    s.setWref r { w with ops := w.ops.map hit }

/-- UNCORRECTABLE_ERROR (R320, R326, R330, R331, R334): by where the error lies. The hub counts and logs its own. -/
def execUncorrectableError (site : Nat) (e : ErrAt) (s : State) : Out :=
  if 48 < site then .next s
  else if e.e2e then .next (endToEndFails s site e)
  else if e.corrected then .next (s.bumpReg (rascntA (errSite e site)) 63 48 1)
  else
    let r : WRef := { site := site, core := e.core, slot := e.slot }
    let wide := e.unit == 3 || e.unit == 4 || e.unit == 14
    let code := if site = 48 then 3 else if wide then 2 else if e.unit = 12 then 1 else if e.reader then 0 else 3
    let pc := errPc e (s.wref r)
    let at0 := errSite e site
    let s1 := rasLog (s.bumpReg (rascntA at0) 47 32 1) at0 1 e.unit (if e.unit = 7 || e.unit = 10 || site = 48 then 63 else e.core)
      (if e.reader then (leadOf s r).slot else e.slot) code (if e.reader then pc else 0) e.addr
    let line := lineOf e.addr
    let here := (List.range 64).map fun k => ({ site := site, core := e.core, slot := k } : WRef)
    let slice := s.sliceOf site e.core
    let held := (heldOf s site slice).any fun h => h.line == line
    .next <|
      if site = 48 then s1
      else if wide then restartAll s1 here { wher := e.unit, unit := 2, pc := 0 }
      else if e.unit = 12 then
        restartAll s1 (here.filter fun x => x.slot % 2 == e.slot % 2 && (s1.wref x).running.isSome) { wher := 12, unit := 1, pc := 0 }
      else if e.unit = 7 then heal (dropLine s1 site line) line
      else if e.reader then restartUnit s1 r { wher := e.unit, unit := 0, pc := pc }
      else
        match e.unit, e.tag with
        | 2, some t => poisonRead s1 r t
        | 5, _ => if e.dirty then poisonLine (dropCopy s1 site e.core line) line else dropCopy s1 site e.core line
        | 6, _ => if e.dirty || held then poisonLine (dropSlice s1 site slice line) line else dropSlice s1 site slice line
        | _, _ => s1

/-- MEMORY_COMPLETION (R250, R331, R344, R346): a BINNEXT that waits takes its entry where one is there. -/
def execMemoryCompletion (w : WRef) (tag : BitVec 16) (s : State) : Out :=
  match (s.wref w).ops.find? fun o => o.tag == tag && o.op == 8 with
  | some _ => .next (match binTry s w with | some t => t | none => s)
  | none => .next (completeOp s w tag)

/-- Read pieces of 32 bytes by physical address, as hub firmware does (R34, R50, R60); a piece whose read fails is undefined. -/
def hubRead32 (s : State) (pa : Nat) : Nat → State × List Byte
  | 0 => (s, [])
  | n + 1 =>
    let t : Tr := { kind := .localMem, pa := pa, attr := 0, set := 0, sec := false, page := 0, entry := 0 }
    let (s1, v, st) := doLoad s (dieWho 48 52 true) t 32 0
    let (s2, v) := if st = stOk then (s1, v) else (s1.fresh, s1.any 0 % 2 ^ 256)
    let (s3, l) := hubRead32 s2 (pa + 32) n
    (s3, bytesLe 32 v ++ l)

/-- Start an update (R60): `st` is 1 where the trust die signs first, 2 where the image goes to PREPARE as it stands. A write while
an update runs only sets RESULT, and one with GO 0 starts nothing. -/
def startUpdate (s : State) (val : BitVec 64) (st : Nat) : State :=
  if s.regF rtstatA 2 0 ≠ 0 then s.setRegF rtstatA 15 8 5
  else if !val.getLsbD 0 then s
  else
    let (s1, img) := hubRead32 s (getF val 47 12 * 4096) 121
    { s1 with hub := { s1.hub with upd := some { img := img, made := [], answered := 0, changed := false } } }.setRegF rtstatA 2 0 st

/-- RTCMD_GO_SIGN (R60). -/
def execRtcmdGoSign (val : BitVec 64) (s : State) : Out := .next (if val.getLsbD 1 then startUpdate s val 1 else s)
/-- RTCMD_GO_UNSIGNED (R60). -/
def execRtcmdGoUnsigned (val : BitVec 64) (s : State) : Out := .next (if !val.getLsbD 1 then startUpdate s val 2 else s)

/-- ROUTE_SIGN_DONE (R52, R61, R68): the trust die refuses the image, or signs it and PREPARE begins. -/
def execRouteSignDone (s : State) : Out :=
  match s.regF rtstatA 2 0 == 1, s.hub.upd with
  | true, some u =>
    (match refusal s (imgTable u.img) with
     | some (reason, site) => .next (endUpdate s 3 reason site)
     | none =>
       let img := unsigned u.img ++ bytesLe 64 (Config.sign packageKey (unsigned u.img)).toNat
       .next ({ s with hub := { s.hub with upd := some { u with img := img } } }.setRegF rtstatA 2 0 2))
  | _, _ => .next s

/-- ROUTER_PREPARE (R62): a router stages the image, checks it and answers. -/
def execRouterPrepare (router : Nat) (s : State) : Out :=
  match s.regF rtstatA 2 0 == 2 && takesPart s router, s.hub.upd with
  | true, some u =>
    .next (if (FMap.find u.made router).isSome then s
      else { s with hub := { s.hub with upd := some { u with made := FMap.set u.made router (routerCheck s router u.img) } } })
  | _, _ => .next s

/-- COMMIT (R63, R64): the staged tables are installed, every source flips its generation and sends its markers, of the old
generation, along the old routes. To a destination that the old tables name none nothing is under way, and no marker goes. -/
def commitUpdate (s : State) (u : Upd) : State :=
  let rs := routers s
  let flip := s.regF rtstatA 3 3 == 0
  let marks := rs.flatMap fun a =>
    (rs.filter fun b => b != a && (rtEntry s a b).extractLsb' 0 3 != 7).flatMap fun b => (List.range 6).map fun c => (a, b, c)
  { s with rtOld := s.rt, rt := rtOf (imgTable u.img), markers := marks, mesh := s.mesh ++ marks.map fun (m : Nat × Nat × Nat) => markerMsg s m.1 m.2.1 m.2.2,
           gens := if flip then BitVec.allOnes 49 else 0 }.setRegF rtstatA 2 0 3

/-- A die has changed its state during PREPARE: the update is aborted and tried again (R63). -/
def abortRetry (s : State) (u : Upd) : State :=
  { s with hub := { s.hub with upd := some { u with made := [], answered := 0, changed := false } } }.setRegF rtstatA 15 8 4

/-- PREPARE_ANSWER (R63): a rejection aborts the update; with every ACCEPT it enters COMMIT. -/
def execPrepareAnswer (router : Nat) (s : State) : Out :=
  match s.regF rtstatA 2 0 == 2, s.hub.upd with
  | true, some u =>
    (match FMap.find u.made router with
     | none => .next s
     | some reason =>
       if u.changed || u.answered.getLsbD router then .next s
       else if reason ≠ 0 then .next (endUpdate s 2 reason router)
       else
         let u1 := { u with answered := u.answered ||| 1 <<< router }
         let s1 := { s with hub := { s.hub with upd := some u1 } }
         .next (if (routers s).all fun r => u1.answered.getLsbD r then commitUpdate s1 u1 else s1))
  | _, _ => .next s

/-- PREPARE_TIMEOUT (R62, R63): a router that has not answered counts as rejecting. -/
def execPrepareTimeout (router : Nat) (s : State) : Out :=
  match s.regF rtstatA 2 0 == 2 && takesPart s router, s.hub.upd with
  | true, some u =>
    .next (if u.changed then abortRetry s u else if (FMap.find u.made router).isSome then s else endUpdate s 2 6 router)
  | _, _ => .next s

/-- ROUTE_ABORT_RETRY (R63): a die has changed its state during PREPARE; the update is aborted and tried again. -/
def execRouteAbortRetry (s : State) : Out :=
  match s.regF rtstatA 2 0 == 2, s.hub.upd with
  | true, some u =>
    .next (if u.changed then abortRetry s u else s)
  | _, _ => .next s

/-- The acknowledgement of a drain marker on MGT (R64), at a router of its way. It is of the old generation: a new one would wait
for the very markers it acknowledges (log 20). -/
def markerAck (s : State) (router src dst cls : Nat) : MeshMsg :=
  { router := router, hdr := mkHdr src dst 63 5 (s.regF rtstatA 3 3) 2 0 0 0 cls 0, set := 0, slot := 0, data := 0 }

/-- The die whose router a token message leaves, and the one that it goes to (R78). -/
def CohMsg.source (m : CohMsg) : Nat := m.src % 64
/-- The die that a token message goes to (R78). -/
def CohMsg.dest (m : CohMsg) : Nat := match m.dst with | some d => d | none => homeOf m.line
/-- Whether a token message of the old generation is under way from one die to another (R64). -/
def oldTokens (s : State) (src dst : Nat) : Bool :=
  s.coh.any fun m => m.source == src && m.dest == dst && (if m.gen then 1 else 0) == s.regF rtstatA 3 3

/-- DRAIN_MARKER_RECEIVE (R64): a marker that has reached its destination, behind every earlier packet of its class, is
acknowledged. -/
def execDrainMarkerReceive (src dst cls : Nat) (s : State) : Out :=
  let m := { markerMsg s src dst cls with router := dst }
  .next (if s.mesh.contains m && !blocked s m && !(cls == 3 && oldTokens s src dst) && s.markers.contains (src, dst, cls) then
      forward { s with mesh := s.mesh.erase m } (markerAck s dst src dst cls)
    else s)

/-- The update ends in DRAIN (R53 to R55, R64, R65, R538): the old tables are dropped, the generation, the sequence number
and the neighbour table an image carries come into force. -/
def drainUpdate (s : State) : State :=
  match s.hub.upd with
  | none => s
  | some u =>
    let seq := imgField u.img 8 8
    let s1 := { s with rtOld := [], hub := { s.hub with routeSeq := seq } }
    let s2 := (s1.setRegF rtstatA 3 3 (1 - s.regF rtstatA 3 3)).setRegF rtstatA 31 16 seq
    let s3 := if imgField u.img 0x10 8 % 2 = 1 then
        (List.range 64).foldl (fun t l => t.setReg (nbrA l) (BitVec.ofNat 64 (imgField u.img (0xCE0 + 8 * l) 8))) s2
      else s2
    endUpdate s3 1 0 0xFF

/-- DRAIN_MARKER_ACK (R64): the source lets the packets it held for the class and destination go; with every acknowledgement
the hub enters DRAIN. -/
def execDrainMarkerAck (src dst cls : Nat) (s : State) : Out :=
  let a := markerAck s src src dst cls
  if s.mesh.contains a && s.markers.contains (src, dst, cls) then
    let held (m : MeshMsg) : Bool :=
      m.router == src && hdrF m.hdr 121 116 == src && hdrF m.hdr 127 122 == dst && hdrF m.hdr 109 107 == cls
    let s1 := { s with markers := s.markers.erase (src, dst, cls), mesh := (s.mesh.erase a).filter fun m => !held m }
    let s2 := ((s.mesh.erase a).filter held).foldl routePkt s1
    .next (if s2.markers.isEmpty && s2.regF rtstatA 2 0 == 3 then drainUpdate s2 else s2)
  else .next s

/-- DRAIN_MARKER_RESEND (R332): a marker that was discarded, or whose acknowledgement was, is sent again; what the source waits
for stays the same. -/
def execDrainMarkerResend (src dst cls : Nat) (s : State) : Out :=
  let same (m : MeshMsg) : Bool := m.hdr == (markerMsg s src dst cls).hdr || m.hdr == (markerAck s src src dst cls).hdr
  .next (if s.markers.contains (src, dst, cls) && !s.mesh.any same then sendMsg s (markerMsg s src dst cls) else s)

/-- A die enters QUIESCE (R68, R69, R83): its grids, teams and frames end, and every arbiter removes its queued requests. -/
def quiesce (s : State) (site : Nat) : State :=
  let s1 := dieLeaves (setDieState s site 4) site
  let left (l : List (Nat × Nat)) : List (Nat × Nat) := l.filter fun q => q.1 != site
  let cut (e : Nat × Die) : Nat × Die :=
    (e.1, { e.2 with arbQ := left e.2.arbQ, arbNew := (left (e.2.arbQ.drop (e.2.arbQ.length - e.2.arbNew))).length })
  { s1 with dies := s1.dies.map cut }

/-- DIE_RESET_START (R68). -/
def execDieResetStart (site : Nat) (s : State) : Out :=
  .next (if s.dieUp site then wantDetour (quiesce s site) else s)

/-- Nothing is left to wait for of a die that is cut off: its markers, and those for it, are given up (R64, log 20). -/
def dropMarkers (s : State) (down : Nat) : State :=
  let gone (m : Nat × Nat × Nat) : Bool := m.1 == down || m.2.1 == down
  if !s.markers.any gone then s
  else
    let s1 := { s with markers := s.markers.filter fun m => !gone m }
    if s1.markers.isEmpty && s1.regF rtstatA 2 0 == 3 then drainUpdate s1 else s1

/-- A neighbour fences its edge to a die (R68, R69, R71, R83): requests it still holds for the die are answered with
DIEDOWN, tokens sent to the die are lost, and so are those the die held. -/
def fenceEdge (s : State) (router port down : Nat) : State :=
  let s1 := if router = 48 then { s with hub := { s.hub with fenced := s.hub.fenced ||| 1 <<< port } }
    else
      let d := s.die router
      (s.setDie router { d with fenced := d.fenced ||| 1 <<< port }).setRegF (mlinkA router) (16 * port + 15) (16 * port + 12) 0
  let held (m : MeshMsg) : Bool := (m.router == router || m.router == down) && hdrF m.hdr 127 122 == down
  let s2 := (s1.mesh.filter held).foldl (fun t m => cannotSend t { m with router := router } stDieDown)
    { s1 with mesh := s1.mesh.filter fun m => !held m }
  dropMarkers { s2 with coh := s2.coh.filter fun m => m.dst != some down,
                        tokens := s2.tokens.map fun (e : Nat × Tok) => (e.1, { e.2 with dies := FMap.del e.2.dies down }) } down

/-- NEIGHBOR_FENCE (R68): once an update has committed whose tables, now in force, name the die none. -/
def execNeighborFence (site dir : Nat) (s : State) : Out :=
  match linkOf site dir with
  | none => .next s
  | some x =>
    .next (if x < 48 && s.dieSt x == 4 && (FMap.get 0 s.tables (64 * site + x)).extractLsb' 0 3 == 7 && !edgeFenced s site dir
      then fenceEdge s site dir x else s)

/-- Every neighbour of a die fences at once (R69); what the die held or had under way in its router is lost. -/
def fenceAll (s : State) (down : Nat) : State :=
  let s1 := (List.range 4).foldl (fun t p =>
    match linkOf down p with
    | some x => fenceEdge t x (backPort down p) down
    | none => t) s
  { s1 with mesh := s1.mesh.filter fun m => m.router != down }

/-- DIE_FAILURE (R69): a die, or all four modules of one of its edges, fails without warning. -/
def execDieFailure (site : Nat) (s : State) : Out :=
  .next (if s.dieUp site then wantDetour (fenceAll (quiesce s site) site) else s)

/-- Whether some neighbour has fenced its edge to a die, so that a die-down notice has been sent (R68). -/
def noticed (s : State) (down : Nat) : Bool :=
  (List.range 4).any fun p => match linkOf down p with | some x => edgeFenced s x (backPort down p) | none => false
/-- Whether every working neighbour of a die has fenced its edge to it, and every die that is UP has handled the notice (R68). -/
def allTold (s : State) (down : Nat) : Bool :=
  ((List.range 4).all fun p => match linkOf down p with
    | some x => (decide (x < 48) && !s.dieUp x) || edgeFenced s x (backPort down p)
    | none => true) &&
  (List.range 48).all fun x => !s.dieUp x || (FMap.get (0 : BitVec 48) s.hub.told down).getLsbD x

/-- Whether an access goes to a die: its HBM or a window on it. -/
def toSite (down : Nat) (x : LaneRes) : Bool :=
  x.tr.kind == .localMem && (match region x.tr.pa with | .hbm h => h == down | .window h _ _ => h == down | _ => false)

/-- DIE_DOWN_NOTICE (R68, R70, R84): requesters of a die complete what they have outstanding at the lost die with DIEDOWN,
and the home port starts its sweep. -/
def execDieDownNotice (site down : Nat) (s : State) : Out :=
  if !s.dieUp site || s.dieUp down || !noticed s down || (FMap.get (0 : BitVec 48) s.hub.told down).getLsbD site then .next s
  else
    let down1 (o : AsyncOp) : AsyncOp :=
      if !o.done && !o.held && o.res.any (toSite down) then
        { o with res := o.res.map fun x => if toSite down x then { x with status := stDieDown } else x }
      else o
    let ws := (s.warps.filter fun e => decide (e.1 / 4096 = site)).map fun e => ({ site := site, core := e.1 / 64 % 64, slot := e.1 % 64 } : WRef)
    let s1 := ws.foldl (fun t r =>
      let w := t.wref r
      let hit := (w.ops.filter fun o => !o.done && !o.held && !o.engine && o.res.any (toSite down)).map fun o => o.tag
      hit.foldl (fun u tag => completeOp u r tag) (t.setWref r { w with ops := w.ops.map down1 })) s
    let d := s1.die site
    let s2 := s1.setDie site { d with
      sweep := if d.sweep.contains down then d.sweep else down :: d.sweep,
      swept := d.swept.filter fun l => !(lineSet s1 l).getLsbD down }
    let told := FMap.set s2.hub.told down (FMap.get (0 : BitVec 48) s2.hub.told down ||| (1 : BitVec 48) <<< site)
    .next (sweepEnds { s2 with hub := { s2.hub with told := told } } site)

end Sys2Proof.Machine
end

