-- ==== Sys2Proof/Machine/EvCoh.lean ====
section
/-! DEFINITION. Token coherence event by event: transient and persistent requests, recreation, replicas, and the home
commands (R73 to R86, R94 to R101). -/
namespace Sys2Proof.Machine

/-- Change a die's request for a line. -/
def mapPend (s : State) (site line : Nat) (f : PendReq → PendReq) : State :=
  let d := s.die site
  s.setDie site { d with pend := d.pend.map fun p => if p.line == line then f p else p }
/-- TRANSIENT_REQUEST (R73, R78): a die of the line's die set broadcasts; its directory has room for the line's entry. -/
def execTransientRequest (site line : Nat) (write : Bool) (s : State) : Out :=
  if !s.dieUp site || !(lineSet s line).getLsbD site || satisfied s line site write || (pendOf s site line).isSome then .next s
  else
    let s1 := makeRoom s site line
    let d := s1.die site
    let p : PendReq := { line := line, write := write, tries := 1, persistent := false, born := s.ticks, sent := s.ticks, seen := [] }
    .next (s1.setDie site { d with pend := d.pend ++ [p] })

/-- The requester of the persistent request for a line, as a die's table has it (R81). -/
def tableAt (s : State) (site line : Nat) : Option Nat :=
  ((s.die site).ptab.find? fun e => e.1 == line).map fun e => e.2
/-- Whether a broadcast of a line reaches a holder (R78): a die of the line's die set that is UP, or the home memory port of a
home that is, as 64 + site. -/
def reaches (s : State) (line holder : Nat) : Bool :=
  if 64 ≤ holder then holder - 64 == homeOf line && s.dieUp (homeOf line) else (lineSet s line).getLsbD holder && s.dieUp holder
/-- Whether a census has reached a die, which then answers no request for the line and forwards its tokens home (R81, R85). -/
def inCensus (s : State) (line site : Nat) : Bool :=
  match censusOf s line with | some c => c.active.getLsbD site | none => false
/-- What a holder answers a transient request (R78). -/
def answer (s : State) (holder site line : Nat) (write : Bool) : State :=
  if 64 ≤ holder then
    let t := tokOf s line
    if (activeAt s line).isSome || (censusOf s line).isSome then s
    else if write then portSends s line site true
    else if t.homeOwner then portSends s line site (t.home == 1) else s
  else
    let e := dirOf s line holder
    if (tableAt s holder line).isSome || inCensus s line holder then s
    else if write then dieSends s holder line (some site) true
    else if e.owner then dieSends s holder line (some site) (e.tokens == 1) else s

/-- TRANSIENT_REQUEST_RECEIVE (R78): `holder` is a die, or 64 + site for the home memory port. It receives each broadcast
once. -/
def execTransientRequestReceive (holder site line : Nat) (write : Bool) (s : State) : Out :=
  match pendOf s site line with
  | none => .next s
  | some p =>
    if p.write ≠ write || holder = site || p.seen.contains holder || !reaches s line holder then .next s
    else .next (answer (mapPend s site line fun p => { p with seen := holder :: p.seen }) holder site line write)

/-- Whether a token message waits (R48, R64): one that the same source sent before to the same destination is still under way, or it
is of the new generation, and its destination has yet to acknowledge the class's marker. -/
def cohWaits (s : State) (i : Nat) (m : CohMsg) : Bool :=
  ((s.coh.take i).any fun x => x.src == m.src && x.dest == m.dest) ||
    (s.regF rtstatA 2 0 == 3 && (if m.gen then 1 else 0) != s.regF rtstatA 3 3 && s.markers.contains (m.source, m.dest, 3))

/-- TOKEN_RECEIVE (R48, R64, R75, R77, R79, R81, R83, R85): tokens are kept, discarded by their serial or at a die that is down, or
sent on to the requester of an active persistent request or to the home of a census. -/
def execTokenReceive (i : Nat) (s : State) : Out :=
  match s.coh[i]? with
  | none => .next s
  | some m =>
    let s1 := { s with coh := s.coh.eraseIdx i }
    let t := tokOf s1 m.line
    if cohWaits s i m then .next s
    else if m.serial ≠ t.serial then .next s1
    else
      match m.dst with
      | none =>
        if !s.dieUp (homeOf m.line) then .next s1
        else
        let s2 := setTok s1 m.line { t with home := t.home + m.tokens, homeOwner := t.homeOwner || m.owner }
        .next (match activeAt s m.line, censusOf s m.line with
          | some q, none => portSends s2 m.line q true
          | _, _ => s2)
      | some d =>
        if !s.dieUp d then .next s1
        else
          let on (dst : Option Nat) : State := { s1 with coh := s1.coh ++ [{ m with src := d, dst := dst, gen := s.gens.getLsbD d }] }
          if inCensus s m.line d then .next (on none)
          else
            match tableAt s d m.line with
            | some q => if q ≠ d then .next (on (some q)) else .next (keep s1 m d)
            | none => if dirRoom s1 d m.line then .next (keep s1 m d) else .next (on none)
where
  /-- The die keeps the tokens, and the data in the slice of the line's directory entry where no slice has it (log 20); a
  transient request they satisfy is over. -/
  keep (s : State) (m : CohMsg) (d : Nat) : State :=
    let t := tokOf s m.line
    let e := FMap.get DirEnt.none t.dies d
    let k := dirSlice s d m.line
    let fresh := m.data && e.slices == 0
    let s0 := if fresh then sliceRoom s d m.line k else s
    let e1 : DirEnt := { e with tokens := e.tokens + m.tokens, owner := e.owner || m.owner, valid := e.valid || m.data,
                                slices := if fresh then e.slices ||| 1 <<< k else e.slices,
                                dirty := if m.dirty then some (e.dirty.getD k) else e.dirty, sec := t.sec }
    endPend (setTok s0 m.line { t with dies := FMap.set t.dies d e1 }) d m.line

/-- Clocks of 1.5 microseconds. -/
def us15 : Nat := 2850

/-- Whether a die's request has what it asks for (R76): it has not failed then. -/
def served (s : State) (site line : Nat) (p : PendReq) : Bool := satisfied s line site p.write

/-- TRANSIENT_RETRY (R79, R101): the first attempt has failed; a new broadcast reaches every holder again. -/
def execTransientRetry (site line : Nat) (s : State) : Out :=
  match pendOf s site line with
  | some p =>
    .next (if p.tries = 1 && !p.persistent && !served s site line p && decide (p.sent + us15 ≤ s.ticks) then
        (mapPend s site line fun p => { p with tries := 2, sent := s.ticks, seen := [] }).bumpReg (cohcntA site) 47 32 1
      else s)
  | none => .next s

/-- PERSISTENT_CONVERT (R79, R80): after the second failure or 4 microseconds; a die has at most 32 outstanding. -/
def execPersistentConvert (site line : Nat) (s : State) : Out :=
  match pendOf s site line with
  | some p =>
    let due := (p.tries == 2 && decide (p.sent + us15 ≤ s.ticks)) || decide (p.born + 7600 ≤ s.ticks)
    let room := decide (((s.die site).pend.filter fun x => x.persistent).length < 32)
    .next (if due && room && !p.persistent && !served s site line p then mapPend s site line fun p => { p with persistent := true } else s)
  | none => .next s

/-- A line whose tokens a sweep has yet to recreate, or that has lost some, is recreated at once (R75, R84). -/
def sweepFirst (s : State) (line : Nat) : State :=
  if sweepDue s line || tokTotal s line != 64 then recreateNow s line else s

/-- Requests of an arbiter's queue that arrived before the present clock (R80). -/
def Die.arbOld (d : Die) (now : Nat) : Nat := d.arbQ.length - (if d.arbAt = now then d.arbNew else 0)
/-- A request arrives at an arbiter (R80): behind those before it, and of those of the same clock behind those of lower sites. -/
def Die.arbEnter (d : Die) (now : Nat) (q : Nat × Nat) : Die :=
  let k := d.arbOld now
  let tail := orderBy (fun x => x.1) (d.arbQ.drop k ++ [q])
  { d with arbQ := d.arbQ.take k ++ tail, arbAt := now, arbNew := tail.length }

/-- PERSISTENT_REQUEST (R80, R84): the arbiter queues it. -/
def execPersistentRequest (home site line : Nat) (s : State) : Out :=
  let d := s.die home
  let asked := match pendOf s site line with | some p => p.persistent | none => false
  if home ≠ homeOf line || !s.dieUp home || !asked || d.arbQ.contains (site, line) || activeAt s line == some site then .next s
  else
    let s1 := sweepFirst s line
    .next (s1.setDie home ((s1.die home).arbEnter s.ticks (site, line)))

/-- PERSISTENT_ACTIVATE (R80, R81, R84, R101): the oldest queued request of an earlier clock whose line has none active, with fewer
than 32 active; the line is whole, and the home memory port sends its tokens. -/
def execPersistentActivate (home : Nat) (s : State) : Out :=
  let d := s.die home
  if !s.dieUp home || 32 ≤ d.arbAct.length then .next s
  else
    match (d.arbQ.take (d.arbOld s.ticks)).find? fun q => !(d.arbAct.any fun a => a.line == q.2) && (censusOf s q.2).isNone with
    | none => .next s
    | some q =>
      let s1 := (s.setDie home { d with arbQ := d.arbQ.erase q, arbAct := d.arbAct ++ [{ line := q.2, site := q.1 }] }).bumpReg
        (cohcntA home) 63 48 1
      .next (portSends (sweepFirst s1 q.2) q.2 q.1 true)

/-- A die learns of an active persistent request and sends its tokens to the requester (R81). -/
def learn (s : State) (site line q : Nat) : State :=
  let d := s.die site
  let s1 := if (tableAt s site line).isSome then s else s.setDie site { d with ptab := d.ptab ++ [(line, q)] }
  if site = q then s1 else dieSends s1 site line (some q) true

/-- ACTIVATE_RECEIVE (R81). -/
def execActivateReceive (site line : Nat) (s : State) : Out :=
  match activeAt s line with
  | some q => .next (if s.dieUp site && (lineSet s line).getLsbD site then learn s site line q else s)
  | none => .next s

/-- DEACTIVATE (R81): a satisfied requester; the arbiter broadcasts it and every die acknowledges. -/
def execDeactivate (site line : Nat) (s : State) : Out :=
  let write := match pendOf s site line with | some p => p.write | none => false
  .next (if activeAt s line ≠ some site || !satisfied s line site write then s else deactivateLine s line site)

/-- PERS_REBROADCAST (R332): dies that have not acknowledged an ACTIVATE receive it again. -/
def execPersRebroadcast (home line : Nat) (s : State) : Out :=
  match if home = homeOf line then activeAt s line else none with
  | some q => .next ((List.range 48).foldl (fun t x => if t.dieUp x && (lineSet t line).getLsbD x && (tableAt t x line).isNone then learn t x line q else t) s)
  | none => .next s

/-- CLUSTER_HELD_AGE (R74, R297): 64 microseconds have passed, or a release has started the merge. -/
def execClusterHeldAge (site slice line : Nat) (s : State) : Out :=
  match (heldOf s site slice).find? fun h => h.line == line with
  | some h => .next (if h.started || decide (h.born + 121600 ≤ s.ticks) then mergeHeld s site slice line else s)
  | none => .next s

/-- The dies that are UP. -/
def upSet (s : State) : BitVec 48 :=
  (List.range 48).foldl (fun b x => if s.dieUp x then b ||| 1 <<< x else b) 0

/-- RECREATION_SWEEP (R84, R85): the home activates a census, of the surviving dies of the line's die set, for a line whose AH
bit is 0. A census is an arbiter's own: it counts neither in COHCNT.PERSIST nor among the 32 active requests (log 20). -/
def execRecreationSweep (home line : Nat) (s : State) : Out :=
  if home ≠ homeOf line || !s.dieUp home || !sweepDue s line || (censusOf s line).isSome then .next s
  else .next { s with census := s.census ++ [{ line := line, sites := lineSet s line &&& upSet s, active := 0, acks := 0, marks := [] }] }

/-- Change the census of a line. -/
def mapCensus (s : State) (line : Nat) (f : Census → Census) : State :=
  { s with census := s.census.map fun c => if c.line == line then f c else c }
/-- Whether a die that its census has reached has the marks of all other surviving dies (R85). -/
def hasMarks (s : State) (c : Census) (site : Nat) : Bool :=
  let others := c.sites &&& upSet s &&& ~~~((1 : BitVec 48) <<< site)
  c.active.getLsbD site && FMap.get 0 c.marks site &&& others == others
/-- A die acknowledges its census once it has the marks (R85). -/
def ackCensus (s : State) (site : Nat) (c : Census) : Census :=
  if hasMarks s c site then { c with acks := c.acks ||| 1 <<< site } else c

/-- CENSUS_ACTIVATE (R85): the die sends its marks, and its tokens to the home. -/
def execCensusActivate (site line : Nat) (s : State) : Out :=
  match censusOf s line with
  | none => .next s
  | some c =>
    if !c.sites.getLsbD site || c.active.getLsbD site || !s.dieUp site then .next s
    else .next (dieSends (mapCensus s line fun c => ackCensus s site { c with active := c.active ||| 1 <<< site }) site line none true)

/-- CENSUS_MARK_RECEIVE (R48, R85): a mark arrives after every token its sender had sent. -/
def execCensusMarkReceive (site src line : Nat) (s : State) : Out :=
  match censusOf s line with
  | none => .next s
  | some c =>
    let behind := s.coh.any fun m => m.line == line && m.src == src && m.dst == some site
    if !c.sites.getLsbD site || !s.dieUp site || !c.active.getLsbD src || site = src || behind then .next s
    else
      .next (mapCensus s line fun c => ackCensus s site { c with marks := FMap.set c.marks site (FMap.get 0 c.marks site ||| 1 <<< src) })

/-- CENSUS_COMPLETE (R85, R86, R101): every die of it that is UP has acknowledged. -/
def execCensusComplete (line : Nat) (s : State) : Out :=
  match censusOf s line with
  | none => .next s
  | some c =>
    .next (if (List.range 48).all fun x => !c.sites.getLsbD x || !s.dieUp x || c.acks.getLsbD x || hasMarks s c x then
        recreate { s with census := s.census.filter fun c => c.line != line } line
      else s)

/-- The home site of a page. -/
def pageHome (page : Nat) : Nat := page / 0x1000000000
/-- A page's entry in its home's replica directory (R94). -/
def repOf (s : State) (page : Nat) : Option RepEnt := (s.die (pageHome page)).repDir.find? fun r => r.page == page
/-- Change a page's entry. -/
def setRep (s : State) (r : RepEnt) : State :=
  let d := s.die (pageHome r.page)
  s.setDie (pageHome r.page) { d with repDir := r :: d.repDir.filter fun x => x.page != r.page }

/-- Whether a die's TLBs hold a page entry as one of 2 GiB (R256). -/
def bigEntry (s : State) (site entry : Nat) : Bool :=
  let wide (l : List TlbEnt) : Bool := l.any fun x => x.entry == entry && x.big
  (s.die site).clTlb.any (fun e => wide e.2) || s.cores.any fun e => e.1 / 64 == site && wide e.2.tlb

/-- REPLICA_READ (R94, R95): a replica is recorded. A demoted page is HOME to the requester from then on, a closed gate holds the
read, and with a full directory the access is one under R92 and leaves no replica. -/
def execReplicaRead (site page entry : Nat) (s : State) : Out :=
  let h := pageHome page
  if !s.dieUp site || !s.dieUp h then .next s
  else
    let r := match repOf s page with
      | some r => some r
      | none =>
        if 4096 ≤ (s.die h).repDir.length then none
        else some { page := page, entry := entry, sites := 0, acks := 0, demoted := false, gate := false, big := bigEntry s site entry, held := [] }
    match r with
    | none => .next s
    | some r =>
      if r.demoted then .next (treatHome s site entry)
      else if r.gate then .next (if r.held.contains site then s else setRep s { r with held := r.held ++ [site] })
      else
        let s1 := setRep s { r with sites := r.sites ||| 1 <<< site }
        let d := s1.die site
        .next (s1.setDie site { d with replicas := if d.replicas.contains page then d.replicas else page :: d.replicas })

/-- REPLICA_DEMOTE (R95): the gate closes. -/
def execReplicaDemote (home page : Nat) (s : State) : Out :=
  match if home = pageHome page then repOf s page else none with
  | some r => .next (if r.demoted || r.gate then s else setRep s { r with gate := true, acks := 0 })
  | none => .next s

/-- REPLICA_INVALIDATE (R95): the die drops its replica lines of the page and acknowledges. -/
def execReplicaInvalidate (site page : Nat) (s : State) : Out :=
  match repOf s page with
  | some r =>
    if !r.gate || !r.sites.getLsbD site || !s.dieUp site then .next s
    else
      .next (setRep (dropReplica s site page r.span) { r with acks := r.acks ||| 1 <<< site })
  | none => .next s

/-- REPLICA_DEMOTE_DONE (R95): every site that may hold replicas has acknowledged or is not UP; the entry becomes HOME and the
gate opens. -/
def execReplicaDemoteDone (home page : Nat) (s : State) : Out :=
  match if home = pageHome page then repOf s page else none with
  | some r =>
    let want := r.sites &&& upSet s
    .next (if r.gate && (r.acks &&& want) == want then demotePage s home page r.entry r.big else s)
  | none => .next s

/-- Start a home command (R98): BUSY while one runs, BADADDR where the range leaves the site's HBM or COUNT is 0. DONE keeps what
the last command completed until one starts, and a site that is not UP ignores the write (log 20). -/
def homeStart (s : State) (site : Nat) (val : BitVec 64) (flush : Bool) : State :=
  let a := hstatA site
  let start := getF (s.reg (haddrA site)) 47 12 * 4096
  let count := getF val 27 8
  if !s.dieUp site then s
  else if (s.die site).home.isSome then s.setRegF a 15 8 4
  else if count = 0 || start / 0x1000000000 ≠ site || 0x1000000000 < start % 0x1000000000 + count * 4096 then s.setRegF a 15 8 2
  else (s.setDie site { s.die site with home := some { flush := flush, addr := start, count := count } }).setReg a 1

/-- HOME_FLUSH (R97, R98). -/
def execHomeFlush (site : Nat) (val : BitVec 64) (s : State) : Out :=
  .next (if getF val 2 0 = 1 then homeStart s site val true else s)
/-- HOME_REPLCLR (R98). -/
def execHomeReplclr (site : Nat) (val : BitVec 64) (s : State) : Out :=
  .next (if getF val 2 0 = 2 then homeStart s site val false else s)
/-- HOME_BADOP (R98). -/
def execHomeBadop (site : Nat) (val : BitVec 64) (s : State) : Out :=
  .next (if getF val 2 0 = 1 || getF val 2 0 = 2 || !s.dieUp site then s
    else s.setRegF (hstatA site) 15 8 (if (s.die site).home.isSome then 4 else 3))

/-- Recall the lines of a range to their home (R97): cluster-held bytes are merged, all tokens gathered, replicas dropped, with the
clean L1 copies of those dies. -/
def flushRange (s : State) (addr n : Nat) : State :=
  let hit (line : Nat) : Bool := decide (addr ≤ line * 128) && decide (line * 128 < addr + n)
  let s1 := s.dies.foldl (fun t e =>
    e.2.held.foldl (fun t x => x.2.foldl (fun t h => if hit h.line then mergeHeld t e.1 x.1 h.line else t) t) t) s
  let s2 := (s1.tokens.filter fun e => hit e.1).foldl (fun t e => gatherHome t e.1) s1
  let reps (site line : Nat) : Bool := hit line && (s2.die site).repLines.any fun x => x.line == line
  let cut : Nat × Core → Nat × Core := fun e => (e.1, { e.2 with l1 := e.2.l1.filter fun x => !(reps (e.1 / 64) x.1 && x.2.dirty == 0) })
  s2.dies.foldl (fun t e => dropReps t e.1 fun x => hit x.line) { s2 with cores := s2.cores.map cut }

/-- HOME_CMD_DONE (R97, R98): the running command completes. -/
def execHomeCmdDone (site : Nat) (s : State) : Out :=
  match (s.die site).home with
  | none => .next s
  | some c =>
    let s1 := if c.flush then flushRange s c.addr (c.count * 4096)
      else
        let d := s.die site
        s.setDie site { d with repDir := d.repDir.filter fun r => r.page != c.addr }
    .next ((s1.setDie site { s1.die site with home := none }).setReg (hstatA site) (BitVec.ofNat 64 (c.count * 2 ^ 32 + 0x100)))

end Sys2Proof.Machine
end

