-- ==== Sys2Proof/Machine/EvTrust.lean ====
section
/-! DEFINITION. Events of the trust die: measured boot, the release of a die after its reset, the SPDM responder, secure
ranges, and configuration requests of the host (R102 to R122). -/
namespace Sys2Proof.Machine

/-- Extend the measurement record by a digest (R108). -/
def extend (s : State) (idx : Nat) (d : BitVec 256) : State :=
  let c := sha256 (bytesBe 32 s.trust.chain.toNat ++ [BitVec.ofNat 8 idx] ++ bytesBe 32 d.toNat)
  { s with trust := { s.trust with meas := FMap.set s.trust.meas idx d, chain := c } }
/-- Whether an index has been measured since package reset. -/
def measured (s : State) (idx : Nat) : Bool := (FMap.find s.trust.meas idx).isSome
/-- The boot phase (R121). -/
def State.phase (s : State) : Nat := s.regF bootstatA 3 0
/-- Note the cause of a failure, which only the first does (R121). -/
def noteReason (s : State) (r : Nat) : State := if s.regF bootstatA 7 4 = 0 then s.setRegF bootstatA 7 4 r else s
/-- A unit was disabled beyond the fuses (R104). -/
def degrade (s : State) : State := s.setRegF bootstatA 8 8 1
/-- A render die is mapped out (R53, R103, R107, R121). -/
def mapOut (s : State) (site reason : Nat) : State :=
  let s1 := degrade (noteReason (setDieState s site 3) reason)
  let s2 := s1.setRegF (dstateA site) 31 16 0xFFFF
  if s2.regF bootstatA 23 16 = 0xFF then s2.setRegF bootstatA 23 16 site else s2
/-- The boot stops for good (R103). -/
def bootFails (s : State) : State := { s with trust := { s.trust with bootFail := true } }

/-- BOOT_ROM (R102, R103): the trust firmware in use is measured. -/
def execBootRom (aOk bOk : Bool) (digest : BitVec 256) (s : State) : Out :=
  .next (if s.phase ≠ 0 || s.trust.bootFail then s
    else if !aOk && !bOk then bootFails s
    else (extend s 1 digest).setRegF bootstatA 3 0 1)

/-- BOOT_HUB (R102, R103). -/
def execBootHub (aOk bOk : Bool) (digest : BitVec 256) (s : State) : Out :=
  .next (if s.phase ≠ 1 then s
    else if !aOk && !bOk then bootFails ((noteReason s 1).setRegF bootstatA 3 0 15)
    else (extend s 2 digest).setRegF bootstatA 3 0 2)

/-- The results that name a site; a site that none names passes every check. -/
def testOf (rs : List DieTest) (site : Nat) : DieTest :=
  match rs.find? fun r => r.site == site with
  | some r => r
  | none => { site := site, sigOk := true, loadOk := true, dieOk := true, badCores := 0, badSlices := 0, badLanes := [],
              laneReps := 0, badMods := 0, digest := Config.imageDigest (3 + site) }

/-- A die's image is checked, measured and loaded (R102, R103, R107): whether the die leaves reset. -/
def loadDie (s : State) (r : DieTest) : State × Bool :=
  if !r.sigOk then (mapOut s r.site 2, false)
  else if !r.loadOk then (mapOut s r.site 3, false)
  else (extend (setDieState s r.site 1) (3 + r.site) r.digest, true)

/-- BOOT_DIES (R102, R103): the dies in ascending site order. -/
def execBootDies (rs : List DieTest) (s : State) : Out :=
  .next (if s.phase ≠ 2 then s
    else ((List.range 48).foldl (fun t site => (loadDie t (testOf rs site)).1) s).setRegF bootstatA 3 0 3)

/-- The lanes of a core position that a list names. -/
def lanesIn (l : List (Nat × Word)) (core : Nat) : Word := match l.find? fun e => e.1 == core with | some e => e.2 | none => 0
/-- The fuse defect map of a die; one that none is given for has every unit (R104). -/
def fusesOf (s : State) (site : Nat) : Fuses := FMap.get { cores := 0, slices := 0, lanes := [] } s.trust.fuses site
/-- LMAP as a self-test leaves it: the lanes that neither a fuse removes nor the test found bad (R104, R207). -/
def goodLanes (f : Fuses) (bad : List (Nat × Word)) (core : Nat) : Word := ~~~(lanesIn f.lanes core ||| lanesIn bad core)
/-- Whether each pipe of a core keeps 12 good lanes (R104). -/
def lanesOk (m : Word) : Bool :=
  let n (lo : Nat) : Nat := ((List.range 16).filter fun i => m.getLsbD (lo + i)).length
  decide (12 ≤ n 0) && decide (12 ≤ n 16)

/-- The core positions that work with some slices and lanes (R104): each pipe keeps 12 good lanes, and a slice of the cluster pair
works. -/
def coresWith (cores : BitVec 48) (slices : BitVec 12) (lanes : Nat → Word) : BitVec 48 :=
  let pairDead (k : Nat) : Bool := !slices.getLsbD k && !slices.getLsbD (k ^^^ 1)
  let keep (c : Nat) : Bool := lanesOk (lanes c) && !pairDead (c / 4)
  cores &&& (List.range 48).foldl (fun (m : BitVec 48) c => if keep c then m ||| (1 : BitVec 48) <<< c else m) 0
/-- Whether every edge that a die has keeps no module (R44, R103). -/
def edgesDead (r : DieTest) : Bool :=
  (List.range 4).all fun p => (linkOf r.site p).isNone || r.badMods.extractLsb' (4 * p) 4 == 15

/-- Die self-test (R26, R103, R104, R107, R121): what failed is cleared from what DCORE and DSLICE hold, clusters join their
partners, and a die that is left without a core or that fails as a whole is mapped out. DEGRADED and the REASON come of
what the test found beyond the fuses. -/
def selfTest (s : State) (r : DieTest) (cores0 : BitVec 48) (slices0 : BitVec 12) : State × Bool :=
  let f := fusesOf s r.site
  let was := coresWith cores0 slices0 (goodLanes f [])
  let slices := slices0 &&& ~~~r.badSlices
  let cores := coresWith (cores0 &&& ~~~r.badCores) slices (goodLanes f r.badLanes)
  let joins (k : Nat) : Bool := !slices.getLsbD k && (cores.extractLsb' (4 * k) 4 != 0)
  let joined : BitVec 12 := (List.range 12).foldl (fun (m : BitVec 12) k => if joins k then m ||| (1 : BitVec 12) <<< k else m) 0
  let s1 := (s.setReg (dcoreA r.site) (cores.setWidth 64)).setReg (dsliceA r.site) ((joined ++ slices).setWidth 64)
  let s2 := (f.lanes ++ r.badLanes).foldl (fun (t : State) (e : Nat × Word) =>
    t.setReg (ctlAddr r.site (e.1 % 48) 0) ((goodLanes f r.badLanes (e.1 % 48)).setWidth 64)) s1
  let worse := r.badLanes.any fun e => e.2 &&& ~~~(lanesIn f.lanes e.1) != 0
  let s3 := if cores != was || slices != slices0 || worse then degrade (noteReason s2 4) else s2
  if r.dieOk && !edgesDead r && cores != 0 then (s3, true) else (mapOut s3 r.site 4, false)

/-- The working modules of an edge of a die after training (R43, R44): those that training could repair at both ends. -/
def goodMods (bad : Nat → BitVec 16) (site port : Nat) : BitVec 4 :=
  let far : BitVec 4 := match linkOf site port with | some x => (bad x).extractLsb' (4 * backPort site port) 4 | none => 0
  ~~~((bad site).extractLsb' (4 * port) 4 ||| far)
/-- Train the links of a die, at both ends, toward the hub router and toward neighbours that are live: lanes repaired are counted
(R43, R71), and modules that cannot be repaired stay disabled (R44). An edge to a die that was lost after boot is fenced
(R68, R71). -/
def trainLinks (s : State) (site : Nat) (live : Nat → Bool) (bad : Nat → BitVec 16) (reps : Nat) : State :=
  (List.range 4).foldl (fun (t : State) p =>
    match linkOf site p with
    | none => t
    | some x =>
      if x < 48 && !live x then
        (if t.hub.bootOut.getLsbD x then t
         else
           let d := t.die site
           t.setDie site { d with fenced := d.fenced ||| (1 : BitVec 4) <<< p })
      else
        let m := (goodMods bad site p).toNat
        let t1 := t.setRegF (mlinkA site) (16 * p + 15) (16 * p + 12) m
        if x = 48 then { t1 with hub := { t1.hub with fenced := t1.hub.fenced &&& ~~~((1 : BitVec 8) <<< (backPort site p)) } }
        else
          let q := backPort site p
          let d := t1.die x
          (t1.setDie x { d with fenced := d.fenced &&& ~~~((1 : BitVec 4) <<< q) }).setRegF (mlinkA x) (16 * q + 15) (16 * q + 12) m)
    (s.bumpReg (merrA site) 47 32 reps)

/-- The edges of a die toward dies that are live, or the hub, that training has left with no working module (R44). -/
def deadEdges (s : State) (site : Nat) (live : Nat → Bool) : List (Nat × Nat) :=
  ((List.range 4).filter fun p => match linkOf site p with
    | some x => (decide (48 ≤ x) || live x) && edgeMask s site p == 0
    | none => false).map fun p => (site, p)
/-- The hub reports edges that are down to the host (R44). -/
def reportEdges (s : State) (l : List (Nat × Nat)) : State := { s with outbox := s.outbox ++ l.map fun e => .edgeDown e.1 e.2 }

/-- BOOT_SELFTEST (R43, R44, R71, R88, R103, R104): every released die; the links of the dies that pass are trained (log 20). -/
def execBootSelftest (rs : List DieTest) (s : State) : Out :=
  .next (if s.phase ≠ 3 then s
    else
      let go (t : State) (site : Nat) : State :=
        let f := fusesOf t site
        if t.dieSt site = 1 then (selfTest t (testOf rs site) (~~~f.cores) (~~~f.slices)).1 else t
      let s1 := (List.range 48).foldl go s
      let out : BitVec 48 := (List.range 48).foldl (fun (m : BitVec 48) x => if s1.dieSt x = 3 then m ||| (1 : BitVec 48) <<< x else m) 0
      let live (x : Nat) : Bool := s1.dieSt x == 1
      let train (t : State) (x : Nat) : State :=
        if live x then trainLinks t x live (fun y => (testOf rs y).badMods) (testOf rs x).laneReps else t
      let s2 := (List.range 48).foldl train { s1 with hub := { s1.hub with bootOut := out } }
      let dead := ((List.range 48).filter live).flatMap fun x => deadEdges s2 x fun y => live y && decide (x < y)
      (reportEdges s2 dead).setRegF bootstatA 3 0 4)

/-- The logical numbers of a boot (R53): surviving dies in ascending site order. -/
def bootLogical (s : State) (site : Nat) : Nat :=
  if s.dieSt site = 1 then ((List.range site).filter fun x => s.dieSt x == 1).length else 0xFFFF

/-- Give every router that works the public half of the package key (R111). -/
def loadPub (s : State) : State :=
  let pub := Config.publicOf packageKey
  let s1 := { s with hub := { s.hub with pub := pub } }
  (List.range 48).foldl (fun t x => if t.dieSt x = 3 then t else t.setDie x { t.die x with pub := pub }) s1

/-- BOOT_ROUTE (R54, R55, R102, R105, R108, R111): tables, which pass the checks and are signed, neighbour table and the image that
is measured. -/
def execBootRoute (s : State) : Out :=
  if s.phase ≠ 4 then .next s
  else
    let s2 := loadPub { s with hub := { s.hub with routeSeq := 1 } }
    let t := tablesFor s2 fun x => s.hub.bootOut.getLsbD x
    let nbr := defaultNbr (bootLogical s)
    let s3 := (List.range 64).foldl (fun (u : State) l => u.setReg (nbrA l) (nbr l)) { s2 with rt := t }
    let img := unsigned (imageOf 1 1 (tableOf t) nbr)
    let s4 := extend { s3 with trust := { s3.trust with tableSig := Config.sign packageKey img } } 51 (sha256 img)
    .next ((s4.setRegF rtstatA 31 16 1).setRegF bootstatA 3 0 5).fresh

/-- Whether a range that EN, BASE and COUNT give may be written (R121). -/
def rangeOk (v : DWord) : Bool :=
  !v.getLsbD 63 || (getF v 49 32 != 0 && decide (getF v 49 32 ≤ 131072) && decide (getF v 16 0 + getF v 49 32 ≤ 131072))
/-- The bits of a SECRANGE that software writes (R121). -/
def rangeBits (v : DWord) : DWord := setF (setF (setF 0 63 63 (getF v 63 63)) 49 32 (getF v 49 32)) 16 0 (getF v 16 0)

/-- The memory key of a world (R112): the SP 800-108 KDF in counter mode with HMAC-SHA-256 under the root secret, two rounds of it.
The bytes of each round are the family's: counter, label, a zero byte, world and nonce, and the length in bits (log 13). -/
def memoryKey (secret : BitVec 256) (w : Nat) (nonce : BitVec 256) : BitVec 512 :=
  let label : List Byte := [0x58, 0x34, 0x38, 0x4D, 0x45, 0x4D]
  let turn (i : Nat) : BitVec 256 :=
    hmac256 (bytesBe 32 secret.toNat) (bytesBe 4 i ++ label ++ [0, BitVec.ofNat 8 w] ++ bytesBe 32 nonce.toNat ++ bytesBe 4 512)
  turn 1 ++ turn 2
/-- Load both memory keys into the controllers of a die (R107, R112). -/
def loadKeys (s : State) (site : Nat) : State := s.setDie site { s.die site with key0 := s.trust.key0, key1 := s.trust.key1 }

/-- BOOT_KEYS (R102, R103, R108, R112, R114): the policy programs the secure ranges, and both memory keys are derived and loaded
into every memory controller. Index 53 is measured where no policy is loaded too (log 18). -/
def execBootKeys (p : Option Policy) (s : State) : Out :=
  if s.phase ≠ 5 || measured s 53 then .next s
  else
    let nonce := Config.nonce s.free
    let tr := { s.trust with nonce := nonce, key0 := memoryKey Config.rootSecret 0 nonce, key1 := memoryKey Config.rootSecret 1 nonce }
    let s1 := ((List.range 48).foldl (fun t x => if t.dieSt x = 1 then loadKeys t x else t) { s with trust := tr }).fresh
    match p with
    | none => .next (extend (noteReason s1 5) 53 0)
    | some p =>
      let put (t : State) (e : Nat × Nat × DWord) : State :=
        if e.1 < 48 && e.2.1 < 8 && rangeOk e.2.2 then t.setReg (secrangeA e.1 e.2.1) (rangeBits e.2.2) else t
      let s2 := (p.ranges.foldl put s1).setReg worldcfgA (p.secSq.setWidth 64)
      let s3 := { s2 with trust := { s2.trust with has1023 := p.has1023, packet := p.packet } }
      .next (extend s3 53 p.digest)

/-- The bytes that index 52 measures (R108). -/
def shapeBytes (s : State) : List Byte :=
  (List.range 48).flatMap fun x => bytesLe 8 (s.reg (dcoreA x)).toNat ++ bytesLe 8 (s.reg (dsliceA x)).toNat

/-- BOOT_DONE (R31, R53, R102, R106, R132): the surviving dies read UP with their logical numbers, and the packet of the policy
is launched as a secure grid. -/
def execBootDone (s : State) : Out :=
  if s.phase ≠ 5 || !measured s 53 then .next s
  else
    let s1 := extend s 52 (sha256 (shapeBytes s))
    let up (t : State) (x : Nat) : State := if s.dieSt x = 1 then (setDieState t x 2).setRegF (dstateA x) 31 16 (bootLogical s x) else t
    let s2 := ((List.range 48).foldl up s1).setRegF bootstatA 3 0 6
    match s2.trust.packet with
    | none => .next s2
    | some p => .next (addGrid s2 (Grid.taken p none true (rootOf p) false))

/-- Whether a register's reset value applies to the reset of a render die (R71, R98, R101, R222, R267, R334). -/
def dieReg (site pa : Nat) : Bool :=
  pa == mlinkA site || pa == merrA site || pa == haddrA site || pa == hstatA site || pa == cohcntA site ||
    pa == rascntA site || pa == rasrecA site || pa == rasaddrA site ||
    ((List.range 2).any fun w => pa == fqbaseA site w || pa == fqheadA site w || pa == fqtailA site w) ||
    (match region pa with | .window x _ _ => x == site | _ => false)

/-- The reset of a render die (R68, R86): its registers, its cores and its copies are lost, HBM and metadata stay. The reset ends
a thermal response in force, and an owner token that the die's own port holds is no lost one (log 20). -/
def resetDie (s : State) (site : Nat) : State :=
  let inWin (a : Nat) : Bool := match region a with | .window x _ _ => x == site | _ => false
  { s.setDie site Die.reset with
    regs := s.regs.filter fun e => !dieReg site e.1,
    mem := s.mem.filter fun c => !inWin c.1,
    cores := s.cores.filter fun e => decide (e.1 / 64 ≠ site),
    warps := s.warps.filter fun e => decide (e.1 / 4096 ≠ site),
    tokens := s.tokens.map fun (e : Nat × Tok) => (e.1, { e.2 with dies := FMap.del e.2.dies site }) }

/-- DIE_RELEASE (R43, R68, R84, R86, R107, R108, R111): a die that is held in reset, once its neighbours have fenced it and every
die has handled the notice, is measured, loaded and tested again, its own lines whose tokens are not all at home are
recreated, its keys are loaded, and it reads UP; a failure maps it out. What its router held is lost. -/
def execDieRelease (r : DieTest) (s : State) : Out :=
  if s.dieSt r.site ≠ 4 || !allTold s r.site then .next s
  else
    let s0 := { s with mesh := s.mesh.filter fun m => m.router != r.site, hub := { s.hub with told := FMap.del s.hub.told r.site } }
    let s1 := resetDie s0 r.site
    match loadDie s1 r with
    | (s2, false) => .next s2
    | (s2, true) =>
      let shape := shapeBytes s2
      let (s3, ok) := selfTest s2 r ((s2.reg (dcoreA r.site)).setWidth 48) ((s2.reg (dsliceA r.site)).setWidth 12)
      let s4 := if shapeBytes s3 = shape then s3 else extend s3 52 (sha256 (shapeBytes s3))
      if !ok then .next s4
      else
        let own := (s4.tokens.filter fun e => homeOf e.1 == r.site && e.2.home != 64).map fun e => e.1
        let s5 := own.foldl recreate s4
        let s6 := loadKeys s5 r.site
        let s7 := s6.setDie r.site { s6.die r.site with pub := Config.publicOf packageKey }
        let bad (x : Nat) : BitVec 16 := if x = r.site then r.badMods else 0
        let s8 := trainLinks (setDieState s7 r.site 2) r.site s.dieUp bad r.laneReps
        .next (wantDetour (reportEdges s8 (deadEdges s8 r.site s.dieUp)))

/-- The device identity key (R111). -/
def identityKey : BitVec 512 := Config.deriveKey Config.rootSecret 3
/-- Whether the responder takes a request (R110): from the moment the hub is there to carry it (log 20), and while no response stands
in the mailbox, which serves one request at a time. -/
def spdmFree (s : State) : Bool := decide (2 ≤ s.phase) && s.phase != 15 && s.trust.doe.isNone
/-- An SPDM response goes to the DOE mailbox, from which the host takes it (R110). -/
def spdmSend (s : State) (r : SpdmRsp) : State := if spdmFree s then { s with trust := { s.trust with doe := some r } } else s
/-- The same for a response that takes a free value. -/
def spdmDraw (s : State) (r : SpdmRsp) : State := if spdmFree s then (spdmSend s r).fresh else s
/-- ERROR, with the code that the responder picks (R110, log 4). -/
def spdmError (s : State) : State := spdmDraw s (.error (s.any 0 % 2 == 1))

/-- GET_VERSION (R110). -/
def execGetVersion (s : State) : Out := .next (spdmSend s (.version 0x12))
/-- GET_CAPABILITIES (R110). -/
def execGetCapabilities (s : State) : Out := .next (spdmSend s (.capabilities true true true false))
/-- NEGOTIATE_ALGORITHMS (R110): of each list of the request, the measurement specification, the base asymmetric and the base
hash algorithms, what the responder supports, and SHA-256 for measurements; the bits are SPDM's (log 16). -/
def execNegotiateAlgorithms (asym hash meas : Nat) (s : State) : Out :=
  .next (spdmSend s (.algorithms (meas &&& 1) (asym &&& 0x10) (hash &&& 1) (if meas &&& 1 = 0 then 0 else 2)))
/-- GET_DIGESTS (R110). -/
def execGetDigests (s : State) : Out := .next (spdmSend s (.digests (sha256 (Config.certChain 0))))
/-- GET_CERTIFICATE (R110): slot 0 alone. -/
def execGetCertificate (slot off len : Nat) (s : State) : Out :=
  let c := Config.certChain 0
  .next (if slot ≠ 0 || c.length < off then spdmError s
    else
      let part := (c.drop off).take len
      spdmSend s (.certificate part (c.length - off - part.length)))
/-- CHALLENGE (R110): the signed message is the model's own (log 13). -/
def execChallenge (slot : Nat) (nonce : BitVec 256) (s : State) : Out :=
  .next (if slot ≠ 0 then spdmError s
    else
      let d := sha256 (Config.certChain 0)
      let own := Config.nonce s.free
      let msg := bytesBe 32 nonce.toNat ++ bytesBe 32 own.toNat ++ bytesBe 32 d.toNat
      spdmDraw s (.challengeAuth d own (Config.sign identityKey msg)))
/-- What the measurement record holds at an index (R108): 54 is the chain value. -/
def measOf (s : State) (idx : Nat) : BitVec 256 := if idx = 54 then s.trust.chain else FMap.get 0 s.trust.meas idx
/-- GET_MEASUREMENTS (R109, R110): a signed one names a certificate slot. -/
def execGetMeasurements (op : Nat) (sign : Option Nat) (nonce : BitVec 256) (s : State) : Out :=
  let reply (count : Nat) (l : List (Nat × BitVec 256)) : State :=
    let body := l.flatMap fun e => BitVec.ofNat 8 e.1 :: bytesBe 32 e.2.toNat
    spdmSend s (.measurements count l (sign.map fun _ => Config.sign identityKey (bytesBe 32 nonce.toNat ++ body)))
  .next (if sign.any (· ≠ 0) then spdmError s
    else if op = 0 then reply 54 []
    else if op = 0xFF then reply 54 ((List.range 54).map fun i => (i + 1, measOf s (i + 1)))
    else if op ≤ 54 then reply 1 [(op, measOf s op)]
    else spdmError s)
/-- SPDM_UNSUPPORTED (R110). -/
def execSpdmUnsupported (_code : Nat) (s : State) : Out := .next (spdmError s)

/-- A non-secure write of a register that only secure requesters may write (R119, R120): dropped, with a security event. The only
non-secure requester that reaches a register is the host: no page entry names the register region (R87, R258), and the GCP, hub
firmware and trust die are secure (R116); the host's write is posted, so that the refusal answers nothing (R119). -/
def secDrop (s : State) (addr : Nat) : State := secEvent s 48 48 63 addr

/-- The units of one interval that another does not hold, as intervals. -/
def minusUnits (a b : Nat × Nat) : List (Nat × Nat) :=
  [(a.1, min a.2 b.1), (max a.1 b.2, a.2)].filter fun e => decide (e.1 < e.2)
/-- The units an enabled range covers. -/
def rangeUnits (v : DWord) : Nat × Nat := if v.getLsbD 63 then (getF v 16 0, getF v 16 0 + getF v 49 32) else (0, 0)

/-- The units of intervals that another set of intervals does not hold. -/
def minusAll (l : List (Nat × Nat)) (cut : List (Nat × Nat)) : List (Nat × Nat) :=
  cut.foldl (fun l c => l.flatMap fun a => minusUnits a c) l

/-- SECRANGE_WRITE (R115, R120, R121): the units whose world changes, those that no other enabled range covers, are
zero-filled. -/
def execSecrangeWrite (site i : Nat) (val : BitVec 64) (sec : Bool) (s : State) : Out :=
  let a := secrangeA site i
  .next (if !sec then secDrop s a
    else if !rangeOk val then s
    else
      let old := rangeUnits (s.reg a)
      let new := rangeUnits val
      let others := ((List.range 8).filter fun k => k != i).map fun k => rangeUnits (s.reg (secrangeA site k))
      let fills := (minusAll (minusUnits old new ++ minusUnits new old) others).map fun e => (site, i, e.1, e.2)
      let s1 := s.setReg a (rangeBits val ||| if fills.isEmpty then s.reg a &&& 0x4000000000000000 else 0x4000000000000000)
      { s1 with trust := { s1.trust with fills := s1.trust.fills ++ fills } })

/-- SECRANGE_ZEROFILL_DONE (R115): the filled units hold zeros, and no copy of what they held is left. -/
def execSecrangeZerofillDone (site i : Nat) (s : State) : Out :=
  let mine := s.trust.fills.filter fun f => f.1 == site && f.2.1 == i
  if mine.isEmpty then .next s
  else
    let hit (pa : Nat) : Bool := pa / 0x1000000000 == site && mine.any (fillCovers site (pa % 0x1000000000 / 0x80000))
    let clean (l : FMap L1Line) : FMap L1Line := l.filter fun e => !hit (128 * e.1)
    let drop (d : Die) : Die := { d with held := d.held.map fun (e : Nat × List Held) => (e.1, e.2.filter fun h => !hit (128 * h.line)) }
    let s1 := { s with
      mem := s.mem.filter fun c => !hit c.1,
      poison := s.poison.filter fun l => !hit (128 * l),
      cores := s.cores.map fun (e : Nat × Core) => (e.1, { e.2 with l1 := clean e.2.l1 }),
      dies := s.dies.map fun (e : Nat × Die) => (e.1, drop e.2),
      trust := { s.trust with fills := s.trust.fills.filter fun f => !mine.contains f } }
    .next (s1.setRegF (secrangeA site i) 62 62 0)

/-- A word of configuration space, by its number (R123, R135, log 16): both memory BARs are 64 bits wide, BAR0 has 4 GiB and BAR2
the size that the Resizable BAR capability selects. The lists of capabilities hold Power Management, MSI-X and PCI Express,
and Resizable BAR, Data Object Exchange and Advanced Error Reporting, whose status, mask and severity words hold what software has
made of them. -/
def pciWord (m : FMap Word) (reg : Nat) : Word :=
  let held := FMap.get 0 m reg
  let size := (FMap.get 0x0B00 m 0x42).extractLsb' 8 6
  let k := size.toNat + 20
  match reg with
  | 1 => held ||| 0x00100000
  | 4 => 4
  | 5 => held
  | 6 => (if k = 31 then held &&& 0x80000000 else 0) ||| 0xC
  | 7 => if k ≤ 32 then held else held &&& (BitVec.allOnes 32 <<< (k - 32))
  | 0x0D => 0x40
  | 0x10 => 0x00035001
  | 0x11 => held
  | 0x14 => held ||| 0x07FF7011
  | 0x15 => 0x000A0000
  | 0x16 => 0x000A8000
  | 0x1C => 0x00020010
  | 0x40 => 0x12010015
  | 0x41 => 0x001F8000
  | 0x42 => (size.setWidth 32 <<< 8) ||| 0x22
  | 0x48 => 0x1401002E
  | 0x50 => 0x00020001
  | 0x51 => held
  | 0x52 => FMap.get 0x00400000 m reg
  | 0x53 => FMap.get 0x00462030 m reg
  | 0x54 => held
  | 0x55 => FMap.get 0x6000 m reg
  | _ => Config.pciConst reg
/-- Write a word of configuration space (R123, R125, R135, log 16): command, BARs, the power state, which is D0 or D3hot, Enable and
Function Mask of MSI-X, the size of BAR2, from 2 GiB to 64 GiB, and the masks and severities of errors, whose status bits a write of 1
clears. Other words hold what they hold. -/
def pciWrite (m : FMap Word) (reg : Nat) (val : Word) : FMap Word :=
  match reg with
  | 1 => FMap.put 0 m reg (val &&& 0x0547)
  | 5 | 6 | 7 => FMap.put 0 m reg val
  | 0x11 => if val &&& 3 = 1 || val &&& 3 = 2 then m else FMap.put 0 m reg (val &&& 3)
  | 0x14 => FMap.put 0 m reg (val &&& 0xC0000000)
  | 0x51 | 0x54 => FMap.put 0 m reg (FMap.get 0 m reg &&& ~~~val)
  | 0x52 => FMap.put 0x00400000 m reg (val &&& 0x07FFF030)
  | 0x53 => FMap.put 0x00462030 m reg (val &&& 0x07FFF030)
  | 0x55 => FMap.put 0x6000 m reg (val &&& 0xF1C1)
  | 0x42 => if decide (11 ≤ (val.extractLsb' 8 6).toNat) && decide ((val.extractLsb' 8 6).toNat ≤ 16) then FMap.put 0 m reg val else m
  | _ => m

/-- A message that waits is sent once neither its vector nor the function is masked (R135, log 16). -/
def unmasked (s : State) (v : Nat) : State :=
  if s.msixOn && s.regF (msixA v 1) 32 32 = 0 && (s.reg (pbaA (v / 64))).getLsbD (v % 64) then
    sendMsix (s.setRegF (pbaA (v / 64)) (v % 64) (v % 64) 0) v
  else s
/-- Every message that waits is sent, where nothing masks it. -/
def unmaskedAll (s : State) : State :=
  (List.range 32).foldl (fun t i => if t.reg (pbaA i) = 0 then t else (List.range 64).foldl (fun t k => unmasked t (64 * i + k)) t) s

/-- A word of configuration space, with the registers of the DOE mailbox (R110, R123, log 16): Control reads 0; Status has Busy and
Data Object Ready set while a response is pending; the read mailbox shows the first word of its object, PCI-SIG's type 1. -/
def configWord (s : State) (reg : Nat) : Word :=
  let pending := s.trust.doe.isSome
  match reg with
  | 0x49 => 0
  | 0x4A => 0
  | 0x4B => if pending then 0x80000001 else 0
  | 0x4C => 0
  | 0x4D => if pending then 0x00010001 else 0
  | _ => pciWord s.trust.pci reg
/-- A write of the DOE mailbox (R110, log 16): the Abort bit of Control drops the response that is pending, and a write of the read
mailbox takes it. -/
def doeWrite (s : State) (reg : Nat) (val : Word) : State :=
  let rest := { s with trust := { s.trust with doe := none } }
  match reg, s.trust.doe with
  | 0x4A, some _ => if val.getLsbD 0 then rest else s
  | 0x4D, some r => { rest with outbox := s.outbox ++ [.spdm r] }
  | _, _ => s

/-- HOST_CONFIGURATION_REQUEST (R106): Configuration Request Retry Status until the boot is done, then configuration space. -/
def execHostConfigurationRequest (write : Bool) (reg : Nat) (val : BitVec 32) (s : State) : Out :=
  if s.phase ≠ 6 then .next { s with outbox := s.outbox ++ [.retryStatus] }
  else if write then
    let s1 := doeWrite s reg val
    .next (unmaskedAll { s1 with trust := { s1.trust with pci := pciWrite s1.trust.pci reg val } })
  else .next { s with outbox := s.outbox ++ [.configData (configWord s reg)] }

end Sys2Proof.Machine
end

