-- ==== Sys2Proof/Machine/EvHost.lean ====
section
/-! DEFINITION. Events of the host port, the queues, the Dalec ports and device time (R124 to R149). -/
namespace Sys2Proof.Machine

/-- A requester of the hub (R46, R116): host accesses with code 48, the GCP and hub firmware with code 52. -/
def hostWho : Who := dieWho 48 48 false
/-- The GCP and hub firmware as a requester (R46, R116). -/
def gcpWho : Who := dieWho 48 52 true
/-- A physical address as a translated one, uncached and without placement. -/
def rawTr (host : Bool) (pa : Nat) : Tr :=
  { kind := if host then .host else .localMem, pa := pa, attr := 0, set := 0, sec := false, page := 0, entry := 0 }

/-- The pieces of a host access, cut at lines and slots: BAR2 offset and length (R125). -/
def hostPieces (off : Nat) : Nat → Nat → List (Nat × Nat)
  | 0, _ => []
  | fuel + 1, n =>
    if n = 0 then []
    else
      let k := min n (128 - off % 128)
      (off, k) :: hostPieces (off + k) fuel (n - k)
/-- Where a BAR2 offset goes (R125): HBM of the package, or nothing. -/
def apAddr (s : State) (off : Nat) : Option Nat :=
  let i := off / 2 ^ 31
  let e := s.reg (apmapA i)
  let pa := getF e 47 31 * 2 ^ 31 + off % 2 ^ 31
  if 32 ≤ i || !e.getLsbD 63 then none else match region pa with | .hbm _ => some pa | _ => none

/-- One piece of a host read: its bytes, or nothing where it is refused (R119, R125, R126). -/
def hostRead (s : State) (p : Nat × Nat) : State × Option (List Byte) :=
  match apAddr s p.1 with
  | none => (s, none)
  | some pa =>
    if portSt s pa false ≠ stOk then (portEvent s 48 48 63 pa false, none)
    else
      match doLoad s hostWho (rawTr false pa) p.2 0 with
      | (s1, v, st) => (s1, if st = stOk then some (bytesLe p.2 v) else none)
/-- The pieces of a host read in order; the first that is refused ends it. -/
def hostReads (s : State) : List (Nat × Nat) → State × Option (List Byte)
  | [] => (s, some [])
  | p :: ps =>
    match hostRead s p with
    | (s1, none) => (s1, none)
    | (s1, some l) => (match hostReads s1 ps with | (s2, some m) => (s2, some (l ++ m)) | r => r)

/-- BAR2_READ (R106, R119, R125, R126). -/
def execBar2Read (off size : Nat) (s : State) : Out :=
  if s.phase ≠ 6 || s.asleep then .next { s with outbox := s.outbox ++ [.unsupported] }
  else
    match hostReads s (hostPieces off (size + 1) size) with
    | (s1, some l) => .next { s1 with outbox := s1.outbox ++ [.read l] }
    | (s1, none) => .next { s1 with outbox := s1.outbox ++ [.unsupported] }

/-- The number a list of bytes makes, lowest first. -/
def listNat (l : List Byte) : Nat := (List.range l.length).foldl (fun v i => v + (l.getD i 0).toNat * 2 ^ (8 * i)) 0
/-- One piece of a host write (R119, R125, R126). -/
def hostWrite (off0 : Nat) (data : List Byte) (s : State) (p : Nat × Nat) : State :=
  match apAddr s p.1 with
  | none => s
  | some pa =>
    if portSt s pa false ≠ stOk then portEvent s 48 48 63 pa false
    else (doStore s hostWho (rawTr false pa) p.2 (listNat ((data.drop (p.1 - off0)).take p.2)) 2 0).1

/-- BAR2_WRITE (R106, R119, R125, R126). -/
def execBar2Write (off : Nat) (data : List Byte) (s : State) : Out :=
  .next (if s.phase ≠ 6 || s.asleep then s else (hostPieces off (data.length + 1) data.length).foldl (hostWrite off data) s)

/-- What the hub keeps for a queue. -/
def State.qint (s : State) (q : Nat) : QInt := FMap.get QInt.reset s.hub.queues q
/-- Change what the hub keeps for a queue. -/
def State.setQint (s : State) (q : Nat) (x : QInt) : State := { s with hub := { s.hub with queues := FMap.set s.hub.queues q x } }
/-- SQCFG.STATE of a queue (R128): 0 OFF, 1 RUN, 2 ERROR. -/
def State.qState (s : State) (q : Nat) : Nat := s.regF (sqcfgA q) 1 0
/-- Whether a queue is the secure submission queue (R121, R132). -/
def secQueue (s : State) (q : Nat) : Bool := decide (s.regF worldcfgA 9 0 = q) && (q != 1023 || s.trust.has1023)
/-- A queue enters ERROR (R129, R130, R136). -/
def queueError (s : State) (q err : Nat) : State :=
  raiseEvt ((s.setRegF (sqcfgA q) 31 28 err).setRegF (sqcfgA q) 1 0 2) 5
/-- SIZE as a write of SQCFG leaves it (R129). -/
def putSize (s : State) (q : Nat) (val : DWord) : State :=
  if s.qState q = 1 then s else s.setRegF (sqcfgA q) 7 4 (getF val 7 4)
/-- Whether a base breaks the limits of its ADDR field (R129). -/
def baseBad (b : DWord) (bytes : Nat) : Bool :=
  let a := getF b 56 5 * 32
  !b.getLsbD 63 && (getF b 56 48 != 0 || decide (0x30000000000 < a + bytes))

/-- SQ_START (R129, R132, R133): a write of 1 to STATE. Completion entries that a full queue holds stay held, and those that no
message has told of stay so. -/
def execSqStart (q : Nat) (val : BitVec 64) (sec : Bool) (s : State) : Out :=
  if !sec && s.asleep then .next s
  else if secQueue s q && !sec then .next (secDrop s (sqcfgA q))
  else if getF val 1 0 ≠ 1 then .next s
  else
    let s1 := putSize s q val
    if s.qState q ≠ 0 then .next s1
    else
      let n := s1.regF (sqcfgA q) 7 4
      let m := s1.regF (cqcfgA q) 7 4
      .next (if n < 4 || m < 4 then queueError s1 q 3
        else if baseBad (s1.reg (sqbaseA q)) (128 * 2 ^ n) || baseBad (s1.reg (cqbaseA q)) (32 * 2 ^ m) then queueError s1 q 2
        else
          let s2 := ((s1.setRegF (sqcfgA q) 47 32 0).setRegF (cqcfgA q) 47 32 0).setRegF (sqcfgA q) 1 0 1
          s2.setQint q { QInt.reset with held := (s2.qint q).held, unsig := (s2.qint q).unsig, oldest := (s2.qint q).oldest })

/-- SQ_STOP (R129, R132): a write of 0 to STATE. -/
def execSqStop (q : Nat) (val : BitVec 64) (sec : Bool) (s : State) : Out :=
  .next (if !sec && s.asleep then s
    else if secQueue s q && !sec then secDrop s (sqcfgA q)
    else if getF val 1 0 ≠ 0 then s
    else
      let s1 := putSize s q val
      let s2 := s1.setRegF (sqcfgA q) 1 0 0
      if s.qState q = 2 then s2.setRegF (sqcfgA q) 31 28 0 else s2)

/-- SQ_DOORBELL (R106, R130, R132): `low` says that the write covers bits [15:0]. -/
def execSqDoorbell (q : Nat) (val : BitVec 64) (low sec : Bool) (s : State) : Out :=
  let i := getF val 15 0
  .next (if !sec && s.asleep then s
    else if secQueue s q && !sec then secDrop s (0xFF0000070000 + 16 * q)
    else if !low || s.phase ≠ 6 || s.qState q ≠ 1 then s
    else if 2 ^ s.regF (sqcfgA q) 7 4 ≤ i then queueError s q 1
    else s.setQint q { s.qint q with tail := i })

/-- CQ_DOORBELL (R106, R130, R132). -/
def execCqDoorbell (q : Nat) (val : BitVec 64) (low sec : Bool) (s : State) : Out :=
  let i := getF val 15 0
  let n := 2 ^ s.regF (cqcfgA q) 7 4
  let x := s.qint q
  let past := decide ((s.regF (cqcfgA q) 47 32 + n - x.cqHead) % n < (i + n - x.cqHead) % n)
  .next (if !sec && s.asleep then s
    else if secQueue s q && !sec then secDrop s (0xFF0000070008 + 16 * q)
    else if !low || s.phase ≠ 6 || s.qState q ≠ 1 then s
    else if n ≤ i || past then queueError s q 1
    else s.setQint q { x with cqHead := i })

/-- Read `n` pieces of 32 bytes at a physical or bus address for the GCP; what cannot be read is undefined (R50, log 4). -/
def gcpBytes (s : State) (host : Bool) (a : Nat) : Nat → State × Nat
  | 0 => (s, 0)
  | n + 1 =>
    match doLoad s gcpWho (rawTr host a) 32 0 with
    | (s1, v, st) =>
      let (s2, v) := if st = stOk then (s1, v) else (s1.fresh, s1.any 0 % 2 ^ 256)
      let (s3, x) := gcpBytes s2 host (a + 32) n
      (s3, v + x * 2 ^ 256)

/-- GCP_READ_ENTRY (R131, R132, R160): the next entry of a queue, once the entry ahead of it has been admitted or refused; the round
of the queues goes on behind it. -/
def execGcpReadEntry (q : Nat) (s : State) : Out :=
  let held := s.hub.grids.any fun e => e.2.q == some q && !e.2.isFallback && (e.2.st == .waiting || e.2.st == .resolved)
  let h := s.regF (sqcfgA q) 47 32
  .next (if s.phase ≠ 6 || s.qState q ≠ 1 || h = (s.qint q).tail || held then s
    else
      let b := s.reg (sqbaseA q)
      let (s1, v) := gcpBytes s (b.getLsbD 63) (getF b 56 7 * 128 + 128 * h) 4
      let s2 := s1.setRegF (sqcfgA q) 47 32 ((h + 1) % 2 ^ s.regF (sqcfgA q) 7 4)
      let pkt := BitVec.ofNat 1024 v
      let s3 := { s2 with hub := { s2.hub with rr := q + 1 } }
      addGrid s3 (Grid.taken pkt (some q) (secQueue s q) (rootOf pkt) false))

/-- Whether a completion queue is full (R128). -/
def cqFull (s : State) (q : Nat) : Bool := (s.regF (cqcfgA q) 47 32 + 1) % 2 ^ s.regF (cqcfgA q) 7 4 == (s.qint q).cqHead
/-- Send a queue's vector (R133). -/
def cqSignal (s : State) (q : Nat) : State :=
  sendMsix (s.setQint q { s.qint q with unsig := 0 }) (s.regF (cqcfgA q) 31 21)
/-- Write a completion entry at TAIL (R133, R134): HEAD and PHASE are those of the moment of writing. -/
def cqWrite (s : State) (q : Nat) (e : BitVec 256) : State :=
  let tail := s.regF (cqcfgA q) 47 32
  let n := 2 ^ s.regF (cqcfgA q) 7 4
  let x := s.qint q
  let v := e.toNat + s.regF (sqcfgA q) 47 32 * 2 ^ 128 + (if x.cqPhase then 2 ^ 144 else 0)
  let b := s.reg (cqbaseA q)
  let s1 := (doStore s gcpWho (rawTr (b.getLsbD 63) (getF b 56 5 * 32 + 32 * tail)) 32 v 2 0).1
  let s2 := s1.setRegF (cqcfgA q) 47 32 ((tail + 1) % n)
  let x1 := { x with cqPhase := if tail + 1 = n then !x.cqPhase else x.cqPhase }
  if (s.reg (cqcfgA q)).getLsbD 20 then
    let x2 := { x1 with unsig := x.unsig + 1, oldest := if x.unsig = 0 then s.ticks else x.oldest }
    let s3 := s2.setQint q x2
    if max 1 (s.regF (cqcfgA q) 15 8) ≤ x2.unsig then cqSignal s3 q else s3
  else s2.setQint q x1
/-- A completion entry is written, or held while the queue is full or holds earlier ones (R133). -/
def cqPut (s : State) (q : Nat) (e : BitVec 256) : State :=
  let x := s.qint q
  if cqFull s q || !x.held.isEmpty then s.setQint q { x with held := x.held ++ [e] } else cqWrite s q e

/-- COMPLETION_ENTRY_WRITE (R129, R133): the oldest held entry, once there is room. -/
def execCompletionEntryWrite (q : Nat) (s : State) : Out :=
  let x := s.qint q
  match x.held with
  | [] => .next s
  | e :: l => .next (if cqFull s q then s else cqWrite (s.setQint q { x with held := l }) q e)

/-- MSIX_COALESCE_TIMEOUT (R133): 20 microseconds, while IEN is 1. -/
def execMsixCoalesceTimeout (q : Nat) (s : State) : Out :=
  let x := s.qint q
  .next (if 0 < x.unsig && (s.reg (cqcfgA q)).getLsbD 20 && decide (x.oldest + 38000 ≤ s.ticks) then cqSignal s q else s)

/-- EVTSTAT_CLEAR (R136): by the host, whose function takes no memory access in D3hot (R123). -/
def execEvtstatClear (val : BitVec 64) (s : State) : Out :=
  .next (if s.asleep then s else s.setReg evtstatA (s.reg evtstatA &&& ~~~val))

/-- The operations that have requests outstanding at peer packages whose mask names a port, with the package (R141). -/
def peerOpen (s : State) (port : Nat) : List (Nat × Nat × WRef × BitVec 16) :=
  s.warps.flatMap fun e =>
    let r : WRef := { site := e.1 / 4096, core := e.1 / 64 % 64, slot := e.1 % 64 }
    (e.2.ops.filter fun o => !o.done && !o.held).flatMap fun o =>
      ((o.res.filter fun x => x.tr.kind == .peer && (s.reg (pkgrtA (peerOf x.tr.pa))).getLsbD port).map fun x => peerOf x.tr.pa).eraseDups.map
        fun n => (r.site, n, r, o.tag)
/-- DALEC_PORT_CHANGE (R136, R141): where the port goes down or comes up, every source holds its new requests to a package of the port
until those that it has outstanding there have completed. -/
def execDalecPortChange (port state : Nat) (s : State) : Out :=
  let was := s.regF (dlstatA port) 1 0
  .next (if 24 ≤ port || 2 < state || was = state then s
    else
      let live := s.hub.peerHold.filter fun h => peerWaits s h
      let hold := if was = 2 || state = 2 then live ++ (peerOpen s port).filter fun h => !live.contains h else live
      raiseEvt ({ s with hub := { s.hub with peerHold := hold } }.setRegF (dlstatA port) 1 0 state) 6)

/-- The die whose edge a Dalec port is on (R21). -/
def portSite (port : Nat) : Nat := ((List.range 48).find? fun x => sitePort x == port).getD 48
/-- What the ingress die answers a peer's request (R58, R92, R138, R139, R142): value and status; none for a late copy. -/
def peerRequest (s : State) (site pkg : Nat) (r : Req) : State × Option (Nat × Nat) :=
  let who := dieWho site 51 false
  let t := rawTr false r.pa
  match region r.pa, r.kind with
  | .hbm _, .load => let (s1, v, st) := doLoad s who t r.size 0; (s1, some (v, st))
  | .hbm _, .store => let (s1, st) := doStore s who t r.size r.data.toNat 2 0; (s1, some (0, st))
  | .hbm _, k =>
    let d := s.die site
    let key := pkg * 4096 + reqKey r.srcSite r.srcCore
    let last := FMap.get r.lwm d.peerLwms key
    let mark := if seqAbove r.lwm last then r.lwm else last
    let f := (FMap.get [] d.peerFilter key).filter fun e => seqAbove e.1 mark
    if !seqAbove r.seq mark then (s, none)
    else
      (match FMap.find f r.seq with
       | some v => (s, some (v.toNat, stOk))
       | none =>
         let (s1, old, st) := doAtomic s who t (k == .cas) r.aop.toNat r.size r.data.toNat
         let d1 := s1.die site
         let f1 := if st = stOk then FMap.set f r.seq (BitVec.ofNat 64 old) else f
         (s1.setDie site { d1 with peerLwms := FMap.set d1.peerLwms key mark, peerFilter := FMap.set d1.peerFilter key f1 },
           some (old, st)))
  | _, _ => (s, some (0, stAddr))

/-- PEER_REQUEST_RECEIVE (R139, R142): at the ingress die of a port. -/
def execPeerRequestReceive (port pkg : Nat) (r : Req) (s : State) : Out :=
  let site := portSite port
  if 24 ≤ port || !s.dieUp site || !(s.reg pkgidA).getLsbD 63 || s.regF (dlstatA port) 1 0 ≠ 2 then .next s
  else
    match peerRequest s site pkg r with
    | (s1, some (v, st)) =>
      .next { s1 with outbox := s1.outbox ++ [.peerRsp pkg r.srcSite r.srcCore r.seq st (BitVec.ofNat 256 v)] }
    | (s1, none) => .next s1

/-- PEER_REQUEST_TIMEOUT (R142): 256 microseconds have passed. -/
def execPeerRequestTimeout (w : WRef) (tag : BitVec 16) (s : State) : Out :=
  .next (match engineOp s w tag with
    | some e => timeoutEngine s e
    | none => timeoutOp s w tag fun x => x.tr.kind == .peer)

/-- TCTL.SRC (R146). -/
def State.timeSrc (s : State) : Nat := s.regF tctlA 2 0
/-- Change LOCK; a change is reported (R136). -/
def setLock (s : State) (b : Bool) : State :=
  if (s.reg tstatA).getLsbD 0 = b then s else raiseEvt (s.setRegF tstatA 0 0 b.toNat) 7
/-- Change what the servo holds. -/
def setPtp (s : State) (f : Ptp → Ptp) : State := { s with hub := { s.hub with ptp := f s.hub.ptp } }
/-- Every die releases the grids whose not-before time its copy of device time has reached (R149): where a step moves device time past
that time, at the step. -/
def releaseDue (s : State) : State :=
  let due (g : Grid) (site : Nat) : Bool :=
    g.st == .running && (FMap.find g.ranges site).isSome && decide (g.notBefore ≤ (s.timeAt site).toNat)
  let mark (g : Grid) : Grid :=
    { g with ready := (List.range 48).foldl (fun b x => if due g x then b ||| (1 : BitVec 48) <<< x else b) g.ready }
  { s with hub := { s.hub with grids := s.hub.grids.map fun e => (e.1, mark e.2) } }
/-- Device time is set, by a step or by TSET (R148, R149). -/
def setTime (s : State) (t : DWord) : State := releaseDue { s with time := t }

/-- The servo has measured an offset of device time from its source (R148): it steps device time, or slews it at a rate of up to 500
ppm toward the source, of which the spec gives the bound and the model leaves the rest free (log 8); 16 offsets in a row
under 1 microsecond lock. OFFSET keeps the low 32 bits of an offset that does not fit (log 20, R148). -/
def servo (s : State) (off : Int) : State :=
  let behind := decide (off < 0)
  let step := decide (1000000 < off.natAbs) && (behind || (s.reg tctlA).getLsbD 3)
  let ppb : Int := s.any 0 % 500001
  let rate : Int := if step then s.hub.ptp.rate else if behind then ppb else if off = 0 then 0 else -ppb
  let good := if off.natAbs < 1000 then s.hub.ptp.good + 1 else 0
  let s1 := (setPtp s fun p => { p with good := good, rate := rate }).fresh
  let s2 := if step then setTime s1 (s.time - BitVec.ofInt 64 off) else s1
  let s3 := (s2.setRegF tstatA 63 32 (BitVec.ofInt 32 off).toNat).setRegF tstatA 1 1 0
  if 16 ≤ good then setLock s3 true else s3

/-- Whether a PTP message is one the slave clock takes (R147): of the domain of TCTL, from the master it has selected. -/
def fromMaster (s : State) (m : PtpMsg) : Bool :=
  s.timeSrc == 1 && m.domain == s.regF tctlA 23 16 && s.hub.ptp.master == some m.master

/-- PTP_SYNC (R147, R148): the value is the time of arrival less the master's timestamp; that of a two-step master follows. -/
def execPtpSync (m : PtpMsg) (twoStep : Bool) (s : State) : Out :=
  .next (if !fromMaster s m then s
    else
      let s1 := setPtp s fun p => { p with lastSeen := s.ticks, pendingSync := if twoStep then some m.value else none }
      if twoStep then s1.setRegF tstatA 1 1 0 else servo s1 (m.value - s.hub.ptp.delay))

/-- PTP_FOLLOW_UP (R147): the precise timestamp of the Sync that awaits it. -/
def execPtpFollowUp (m : PtpMsg) (s : State) : Out :=
  .next (if fromMaster s m && s.hub.ptp.pendingSync.isSome then
      servo (setPtp s fun p => { p with pendingSync := none }) (m.value - s.hub.ptp.delay)
    else s)

/-- PTP_DELAY_RESP (R147): the mean path delay. -/
def execPtpDelayResp (m : PtpMsg) (s : State) : Out :=
  .next (if fromMaster s m then setPtp s fun p => { p with delay := m.value } else s)

/-- PTP_DELAY_REQ (R147). -/
def execPtpDelayReq (s : State) : Out :=
  .next (if s.timeSrc = 1 then { s with outbox := s.outbox ++ [.delayReq s.time] } else s)

/-- PTP_ANNOUNCE (R147): the best master of the domain is the one of the lowest rank; a source that is lost is one no longer (log 16). -/
def execPtpAnnounce (rank : Nat) (domain : Nat) (s : State) : Out :=
  .next (if s.timeSrc = 1 && domain = s.regF tctlA 23 16 then
      setPtp s fun p => { p with master := some (match p.master with | some m => min m rank | none => rank) }
    else s)

/-- By how much device time is ahead of the nearest whole second (R146). -/
def secondOff (s : State) : Int :=
  let r := s.time.toNat % 1000000000
  if r ≤ 500000000 then (r : Int) else (r : Int) - 1000000000
/-- A rate within the 500 ppm by which the servo may slew device time (R148), in parts per billion. -/
def within500ppm (rate : Int) : Int := max (-500000) (min 500000 rate)
/-- PPS_EDGE (R146, R148): the edge aligns the second. Under PPS10 the frequency is that of the 10 MHz input, which runs ahead of the
device's own clock by `ref` parts per billion, and the slew comes on top of it (log 8). -/
def execPpsEdge (ref : Int) (s : State) : Out :=
  let s1 := (setPtp s fun p => { p with lastPps := s.ticks }).setRegF tstatA 2 2 1
  .next (if s.timeSrc = 2 then servo s1 (secondOff s)
    else if s.timeSrc = 3 then
      setPtp (servo (setPtp s1 fun p => { p with rate := 0 }) (secondOff s)) fun p => { p with rate := within500ppm (p.rate + ref) }
    else s1)

/-- PPSSEEN_EXPIRE (R148): 1.5 seconds. -/
def execPpsseenExpire (s : State) : Out :=
  .next (if s.hub.ptp.lastPps + 2850000000 ≤ s.ticks then s.setRegF tstatA 2 2 0 else s)

/-- TIME_SOURCE_LOSS (R148): 2 seconds without the source; the rate stays, and a new master is to be selected. -/
def execTimeSourceLoss (s : State) : Out :=
  let last := if s.timeSrc = 1 then s.hub.ptp.lastSeen else s.hub.ptp.lastPps
  .next (if s.timeSrc ≠ 0 && decide (last + 3800000000 ≤ s.ticks) then
      setPtp ((setLock s false).setRegF tstatA 1 1 1) fun p => { p with good := 0, master := none }
    else s)

/-- ARP_REPLY (R147). -/
def execArpReply (ip : BitVec 32) (s : State) : Out :=
  .next (if ip.toNat = s.regF tctlA 63 32 then { s with outbox := s.outbox ++ [.arp ip] } else s)

/-- TSET_WRITE (R123, R148, R149): only 8 bytes at once act. -/
def execTsetWrite (val : BitVec 64) (wide : Bool) (s : State) : Out := .next (if wide && !s.asleep then setTime s val else s)

/-- TCTL_WRITE (R146, R148). -/
def execTctlWrite (val : BitVec 64) (s : State) : Out :=
  let old := s.reg tctlA
  let src := if getF val 2 0 < 4 then getF val 2 0 else getF old 2 0
  let dom := if getF val 23 16 < 128 then getF val 23 16 else getF old 23 16
  let v := setF (setF (setF (setF old 63 32 (getF val 63 32)) 23 16 dom) 3 3 (getF val 3 3)) 2 0 src
  let s0 := s.setReg tctlA v
  let s1 := if dom = getF old 23 16 then s0 else setPtp s0 fun p => { p with master := none, pendingSync := none }
  .next (if s.asleep then s
    else if src = getF old 2 0 then s1
    else
      let s2 := (setLock s1 false).setRegF tstatA 1 1 0
      let s3 := setPtp s2 fun p =>
        { p with good := 0, pendingSync := none, master := none, rate := 0, lastSeen := s.ticks, lastPps := s.ticks }
      if src = 0 then s3.setRegF tstatA 63 32 0 else s3)

end Sys2Proof.Machine
end

