-- ==== Sys2Proof/Machine/EvPower.lean ====
section
/-! DEFINITION. Package power, supply and cooling, power phases and throttling of matrix issue (R36 to R41, R215 to R221). -/
namespace Sys2Proof.Machine

/-- The limit that a write of PKGPWR.LIMIT sets (R39). -/
def clampLimit (x : Nat) : Nat := if 22000 < x then 22000 else if x < 12000 then 12000 else x

/-- PKGPWR_LIMIT_WRITE (R39): the field changes at once, the limit in force at the start of the next window. -/
def execPkgpwrLimitWrite (val : BitVec 64) (s : State) : Out :=
  .next (s.setRegF pkgpwrA 14 0 (clampLimit (val.toNat % 2 ^ 15)))

/-- The cap of the next window (R37): the cap in force, the limit and the average of the window that ends. -/
def nextCap (cap : Option Nat) (limit avg : Nat) : Option Nat :=
  if limit < avg then
    (match cap with
     | none => some (max 1 (16 * limit / avg))
     | some k => some (max 1 (k - 1)))
  else
    (match cap with
     | none => none
     | some k => if 16 ≤ k + 1 then none else some (k + 1))

/-- POWER_WINDOW_END (R37 to R39): the average of the window is noted, a capped window is counted, and the cap and the
limit of the next window come into force. -/
def execPowerWindowEnd (avg : BitVec 16) (s : State) : Out :=
  let s1 := s.setRegF pkgpwrA 47 32 avg.toNat
  let s2 := if s.hub.cap.isSome then s1.setRegF pkgpwrA 63 48 (s.regF pkgpwrA 63 48 + 1) else s1
  .next { s2 with hub := { s2.hub with cap := nextCap s.hub.cap s.hub.limit avg.toNat, limit := s.regF pkgpwrA 14 0 } }

/-- SUPPLY_EVENT (R40): below 44 V for more than 10 microseconds. -/
def execSupplyEvent (milliVolt micros : Nat) (s : State) : Out :=
  .next (if milliVolt < 44000 && 10 < micros then raiseEvt { s with hub := { s.hub with supply := true } } 3 else s)

/-- SUPPLY_RESTORE (R40): above 46 V. -/
def execSupplyRestore (milliVolt : Nat) (s : State) : Out :=
  .next (if 46000 < milliVolt then { s with hub := { s.hub with supply := false } } else s)

/-- THERMAL_WARNING (R41): at or above 105 degrees matrix issue on the die is halved. -/
def execThermalWarning (site temp : Nat) (s : State) : Out :=
  .next (if 105 ≤ temp && site < 48 then raiseEvt (s.setDie site { s.die site with half := true }) 2 else s)

/-- THERMAL_STOP (R41): at or above 115 degrees all issue on the die stops. -/
def execThermalStop (site temp : Nat) (s : State) : Out :=
  .next (if 115 ≤ temp && site < 48 then raiseEvt (s.setDie site { s.die site with stop := true }) 2 else s)

/-- THERMAL_RESTORE (R41): below 100 degrees either response ends. -/
def execThermalRestore (site temp : Nat) (s : State) : Out :=
  .next (if temp < 100 && site < 48 then s.setDie site { s.die site with half := false, stop := false } else s)

/-- The activity window of a core ends (R219, R221): where the activity of the window exceeds its limit, the core is throttled for 8192
clk, VIOL rises, and so does the THROT count of every warp that issued matrix work in the window. -/
def windowEnd (s : State) (site core : Nat) : State :=
  let c := s.core site core
  if c.clk < 1024 * (c.win + 1) then s
  else
    let act := min c.busy 1024
    let limit := match c.winClass with | some k => 128 * (k + 1) | none => 128
    let c1 := { c with win := c.win + 1, busy := min (c.busyTo - 1024 * (c.win + 1)) 1024, actLast := act / 16,
                       winCls := none, matWarps := 0, matGone := [] }
    if act ≤ limit then s.setCore site core c1
    else
      let s1 := s.setCore site core { c1 with throttle := 1024 * (c.win + 1) + 8192, viol := satAdd 16 c.viol 1 }
      let s2 := (List.range 64).foldl (fun t k =>
        if c.matWarps.getLsbD k then
          let w := t.warp site core k
          t.setWarp site core k { w with throt := BitVec.ofNat 32 (satAdd 32 w.throt.toNat 1) }
        else t) s1
      c.matGone.foldl (fun t g =>
        if (FMap.find t.hub.grids g).isSome then t.setGrid g { t.grid g with throt := satAdd 32 (t.grid g).throt 1 } else t) s2
/-- ACTIVITY_WINDOW_END (R219, R221). -/
def execActivityWindowEnd (site core : Nat) (s : State) : Out := .next (windowEnd s site core)

/-- THROTTLE_END (R219): the throttle whose time has come is over. -/
def execThrottleEnd (site core : Nat) (s : State) : Out :=
  let c := s.core site core
  .next (if c.throttle ≤ c.clk then s.setCore site core { c with throttle := 0 } else s)

/-- A class B instruction that waits at a pipe presents itself again (R206, R318, R487). -/
def matPresent (s : State) (m : MatOp) : State :=
  let t := actMat s m
  if !t.pairReady then s
  else
    match matRun t m with
    | .next u => { (if u.wref m.w = s.wref m.w then u else noteStarted u (s.wref m.w).team) with cur := s.cur }
    | _ => s
/-- What waits at a pipe and could be accepted: first that of the slot which did not issue last (R236). -/
def matNext (s : State) (site core p : Nat) : Option MatOp :=
  ([false, true].filterMap fun one => (s.core site core).matWait p one).foldl (fun acc m =>
    if !matMay s site core m then acc
    else match acc with | none => some m | some o => if (s.wref m.w).lastOne == m.one then some o else some m) none

/-- MATRIX_ACCEPT (R206, R487): the unit accepts what waits at a pipe once its first entries are complete. -/
def execMatrixAccept (site core pipe : Nat) (s : State) : Out :=
  .next (match matNext s site core pipe with
    | some m => if matWins s site core pipe then matPresent s m else s
    | none => s)

/-- GRANTED_START (R218): at a record's Tg the instructions that wait at the pipes for it may issue. -/
def execGrantedStart (site core : Nat) (s : State) : Out :=
  let c := s.core site core
  let again (t : State) (p : Nat) : State := match matNext t site core p with | some m => matPresent t m | none => t
  match c.phase with
  | some p => .next (if p.tg ≤ c.clk then again (again s 0) 1 else s)
  | none => .next s

/-- MATRIX_UNIT_FINISH (R487, R490): the oldest accepted instruction goes on, and leaves the queue when it has finished. -/
def execMatrixUnitFinish (site core : Nat) (s : State) : Out := .next (matAdvance s site core 66)

end Sys2Proof.Machine
end

