-- ==== Sys2Proof/Machine/EvSched.lean ====
section
/-! DEFINITION. Events from launch packet to issue slot: the GCP, the die dispatchers, the group scheduler and the runs of a
warp (R149 to R178, R230 to R234, R395, R396). -/
namespace Sys2Proof.Machine

/-- Whether a grid came from LAUNCH, or replaces one that did: its PTROOT is its parent's (R152, R176). -/
def Grid.launched (g : Grid) : Bool := g.q.isNone && g.src.isSome
/-- A wait-list entry of a packet (R150). -/
def Grid.wait (g : Grid) (i : Nat) : Nat := fieldAt g.pkt (0x38 + 8 * i) 8
/-- DEADLINE of a grid (R150). -/
def Grid.deadline (g : Grid) : Nat := fieldAt g.pkt 0x20 8
/-- FALLBACK of a grid (R150). -/
def Grid.fallback (g : Grid) : Nat := fieldAt g.pkt 0x28 8
/-- KDESC of a grid (R150). -/
def Grid.kdesc (g : Grid) : Nat := fieldAt g.pkt 0 8

/-- Whether a field of a packet is outside the range R150 gives (R152). -/
def packetBad (g : Grid) : Bool :=
  let f (o n : Nat) : Nat := fieldAt g.pkt o n
  let out (x lo hi : Nat) : Bool := decide (x < lo) || decide (hi < x)
  decide (2 ^ 55 ≤ g.kdesc) || g.kdesc % 256 != 0 || out (f 8 4) 1 1048576 || out (f 0xC 2) 1 65535 || out (f 0xE 2) 1 65535 ||
    out (f 0x10 1) 1 32 || out (f 0x11 1) 1 48 || decide (64 ≤ f 0x12 1) || f 0x13 1 != 0 || decide (522240 < f 0x14 4) ||
    f 0x68 4 % 4096 != 0 || f 0x6C 4 != 0 || (!g.launched && f 0x70 8 % 2 ^ 15 != 0) || f 0x78 2 != 1 || f 0x7A 6 != 0 ||
    decide (1048576 < g.total) || (g.isFallback && g.fallback != 0)

/-- Whether the GCP can read `32 n` bytes through a grid's page tables (R152); a fallback packet must name no fallback. One whose
address is a multiple of 32 alone is read too (log 20, R150). -/
def gcpReads (s : State) (g : Grid) (va n : Nat) : State × Bool :=
  match vmLoads s gcpWho g.root va 32 n with
  | (s1, .ok v) => (s1, n != 4 || v / 2 ^ 320 % 2 ^ 64 == 0)
  | (s1, _) => (s1, false)
/-- Whether the GCP refuses a packet with BADPKT (R152). -/
def refused (s : State) (g : Grid) : State × Bool :=
  let offRoot := g.sec && g.q.isSome && !(secAt s g.root).1
  if packetBad g || offRoot then (s, true)
  else
    let ranges := (g.kdesc, 8) :: ((List.range 4).filterMap fun i => if g.wait i = 0 then none else some (g.wait i, 1)) ++
      if g.fallback = 0 then [] else [(g.fallback, 4)]
    ranges.foldl (fun (acc : State × Bool) e =>
      if acc.2 then acc else match gcpReads acc.1 g e.1 e.2 with | (t, ok) => (t, !ok)) (s, false)

/-- A grid's final status is decided (R165); it is written by an event of its own. -/
def decideGrid (s : State) (id status : Nat) : State := s.setGrid id { s.grid id with st := .done, status := status }
/-- The STATUS values of a grid's wait list (R153, R156); an object that cannot be read any more counts as one that failed (log 20,
R156). -/
def waitStatus (s : State) (g : Grid) : State × List Nat :=
  (List.range 4).foldl (fun (acc : State × List Nat) i =>
    if g.wait i = 0 then acc
    else match vmLoad acc.1 gcpWho g.root (g.wait i) 2 with
      | (t, .ok v) => (t, acc.2 ++ [v])
      | (t, _) => (t, acc.2 ++ [4])) (s, [])

/-- WAITLIST_RESOLVE (R152, R155, R156): a held packet, once it has passed the checks of R152, stays held while an object is
pending, ends with DEPFAIL, or goes to admission. -/
def execWaitlistResolve (g : Nat) (s : State) : Out :=
  let x := s.grid g
  if x.st ≠ .waiting then .next s
  else
    match if x.checked then (s, false) else refused s x with
    | (s1, true) => .next (decideGrid s1 g 4)
    | (s0, false) =>
      let s1 := s0.setGrid g { s0.grid g with checked := true }
      let (s2, l) := waitStatus s1 x
      if l.contains 0 then .next s2
      else if x.failDep && l.any (fun v => v != 1 && v != 2) then .next (decideGrid s2 g 5)
      else .next (s2.setGrid g { s2.grid g with st := .resolved })

/-- Teams of a grid that a core takes at most, or a partner pair under FAR (R158). -/
def unitTeams (g : Grid) : Nat :=
  let m := if g.redun = 1 then 2 else 1
  let kw := 32 / (m * ((g.teamSize + 1) / 2))
  let kb := 240 / (m * g.teamSize * g.blocks)
  let ks := if g.scratch = 0 then 64 else 512 / ((g.scratch + 1023) / 1024 + 2)
  min kw (min kb ks)
/-- Units of a die that can take teams of a grid (R158): enabled positions, or complete partner pairs under FAR. -/
def dieUnits (s : State) (site : Nat) (g : Grid) : Nat :=
  if g.redun = 2 then ((List.range 24).filter fun k => s.coreOn site (2 * k) && s.coreOn site (2 * k + 1)).length
  else ((List.range 48).filter fun c => s.coreOn site c).length
/-- The dies that are UP in ascending logical order (R158). -/
def upByLogical (s : State) : List Nat :=
  (List.range 48).filterMap fun l => (List.range 48).find? fun x => s.dieUp x && s.logical x == l
/-- The ranges of an admission (R158, R159): site, first and end team. -/
def splitRanges (total weight : Nat) : Nat → List (Nat × Nat) → List (Nat × Nat × Nat)
  | _, [] => []
  | before, (site, wt) :: l =>
    (site, total * before / weight, total * (before + wt) / weight) :: splitRanges total weight (before + wt) l

/-- Whether an earlier LAUNCH of the same warp still awaits admission (R176); a fallback is no LAUNCH. -/
def launchedBefore (s : State) (g : Nat) : Bool :=
  (s.grid g).src.isSome && !(s.grid g).isFallback && s.hub.grids.any fun e =>
    decide (e.1 < g) && e.2.src == (s.grid g).src && (e.2.st == .waiting || e.2.st == .resolved) && !e.2.isFallback

/-- GRID_ADMIT (R149, R158 to R160). -/
def execGridAdmit (g : Nat) (s : State) : Out :=
  let x := s.grid g
  if x.st ≠ .resolved || launchedBefore s g then .next s
  else
    let units := (upByLogical s).map fun site => (site, dieUnits s site x)
    let far := if x.redun = 2 then 2 else 1
    let weight := (units.map fun e => far * e.2).sum
    let k := unitTeams x
    if k = 0 || weight = 0 then .next (decideGrid s g 3)
    else
      let ranges := splitRanges x.total weight 0 (units.map fun e => (e.1, far * e.2))
      let small (e : Nat × Nat × Nat) : Bool := decide (k * dieUnits s e.1 x < e.2.2 - e.2.1)
      if x.coop && ranges.any small then .next (decideGrid s g 3)
      else
        let mine := ranges.filter fun e => decide (e.2.1 < e.2.2)
        let late := x.notBefore != 0 && decide (x.notBefore < s.time.toNat)
        let y := { x with st := .running, late := late, ready := if x.notBefore = 0 || late then BitVec.allOnes 48 else 0,
                          ranges := mine.foldl (fun m e => FMap.set m e.1 e.2) [] }
        .next (mine.foldl (fun t e => let d := t.die e.1; t.setDie e.1 { d with grids := d.grids ++ [g] }) (s.setGrid g y))

/-- NOTBEFORE_RELEASE (R149): a die's copy of device time reads the not-before time or more. -/
def execNotbeforeRelease (site g : Nat) (s : State) : Out :=
  let x := s.grid g
  .next (if x.st == .running && (FMap.find x.ranges site).isSome && decide (x.notBefore ≤ (s.timeAt site).toNat) then
      s.setGrid g { x with ready := x.ready ||| 1 <<< site }
    else s)

/-- The unplaced part of a grid's range on a die: next and end team (R161, R165, R166). -/
def unplaced (g : Grid) (site : Nat) : Option (Nat × Nat) :=
  match FMap.find g.ranges site with
  | some (a, b) => if a < b && !g.fault && !g.missed && g.st == .running then some (a, b) else none
  | none => none
/-- The grids of a die in the dispatcher's order (R161). -/
def dispatchOrder (s : State) (site : Nat) : List Nat :=
  [3, 2, 1, 0].flatMap fun p => (s.die site).grids.filter fun g => (s.grid g).prio == p
/-- Whether a cooperative grid keeps the teams of a grid from being placed on a die (R164). -/
def coopHolds (s : State) (site g : Nat) : Bool :=
  let l := (s.die site).grids
  let x := s.grid g
  l.any fun c =>
    let y := s.grid c
    c != g && y.coop && (unplaced y site).isSome && decide (x.prio ≤ y.prio) &&
      !(x.coop && x.prio == y.prio && decide (l.findIdx (fun k => k == g) < l.findIdx fun k => k == c))

/-- Free warp slots of a parity, in ascending order. -/
def freeSlots (s : State) (site core par : Nat) : List Nat :=
  ((List.range 32).map fun i => 2 * i + par).filter fun k => !(s.warp site core k).resident
/-- Blocks of a core that can still be pinned, the reserve excluded (R162). -/
def pinnable (s : State) (site core : Nat) : Nat :=
  240 - ((s.core site core).places.filter fun e => e.2.pinned).length
/-- Granules of a team with both guards (R158, R275). -/
def granules (g : Grid) : Nat := (g.scratch + 1023) / 1024 + 2
/-- Whether granules are free on a core. -/
def runFree (c : Core) (first n : Nat) : Bool :=
  decide (first + n ≤ 512) && !c.alloc.any fun a => decide (first < a.first + a.n) && decide (a.first < first + n)
/-- Whether a core may hold teams of a world (R117, R162): its own, or any while it holds no team. -/
def worldFits (s : State) (site core : Nat) (sec : Bool) : Bool :=
  (s.core site core).world == some sec ||
    !s.hub.teams.any fun e =>
      e.2.site == site && (e.2.core == core || (e.2.core == (core ^^^ 1) && (s.grid e.2.g).redun == 2)) &&
        (e.2.st == .running || e.2.st == .ended)

/-- The slots of a team's warps and their shadows (R162). -/
def teamSlots (s : State) (site core : Nat) (g : Grid) : List (Nat × Option Nat) :=
  let slots (par : Nat) : List Nat :=
    let l := freeSlots s site core par
    if g.redun = 2 then l.filter fun k => (freeSlots s site (core ^^^ 1) par).contains k else l
  (List.range g.teamSize).filterMap fun j =>
    let l := slots (j % 2)
    if g.redun = 1 then
      match l[2 * (j / 2)]?, l[2 * (j / 2) + 1]? with
      | some a, some b => some (a, some b)
      | _, _ => none
    else
      match l[j / 2]? with
      | some a => some (a, if g.redun = 2 then some a else none)
      | none => none

/-- Where a team fits a core (R162): the first granule of its allocation, which a restored team must find free at `old`. -/
def coreFits (s : State) (site core : Nat) (g : Grid) (blocks : Nat) (old : Option Nat) : Option Nat :=
  let on := s.coreOn site core && worldFits s site core g.sec &&
    (g.redun != 2 || (s.coreOn site (core ^^^ 1) && worldFits s site (core ^^^ 1) g.sec && decide (blocks ≤ pinnable s site (core ^^^ 1))))
  let need := if g.redun = 1 then 2 * blocks else blocks
  if !on || (teamSlots s site core g).length != g.teamSize || pinnable s site core < need then none
  else
    match old with
    | some a => if runFree (s.core site core) a (granules g) then some a else none
    | none => (List.range 512).find? fun a => runFree (s.core site core) a (granules g)

/-- The least-loaded core, of those that `only` names, that a team fits, with its first granule (R161). -/
def bestCore (s : State) (site : Nat) (g : Grid) (blocks : Nat) (old : Option Nat) (only : Nat → Bool) : Option (Nat × Nat) :=
  let load (c : Nat) : Nat := ((List.range 64).filter fun k => (s.warp site c k).resident).length
  (List.range 48).foldl (fun (best : Option (Nat × Nat)) c =>
    match if only c then coreFits s site c g blocks old else none with
    | none => best
    | some a => (match best with | some b => if load c < load b.1 then some (c, a) else best | none => some (c, a))) none

/-- A core that last held the other world is zeroed before a team is placed on it, and writes nothing back (R117). -/
def switchWorld (s : State) (site core : Nat) (sec : Bool) : State :=
  let c := s.core site core
  if c.world = some sec then s
  else
    let base := winAddr site core + 0x100000
    let c1 := { c with world := some sec, words := [], places := [], l1 := [], queues := [], matQ := [], matWait0 := none,
                       matWait1 := none, matNext0 := none, matNext1 := none, rbWait := [], loan := none, evicts := [] }
    { s.setCore site core c1 with mem := s.mem.filter fun x => !(decide (base ≤ x.1) && decide (x.1 < base + 0x80000)) }

/-- Whether a kernel descriptor is faulty (R396). -/
def kdBad (d : BitVec 2048) : Bool :=
  let f (o n : Nat) : Nat := fieldAt d o n
  f 0 4 != 1 || f 0xD 3 != 0 || f 6 1 / 32 != 0 || f 6 1 / 4 % 4 != 0 || f 0x3C 196 != 0 || f 0x10 8 % 128 != 0 ||
    f 0x18 8 % 128 != 0 || f 0x20 8 % 128 != 0 || f 0x28 4 == 0 || decide (2 ^ 25 < f 0x28 4) || decide (2 ^ 26 < f 0x2C 4) ||
    f 4 1 == 0 || decide (32 < f 4 1) || f 5 1 == 0 || decide (48 < f 5 1) || decide (522240 < f 8 4) ||
    decide (f 0x28 4 ≤ f 0x34 4) || decide (f 0x28 4 ≤ f 0x38 4) ||
    !(f 7 1 == 0xFF || (f 7 1 % 2 == 0 && decide (f 7 1 ≤ 62))) || !(f 0xC 1 == 0xFF || decide (f 0xC 1 ≤ 61))

/-- What a read of a kernel descriptor gives: its bytes, nothing, or a page fault that keeps the team unplaced (R396). -/
inductive KdRead where
  | ok (d : BitVec 2048)
  | failed
  | hold

/-- The words of a kernel descriptor that were written while its grid was admitted are undefined (R397). -/
def spoiltKd (s : State) (g : Grid) (t : Tr) (v : Nat) : State × Nat :=
  let hit (i : Nat) : Bool := kernelWritten s g { t with pa := t.pa + 4 * i } 4
  let word (i : Nat) : Nat := if hit i then s.any i % 2 ^ 32 else v / 2 ^ (32 * i) % 2 ^ 32
  if (List.range 64).any hit then (s.fresh, wordsNat ((List.range 64).map fun i => BitVec.ofNat 32 (word i))) else (s, v)

/-- The dispatcher reads a grid's kernel descriptor (R396): a page fault makes or merges into a record without a waiter, or stalls
(R266). -/
def readKd (s : State) (site gid : Nat) : State × KdRead :=
  let g := s.grid gid
  let w := worldNo g.sec
  match (s.die site).kdWait.find? fun x => x.g == gid with
  | some x => if x.killed then (s, .failed) else (s, .hold)
  | none =>
    let who := dieWho site 52 g.sec
    match vmLoads s who g.root g.kdesc 32 8 with
    | (s1, .ok v) =>
      (match checkVa s1 site none g.root g.sec (BitVec.ofNat 64 g.kdesc) 4 .load with
       | (s2, .ok t) => let x := spoiltKd s2 g t v; (x.1, .ok (BitVec.ofNat 2048 x.2))
       | (s2, _) => (s2, .ok (BitVec.ofNat 2048 v)))
    | (s1, .page reason level) =>
      let q := (s1.die site).fq w
      let (s2, n) := match q.recs.find? fun r => r.root == g.root && r.va.toNat / 2 ^ 19 == g.kdesc / 2 ^ 19 with
        | some r => (s1, r.seq)
        | none => if canRecord s1 site w then newRecord s1 site w g.kdesc g.root reason level 0 52 []
                  else
                    let x : Stall := { who := { site := site, core := 52, slot := 0 }, va := g.kdesc, lanes := 0, root := g.root, flags := 0, kd := some gid }
                    ((s1.setDie site ((s1.die site).setFq w { q with stalled := q.stalled ++ [x] })).bumpReg (fqtailA site w) 63 48 1, 0)
      let d := s2.die site
      (s2.setDie site { d with kdWait := d.kdWait ++ [{ g := gid, world := w, seq := n, killed := false }] }, .hold)
    | (s1, _) => (s1, .failed)

/-- Write a register pair's or triple's words into new scalar registers. -/
def putRegs (m : FMap Word) (k : Nat) (l : List Nat) : FMap Word :=
  (List.range l.length).foldl (fun x i => if k + i < 63 then FMap.put 0 x (k + i) (BitVec.ofNat 32 (l.getD i 0)) else x) m
/-- A warp as the dispatcher starts it (R163, R395). -/
def startWarp (g : Grid) (tm : Team) (id wid clk : Nat) (shadow : Bool) (mate : Option WRef) : Warp :=
  let args := fieldAt g.pkt 0x58 8
  let (x, y, z) := g.coords tm.t
  let ar := fieldAt tm.kd 7 1
  let cr := fieldAt tm.kd 0xC 1
  let r1 := if ar = 0xFF then [] else putRegs [] ar [args, args / 2 ^ 32]
  let r2 := if cr = 0xFF then r1 else putRegs r1 cr [x, y, z]
  { Warp.none with resident := true, team := id, wid := wid, shadow := shadow, mate := mate, s := if tm.kdOk then r2 else [],
                   pc := BitVec.ofNat 32 tm.entry, startWin := clk / 256, readySince := clk, sSince := clk }

/-- Forget what a slot's earlier warp left in the register cache and in the scheduler. -/
def clearSlot (s : State) (r : WRef) : State :=
  let c := s.core r.site r.core
  let ps := c.places.map fun (e : Nat × Place) => (e.1, if e.2.slot = r.slot then { e.2 with valid := false, pinned := false } else e.2)
  s.setCore r.site r.core { c with
    places := ps, lastSel := FMap.del (FMap.del c.lastSel r.slot) (64 + r.slot), evicts := c.evicts.filter fun e => e.1 / 64 != r.slot }

/-- The warps of a team in the slots R162 gives them: wid, leader, shadow. -/
def teamRefs (site core : Nat) (g : Grid) (slots : List (Nat × Option Nat)) : List (Nat × WRef × Option WRef) :=
  let far := if g.redun = 2 then core ^^^ 1 else core
  (List.range slots.length).map fun j =>
    let e := slots.getD j (0, none)
    (j, { site := site, core := core, slot := e.1 }, e.2.map fun k => { site := site, core := far, slot := k })

/-- The scratchpad allocation of a team on a core, zero-filled with its guards (R163, R275). -/
def takeScratch (s : State) (site core id first : Nat) (g : Grid) : State :=
  let c := s.core site core
  let base := winAddr site core + 0x100000 + 1024 * first
  let n := granules g
  { s.setCore site core { c with alloc := c.alloc ++ [{ first := first, n := n, team := id }] } with
    mem := s.mem.filter fun x => !(decide (base ≤ x.1) && decide (x.1 < base + 1024 * n)) }

/-- Every warp of a team whose descriptor is faulty traps with ILLEGAL before its first instruction (R340, R396). -/
def faultyKd (s : State) (id : Nat) : State :=
  let t := s.team id
  let g := s.grid t.g
  let go (u : State) (r : WRef) : State :=
    let w := writeHandler (u.wref r) (scalarTrap 1 0 0 [])
    (vmStores (u.setWref r w) (dieWho r.site 52 g.sec) g.root (imageVa g t w.wid w.shadow + 0x260) 4 (wordsNat (handlerWords w)) 17).1
  match t.slots with
  | [] => s
  | k :: _ => fatalTrap ((teamWarps s t).foldl go s) { site := t.site, core := t.core, slot := k }

/-- Place team `t` of a grid on a core (R117, R161 to R163, R177). -/
def placeTeam (s : State) (site core gid t first : Nat) (kd : Option (BitVec 2048)) : State :=
  let g := s.grid gid
  let id := s.hub.nextTeam
  let slots := teamSlots s site core g
  let refs := teamRefs site core g slots
  let cores := if g.redun = 2 then [core, core ^^^ 1] else [core]
  let s1 := cores.foldl (fun u c => acquireAct (switchWorld u site c g.sec) site c 4) s
  let s2 := takeScratch s1 site core id first g
  let ok := match kd with | some d => !kdBad d | none => false
  let tm : Team := { Team.none with
    g := gid, t := t, site := site, core := core, slots := slots.map fun e => e.1, shSlots := slots.filterMap fun e => e.2,
    gran := first + 1, ngran := granules g - 2, st := .running, kd := kd.getD 0, kdOk := ok }
  let s3 := { s2 with hub := { s2.hub with teams := FMap.set s2.hub.teams id tm, nextTeam := id + 1 } }
  let s4 := s3.setGrid gid { g with ranges := FMap.set g.ranges site (t + 1, match FMap.find g.ranges site with | some e => e.2 | none => 0) }
  let put (u : State) (wid : Nat) (r : WRef) (shadow : Bool) (mate : Option WRef) : State :=
    pinBlocks ((clearSlot u r).setWref r (startWarp g tm id wid (u.core r.site r.core).clk shadow mate)) r true (List.range g.blocks)
  let s5 := refs.foldl (fun u e =>
    let v := put u e.1 e.2.1 false e.2.2
    match e.2.2 with | some sh => put v e.1 sh true (some e.2.1) | none => v) s4
  if ok then s5 else faultyKd s5 id

/-- The first team of a grid that is to return to a die (R356). -/
def returnee (s : State) (site gid : Nat) : Option Nat :=
  (s.hub.teams.find? fun e => e.2.g == gid && e.2.site == site && e.2.st == .returning).map fun e => e.1
/-- Blocks that the warps of a saved team need pinned, as R162 counts them for one core of its grid's mode (R356). -/
def keptBlocks (g : Grid) (t : Team) : Nat :=
  let sum (l : List Warp) : Nat := l.foldl (fun n w => n + ((List.range 48).filter fun b => w.pinned.getLsbD b).length) 0
  let lead := sum (t.kept.filter fun w => !w.shadow)
  let shad := sum (t.kept.filter fun w => w.shadow)
  if g.redun = 1 then (lead + shad + 1) / 2 else max lead shad
/-- Whether a team holds render state (R353). -/
def rendersOn (s : State) (id : Nat) (t : Team) : Bool :=
  (s.core t.site t.core).claims.any (fun c => c.team == id) || t.kept.any fun w => w.prim.isSome || w.batch.isSome || w.binWait.isSome
/-- The core a saved team can return to, with the first granule of its allocation (R353, R356). -/
def returnCore (s : State) (site id : Nat) : Option (Nat × Nat) :=
  let t := s.team id
  let g := s.grid t.g
  bestCore s site g (keptBlocks g t) (some (t.gran - 1)) fun c =>
    if rendersOn s id t then c == t.core else t.target == 63 || c == t.target

/-- The first grid in the dispatcher's order whose next team can be placed (R161, R164, R396); the teams that return to the
die go ahead of their grid's unplaced ones (R356). -/
def placeFirst (s : State) (site : Nat) : List Nat → State
  | [] => s
  | gid :: l =>
    let g := s.grid gid
    match unplaced g site, returnee s site gid with
    | none, none => placeFirst s site l
    | _, some id => if (returnCore s site id).isSome then s else placeFirst s site l
    | some (t, _), none =>
      if !g.ready.getLsbD site || coopHolds s site gid then placeFirst s site l
      else
        match bestCore s site g (g.teamSize * g.blocks) none fun _ => true with
        | none => placeFirst s site l
        | some (c, first) =>
          match readKd s site gid with
          | (s1, .hold) => placeFirst s1 site l
          | (s1, .failed) => placeTeam s1 site c gid t first none
          | (s1, .ok d) => placeTeam s1 site c gid t first (some d)

/-- TEAM_PLACE (R161 to R164). -/
def execTeamPlace (site : Nat) (s : State) : Out := .next (if s.dieUp site then placeFirst s site (dispatchOrder s site) else s)

/-- Act for a warp's stream on behalf of the part: the turn of the instruction being executed is kept. -/
def actAs (s : State) (r : WRef) (k : State → Out) : Out :=
  match k { s with cur := { site := r.site, core := r.core, slot := r.slot, lane := none } } with
  | .next t => .next { t with cur := s.cur }
  | o => o

/-- A path whose run begins counts from 0 (R230). -/
def Path.begin (p : Path) : Path := { p with cnt := 0 }
/-- The lane state of a run that begins: every path counts from 0; with both slots LIVE the older issues first (R230, R236). -/
def beginRun (w : Warp) (e : RunEnt) (l : LaneCtx) : Warp :=
  let l1 := { l with s0 := l.s0.begin, s1 := l.s1.begin, stack := l.stack.map fun x => { x with cnt := 0 } }
  { w with lane := l1, running := some e, tWr := 0, haz := [], lastOne := !l1.oneOlder }
/-- Whether a slot is LIVE. -/
def LaneCtx.live (l : LaneCtx) : Bool := l.s0.st == .live || l.s1.st == .live

/-- RUN_START (R227, R230, R231, R233): for the warp that its pipe was given to. -/
def execRunStart (w : WRef) (s : State) : Out :=
  let x := s.wref w
  if !x.resident || (s.core w.site w.core).pipe (pipeOf w.slot) ≠ some w.slot then .next s
  else
    match x.running, x.queue with
    | some _, _ => .next s
    | none, [] => .next s
    | none, e :: q =>
      let y := { x with queue := q }
      let wake (p : Path) : Path := if p.st = .held then { p with st := .live } else p
      if e.resume then .next (s.setWref w (beginRun y e { x.lane with s0 := wake x.lane.s0, s1 := wake x.lane.s1 }))
      else if x.lane.s0.st == .empty && x.lane.s1.st == .empty && x.lane.stack.isEmpty then
        let p : Path := { st := .live, pc := e.pc, mask := ~~~x.exited, cnt := 0, age := x.lane.next }
        let l := if x.exited = BitVec.allOnes 32 then x.lane else { x.lane with s0 := p, next := x.lane.next + 1 }
        .next (s.setWref w (beginRun y e l))
      else
        match roleOf x with
        | .trail _ => (match trapHere x with | some t => .next (takeTrap (s.setWref w y) w (some (scalarTrap 2 0 0 [e.enq])) t) | none => .next s)
        | _ => actAs (s.setWref w y) w fun t => t.trap (scalarTrap 2 0 0 [e.enq])

/-- A warp that has reconverged leaves its slots EMPTY (R234). -/
def reconverged (w : Warp) : LaneCtx :=
  let l := w.lane
  let whole (p : Path) : Bool := p.st == .held && p.mask == ~~~w.exited
  if !l.stack.isEmpty then l
  else if whole l.s0 && l.s1.st == .empty then { l with s0 := Path.none }
  else if whole l.s1 && l.s0.st == .empty then { l with s1 := Path.none }
  else l

/-- RUN_END (R232, R234, R317, R345): no path is LIVE; results are written back, the pipe is free, a pair checks its lane state,
and the end is a reporting point. -/
def execRunEnd (w : WRef) (s : State) : Out :=
  let x := s.wref w
  if !x.resident || x.running.isNone || x.lane.live then .next s
  else
    actAs s w fun t =>
      t.checked true (laneSig t.curW.lane).toNat t.curW.pc.toNat fun u =>
        let y := u.curW
        let v := freePipe (u.setW { y with lane := reconverged y, running := none, haz := [] }) w
        v.reporting none false (.next v)

/-- Whether a warp is ready for its pipe (R168). -/
def laneReady (w : Warp) : Bool :=
  w.resident && w.park == .none && (if w.running.isSome then w.lane.live else !w.queue.isEmpty)
/-- Whether a warp may be selected for a scalar port (R168): one that a fault or a wait for register blocks parks issues
nothing; another wait is looked at again when the warp is selected. -/
def scalarReady (w : Warp) : Bool :=
  w.resident && (match w.park with | .fault _ _ _ => false | .rbget _ _ => false | _ => true)
/-- Whether pre-emption has stopped a warp's streams between instructions (R351): a trailing warp first catches up with its
leader and takes the trap that its leader has taken there, and a leader first ends the instruction whose match it waits for (R321). -/
def State.stopped (s : State) (w : Warp) : Bool :=
  match s.hub.pe with
  | none => false
  | some p =>
    p.teams.contains w.team &&
      (match roleOf w with
       | .alone => true
       | .lead sh => !(s.wref sh).sscb.any fun e => e.path == 4
       | .trail _ => !s.behind w false && !s.behind w true && (trapHere w).isNone)
/-- Whether a warp waits until every team of its cooperative grid that was saved is placed again (R356). -/
def State.awaits (s : State) (w : Warp) : Bool :=
  let t := s.team w.team
  (s.grid t.g).coop && s.hub.teams.any fun e => e.2.g == t.g && (e.2.st == .saved || e.2.st == .returning)
/-- Whether a warp's scalar stream may issue. -/
def State.scalarMay (s : State) (w : Warp) : Bool := scalarReady w && !s.stopped w && !s.awaits w
/-- Whether a warp may start a run: a handler's runs still do while its team is being saved (R351, log 17). -/
def State.laneMay (s : State) (w : Warp) : Bool :=
  laneReady w && !(s.stopped w && !(w.hflag && !w.queue.isEmpty)) && !s.awaits w
/-- The keys of R169 for a slot: priority, age class, latest selection, slot; the first in order is selected. -/
def selKey (s : State) (site core slot port : Nat) : List Nat :=
  let w := s.warp site core slot
  [3 - (s.gridOf w).prio, if (if port = 0 then w.oldest else w.sOldest) then 0 else w.startWin + 1, FMap.get 0 (s.core site core).lastSel (port + slot), slot]
/-- Lexicographic order. -/
def keyLt : List Nat → List Nat → Bool
  | a :: l, b :: m => decide (a < b) || (a == b && keyLt l m)
  | _, _ => false
/-- Put a slot into a list in the order of its keys. -/
def insertKey (k : Nat → List Nat) (x : Nat) : List Nat → List Nat
  | [] => [x]
  | y :: l => if keyLt (k x) (k y) then x :: y :: l else y :: insertKey k x l
/-- Slots in the order of R169. -/
def selOrder (s : State) (site core port : Nat) (l : List Nat) : List Nat :=
  l.foldl (fun acc x => insertKey (fun k => selKey s site core k port) x acc) []

/-- A slot has been selected for a port (R169). -/
def selected (s : State) (site core slot port : Nat) : State :=
  let c := s.core site core
  s.setCore site core { c with lastSel := FMap.set c.lastSel (port + slot) (c.selCtr + 1), selCtr := c.selCtr + 1 }
/-- Give a free pipe to a ready warp (R168 to R170); a run that a return from a trap or a restoration left LIVE begins anew
with it (R343, R353). -/
def givePipe (s : State) (site core p : Nat) : State :=
  let c := s.core site core
  if (c.pipe p).isSome then s
  else
    match selOrder s site core 0 (((List.range 32).map fun i => 2 * i + p).filter fun k => s.laneMay (s.warp site core k)) with
    | [] => s
    | k :: _ =>
      let s1 := selected s site core k 0
      let w := s1.warp site core k
      let w1 := match w.running with | some e => beginRun w e w.lane | none => w
      (s1.setCore site core ((s1.core site core).setPipe p (some k))).setWarp site core k { w1 with oldest := false, readySince := c.clk }

/-- The turns of the run that holds a pipe: both LIVE slots, the one that did not issue last first (R236). -/
def pipeTurns (s : State) (site core p : Nat) : List Turn :=
  match (s.core site core).pipe p with
  | none => []
  | some k =>
    let w := s.warp site core k
    let parked := match w.park with | .fault _ _ _ => true | _ => false
    if w.running.isNone || parked then []
    else ([!w.lastOne, w.lastOne].filter fun one => (w.lane.slot one).st == .live).map fun one => { site := site, core := core, slot := k, lane := some one }

/-- Device time in parts of a nanosecond since reset: the clocks that have passed, at 1.9 GHz, and what the servo's rate has added to
them (R148, log 8). -/
def timeParts (ticks : Nat) (drift : Int) : Int := ((ticks : Int) * 1000000000 + drift) * 10 / 19000000000
/-- Time passes at a core (R144, R148, R169, log 8): not past the end of its activity window, and device time and the clock that
timers count pass with the first core that holds a warp. -/
def passTime (s : State) (site core dt : Nat) : State :=
  let c := s.core site core
  let d := min dt (1024 * (c.win + 1) - c.clk)
  let first := match s.warps.find? fun e => e.2.resident with | some e => e.1 / 64 == coreKey site core | none => true
  let s1 := s.setCore site core { c with clk := c.clk + d, ports := 2 }
  if first then
    let p := s.hub.ptp
    let drift := p.drift + d * p.rate
    { s1 with ticks := s.ticks + d, time := s.time + BitVec.ofInt 64 (timeParts (s.ticks + d) drift - timeParts s.ticks p.drift),
              hub := { s1.hub with ptp := { p with drift := drift } } }
  else s1

/-- Whether nothing parks a warp that waits for a scalar port (R168); the turn of one whose instruction must wait notes that it was not
ready. -/
def portReady (w : Warp) : Bool := w.resident && w.park == .none
/-- The warps of a core that are not ready for their pipe, or for a scalar port, start to wait anew when they are (R169). -/
def noteReady (s : State) (site core : Nat) : State :=
  let clk := (s.core site core).clk
  (List.range 64).foldl (fun t k =>
    let w := t.warp site core k
    let late := !laneReady w
    let sLate := !portReady w
    if w.resident && (late || sLate) then
      t.setWarp site core k { w with readySince := if late then clk else w.readySince, sSince := if sLate then clk else w.sSince }
    else t) s

/-- ISSUE_SELECT (R168 to R170, R236): `dt` clocks pass, free pipes are given to warps, and the runs that hold a pipe and at most
two scalar instructions issue; while issue is stopped nothing is selected (R40, R41). An activity window that has come to its end ends
before anything of the next one issues (R219). -/
def execIssueSelect (site core dt : Nat) (s : State) : Out :=
  if !s.dieUp site || !s.coreOn site core then .next s
  else
    let s1 := noteReady (windowEnd (passTime s site core dt) site core) site core
    if s1.hub.supply || (s1.die site).stop then .next s1
    else
      let s2 := givePipe (givePipe s1 site core 0) site core 1
      let scalar := (selOrder s2 site core 64 ((List.range 64).filter fun k => s2.scalarMay (s2.warp site core k))).map fun k =>
        ({ site := site, core := core, slot := k, lane := none } : Turn)
      .next { s2 with turns := s2.turns ++ pipeTurns s2 site core 0 ++ pipeTurns s2 site core 1 ++ scalar }

/-- STARVATION_PROMOTE (R169): ready 4096 clk without selection, for the pipe or for a scalar port. -/
def execStarvationPromote (w : WRef) (s : State) : Out :=
  let x := s.wref w
  let clk := (s.core w.site w.core).clk
  let lane := laneReady x && decide (x.readySince + 4096 ≤ clk)
  let port := portReady x && decide (x.sSince + 4096 ≤ clk)
  .next (if lane || port then s.setWref w { x with oldest := x.oldest || lane, sOldest := x.sOldest || port } else s)

/-- RBGET_SERVE (R172, R173): the head of the queue, from the pool or with the reserve on loan. -/
def execRbgetServe (site core : Nat) (s : State) : Out :=
  let c := s.core site core
  match c.rbWait with
  | [] => .next s
  | (slot, first, count, _) :: rest =>
    let r : WRef := { site := site, core := core, slot := slot }
    let need := needed (s.wref r) first count
    let lend := decide (poolFree c < need) && c.loan.isNone && decide (need ≤ (freePlaces c.places).length)
    if need ≤ poolFree c || lend then
      actAs (s.setCore site core { c with rbWait := rest, loan := if lend then some slot else c.loan }) r fun t =>
        let u := pinBlocks t r false ((List.range count).map fun i => first + i)
        u.retire u.curW
    else .next s

/-- A team has ended for good (R165): its scratchpad is free and, where it ran to its end, its grid counts it. -/
def finishTeam (s : State) (id : Nat) : State :=
  let t := s.team id
  let s1 := freeScratch (dropClaim s t.site t.core id) id
  let g := s1.grid t.g
  let s2 := s1.setGrid t.g { g with ran := if t.fatal then g.ran else g.ran + 1 }
  { s2 with hub := { s2.hub with teams := FMap.del s2.hub.teams id } }

/-- The key of a draw's team with primitive index 0 (R186). -/
def teamKey (draw team : Nat) : BitVec 48 := BitVec.ofNat 48 (draw * 2 ^ 32 + team * 2 ^ 12)
/-- The end-of-team marker of a team for a gate: a PRIM packet of KIND 1 with the team's key, behind the primitives of its core
(R189). -/
def markerPkt (s : State) (id f draw site : Nat) : PrimMsg :=
  let t := s.team id
  let key := teamKey draw t.t
  { hdr := mkHdr site t.site t.core 2 (genOf s t.site) 1 0 0 0 key.toNat 0, lost := false, site := site,
    prim := { frame := f, key := key, payload := 0 }, team := id, src := { site := t.site, core := t.core, slot := 0 }, tag := 0, marker := true }

/-- TEAM_END (R165, R189): all warps have left; a bound team sends its markers and ends once every gate has acknowledged. -/
def execTeamEnd (team : Nat) (s : State) : Out :=
  let t := s.team team
  if (FMap.find s.hub.teams team).isNone || t.st ≠ .running || !t.slots.isEmpty || !t.shSlots.isEmpty then .next s
  else
    match t.bound with
    | some (f, draw) =>
      let sites := (s.frame f).sites
      .next (if s.frameSt f = 0 || sites = 0 || t.gone then finishTeam s team
        else injectPrims (s.setTeam team { t with st := .ended, marks := sites, acked := 0 }) ((sitesOf sites).map fun x => markerPkt s team f draw x))
    | none => .next (finishTeam s team)

/-- END_OF_TEAM_MARKER_ACK (R189). -/
def execEndOfTeamMarkerAck (team site : Nat) (s : State) : Out :=
  let t := s.team team
  if t.st ≠ .ended || !t.acked.getLsbD site || !t.marks.getLsbD site then .next s
  else
    let m := t.marks &&& ~~~((1 : BitVec 48) <<< site)
    let s1 := s.setTeam team { t with marks := m }
    .next (if m = 0 then finishTeam s1 team else s1)

/-- The final status of a grid none of whose teams runs or is unplaced (R165, R166); none while one does. -/
def finalStatus (s : State) (gid : Nat) : Option Nat :=
  let g := s.grid gid
  if g.st = .done then some g.status
  else if g.st ≠ .running || (s.hub.teams.any fun e => e.2.g == gid) || (g.ranges.any fun e => (unplaced g e.1).isSome) then none
  else some (if g.fault || g.lost then 6 else if g.missed then 2 else 1)

/-- GRID_FINAL_STATUS (R133, R134, R153 to R155, R165, R176): completion object, completion entry, message. -/
def execGridFinalStatus (g : Nat) (s : State) : Out :=
  let x := s.grid g
  match (FMap.find s.hub.grids g).isSome, finalStatus s g with
  | true, some st =>
    let obj := fieldAt x.pkt 0x30 8
    let (s1, ok) := if obj = 0 then (s, true)
      else match writeCplobj s gcpWho x.root obj st x.throt x.ran with | (t, .ok _) => (t, true) | (t, _) => (t, false)
    let left := FMap.del s1.hub.grids g
    let open_ := left.any fun e => e.2.st != .done
    let s2 := { s1 with
      wlog := if open_ then s1.wlog else [], reds := if open_ then s1.reds else []
      hub := { s1.hub with grids := left }
      dies := s1.dies.map fun (e : Nat × Die) => (e.1, { e.2 with grids := e.2.grids.filter fun k => k != g,
                                                                   kdWait := e.2.kdWait.filter fun k => k.g != g }) }
    (match x.q with
     | none => .next s2
     | some q =>
       let e := obj + x.throt * 2 ^ 64 + (if ok then st else 7) * 2 ^ 96 + q * 2 ^ 112 + (if x.late then 2 ^ 145 else 0) +
         s.time.toNat * 2 ^ 192
       .next (cqPut s2 q (BitVec.ofNat 256 e)))
  | _, _ => .next s

/-- Remove a team none of whose warps has issued an instruction (R166): nothing of it is written back. -/
def withdrawTeam (s : State) (id : Nat) : State :=
  let t := s.team id
  dropTeam ((teamWarps s t).foldl clearSlot s) id

/-- The GCP reads a fallback packet and submits it (R166): in the world, root and queue of the grid it replaces. -/
def submitFallback (s : State) (g : Grid) : State :=
  if g.fallback = 0 then s
  else
    match vmLoads s gcpWho g.root g.fallback 32 4 with
    | (s1, .ok v) =>
      let pkt := BitVec.ofNat 1024 v
      let root := if g.q.isSome then rootOf pkt else g.root
      addGrid s1 { Grid.taken pkt g.q g.sec root true with src := g.src }
    | (s1, _) => s1

/-- DEADLINE_EXPIRE (R152, R157, R166): unstarted teams are withdrawn and the fallback is submitted. A packet that has still to be
checked is refused first where R152 refuses it. The deadline does nothing more for a grid whose status a fault has decided (log 20,
R166). -/
def execDeadlineExpire (g : Nat) (s : State) : Out :=
  let x := s.grid g
  let due := x.deadline != 0 && decide (x.deadline ≤ s.time.toNat) && (FMap.find s.hub.grids g).isSome && !x.missed && !x.fault
  let miss (t : State) : State := submitFallback (t.setGrid g { t.grid g with missed := true, st := .done, status := 2 }) x
  let idle := s.hub.teams.filter fun e => e.2.g == g && !e.2.issued && e.2.st == .running
  if !due || x.st = .done then .next s
  else if x.st = .waiting || x.st = .resolved then
    .next (match if x.checked then (s, false) else refused s x with
      | (s1, true) => decideGrid s1 g 4
      | (s1, false) => miss s1)
  else if idle.isEmpty && !(x.ranges.any fun e => (unplaced x e.1).isSome) then .next s
  else
    let s1 := idle.foldl (fun t e => withdrawTeam t e.1) (s.setGrid g { x with missed := true })
    .next (submitFallback s1 x)

end Sys2Proof.Machine
end

