-- ==== Sys2Proof/Machine/EvRender.lean ====
section
/-! DEFINITION. Events of frames and order gates (R179 to R202). -/
namespace Sys2Proof.Machine

/-- The hub's accesses for a frame: those of a secure requester (R116). -/
def frameWho : Who := dieWho 48 52 true
/-- Read `n` pieces of `k` bytes at a physical address; nothing where one cannot be read. -/
def readPa (s : State) (who : Who) (pa k : Nat) : Nat → State × Option Nat
  | 0 => (s, some 0)
  | n + 1 =>
    match doLoad s who (rawTr false pa) k 0 with
    | (s1, v, st) =>
      if st ≠ stOk then (s1, none)
      else match readPa s1 who (pa + k) k n with
        | (s2, some x) => (s2, some (v + x * 2 ^ (8 * k)))
        | r => r

/-- Chunks of the tile directory of a frame (R183). -/
def Frame.dirChunks (f : Frame) : Nat := (f.tiles * 16 + 4095) / 4096
/-- Chunks of a frame's pool on each owner die (R193). -/
def Frame.pool (f : Frame) : Nat := fieldAt f.desc 0x58 4 - f.dirChunks

/-- Whether a field of a frame descriptor is out of range, misaligned or not zero where it must be (R182, R183). -/
def descBad (d : BitVec 2048) : Bool :=
  let f (o n : Nat) : Nat := fieldAt d o n
  let fr : Frame := { Frame.none with desc := d }
  f 0 2 != 1 || fr.wd == 0 || decide (16384 < fr.wd) || fr.ht == 0 || decide (16384 < fr.ht) || fr.ndraws == 0 ||
    f 8 8 % 4 != 0 || f 0x10 8 % 16 != 0 || f 0x18 8 % 8 != 0 || f 0x20 4 % 512 != 0 || f 0x24 4 % 256 != 0 ||
    f 0x30 8 % 4096 != 0 || f 0x38 8 % 32 != 0 || f 0x4C 4 % 1024 != 0 || f 0x50 8 % 4096 != 0 || f 0x5C 164 != 0 ||
    decide (f 0x58 4 < fr.dirChunks + 16) || decide (2 ^ 36 < f 0x50 8 + f 0x58 4 * 4096)

/-- Whether a draw table entry is bad (R183). -/
def drawBad (e : Nat) : Bool :=
  let teams := e / 2 ^ 64 % 2 ^ 32
  e % 2 ^ 64 == 0 || teams == 0 || decide (1048576 < teams) || e / 2 ^ 96 != 0
/-- Whether the draw table can be read and every entry is good (R183, R184). -/
def drawsOk (s : State) (who : Who) (pa : Nat) : Nat → State × Bool
  | 0 => (s, true)
  | n + 1 =>
    match readPa s who pa 16 1 with
    | (s1, some e) => if drawBad e then (s1, false) else drawsOk s1 who (pa + 16) n
    | (s1, none) => (s1, false)
/-- The entries of a tile-owner map in memory (R185). -/
def readMap (s : State) (who : Who) (pa : Nat) : Nat → State × Option (List Nat)
  | 0 => (s, some [])
  | n + 1 =>
    match readPa s who pa 4 1 with
    | (s1, some e) => (match readMap s1 who (pa + 4) n with | (s2, some l) => (s2, some (e :: l)) | r => r)
    | (s1, none) => (s1, none)
/-- The enabled positions the default map goes through (R185). -/
def defaultOwners (s : State) : List Nat :=
  (upByLogical s).flatMap fun site => ((List.range 48).filter fun c => s.coreOn site c).map fun c => 64 * site + c
/-- Whether an owner map entry is bad (R183). -/
def ownerBad (s : State) (e : Nat) : Bool :=
  decide (4096 ≤ e) || decide (48 ≤ e / 64) || !s.dieUp (e / 64) || !s.coreOn (e / 64) (e % 64)

/-- What the checks of OPEN come to (R183): the frame, or the error. Where both apply, BADDESC is recorded and not BADMAP (log 20,
R183). -/
def checkFrame (s : State) (pa : Nat) : State × Option Frame × Nat :=
  let who := frameWho
  match readPa s who pa 32 8 with
  | (s1, none) => (s1, none, 1)
  | (s1, some v) =>
    let d := BitVec.ofNat 2048 v
    let fr : Frame := { Frame.none with desc := d }
    if descBad d then (s1, none, 1)
    else
      match drawsOk s1 who (fieldAt d 0x10 8) fr.ndraws with
      | (s2, false) => (s2, none, 1)
      | (s2, true) =>
        let l := defaultOwners s2
        let (s3, own) := if fieldAt d 8 8 = 0 then (s2, some ((List.range fr.tiles).map fun i => l.getD (i % l.length) 0))
          else readMap s2 who (fieldAt d 8 8) fr.tiles
        match own with
        | none => (s3, none, 1)
        | some o =>
          if o.any (ownerBad s3) then (s3, none, 2)
          else
            let sites : BitVec 48 := o.foldl (fun (m : BitVec 48) e => m ||| (1 : BitVec 48) <<< (e / 64)) 0
            (s3, some { fr with own := o, sites := sites, opening := true }, 0)

/-- Whether a write of FRCTL comes from the other world than that of a slot that is not IDLE (R180), or that is being opened (log 20,
R180). -/
def otherWorld (s : State) (f : Nat) (sec : Bool) : Bool :=
  (s.frameSt f != 0 || (s.frame f).opening) && s.regF (frstatA f) 4 4 != worldNo sec

/-- FRAME_OPEN (R179, R180, R183). One without effect, because the slot is not IDLE or is being opened, writes DESC all the same
(log 20, R180). -/
def execFrameOpen (f : Nat) (val : BitVec 64) (sec : Bool) (s : State) : Out :=
  if 16 ≤ f || getF val 2 0 ≠ 1 then .next s
  else if otherWorld s f sec then .next (secDrop s (frctlA f))
  else
    let s1 := s.setReg (frctlA f) (setF 0 47 8 (getF val 47 8))
    if s.frameSt f ≠ 0 || (s.frame f).opening then .next s1
    else
      match checkFrame s1 (getF val 47 8 * 256) with
      | (s2, none, err) => .next ((s2.setRegF (frstatA f) 23 16 err).setRegF (frstatA f) 31 24 48)
      | (s2, some fr, _) =>
        let s3 := { s2 with dies := s2.dies.map fun (e : Nat × Die) => (e.1, { e.2 with gates := FMap.del e.2.gates f }) }
        .next ((s3.setReg (frstatA f) (setF (setF 0 31 24 0xFF) 4 4 (worldNo sec))).setFrame f fr)

/-- FRAME_ABORT (R179 to R181): a write of FRCTL with CMD 2, which writes DESC too. -/
def execFrameAbort (w : FrctlWrite) (sec : Bool) (s : State) : Out :=
  .next (if 16 ≤ w.f || getF w.val 2 0 ≠ 2 then s
    else if otherWorld s w.f sec then secDrop s (frctlA w.f)
    else endFrame (s.setReg (frctlA w.f) (setF 0 47 8 (getF w.val 47 8))) w.f 5 48)

/-- FRAME_OPEN_RECEIVE (R180): an owner die initialises its gate. -/
def execFrameOpenReceive (site f : Nat) (s : State) : Out :=
  let d := s.die site
  if !(s.frame f).opening || !(s.frame f).sites.getLsbD site || (FMap.find d.gates f).isSome then .next s
  else .next (s.setGate site f Gate.reset)

/-- FRAME_OPEN_ACK (R180): the slot is OPEN once every owner die has acknowledged. -/
def execFrameOpenAck (site f : Nat) (s : State) : Out :=
  let fr := s.frame f
  if !fr.opening || !fr.sites.getLsbD site || (FMap.find (s.die site).gates f).isNone then .next s
  else
    let acks := fr.acks ||| (1 : BitVec 48) <<< site
    .next (if acks = fr.sites then (s.setFrame f { fr with acks := acks, opening := false }).setRegF (frstatA f) 2 0 1
      else s.setFrame f { fr with acks := acks })

/-- Draw number, team index and primitive index of a key (R186). -/
def keyDraw (k : BitVec 48) : Nat := k.toNat / 2 ^ 32
/-- The team index of a key. -/
def keyTeam (k : BitVec 48) : Nat := k.toNat / 2 ^ 12 % 2 ^ 20
/-- Put a primitive behind those of its key or of a lower one (R191). -/
def insertPrim (p : Prim) : List Prim → List Prim
  | [] => [p]
  | q :: l => if p.key.toNat < q.key.toNat then p :: q :: l else q :: insertPrim p l
/-- Primitives in ascending key, equal ones in arrival order (R191). -/
def sortPrims (l : List Prim) : List Prim := l.foldl (fun acc p => insertPrim p acc) []
/-- The tiles of a die that a primitive's box meets (R187, R191). -/
def boxTiles (fr : Frame) (site : Nat) (p : Prim) : List Nat :=
  let b (o : Nat) : Nat := fieldAt p.payload o 2
  (List.range fr.tiles).filter fun i =>
    (fr.owner i).1 == site && decide (b 2 ≤ i % fr.tw) && decide (i % fr.tw ≤ b 6) && decide (b 4 ≤ i / fr.tw) && decide (i / fr.tw ≤ b 8)

/-- A gate's requester. -/
def gateWho (s : State) (site f : Nat) : Who := dieWho site 51 (s.regF (frstatA f) 4 4 == 1)

/-- The number of a list of bin memory: the bin of a tile, or the staging list of a key's draw and team (R193). -/
def binList (tile : Nat) : Nat := 2 * tile
/-- The number of the staging list that a primitive belongs to (R193). -/
def stageList (p : Prim) : Nat := 2 * (p.key.toNat / 2 ^ 12) + 1
/-- Whether a list of `n` entries can take another one (R194). -/
def Gate.room (g : Gate) (pool n : Nat) : Bool := n % 63 != 0 || decide (g.alloc.length < pool)
/-- The chunk that a list takes next: the first free one (log 17). -/
def Gate.freeChunk (g : Gate) : Nat :=
  (((List.range (g.alloc.length + 1)).find? fun c => !g.alloc.any fun e => e.2 == c).getD 0)
/-- Physical address of a byte of a die's bin memory (R193). -/
def binPa (fr : Frame) (site off : Nat) : Nat := site * 0x1000000000 + fieldAt fr.desc 0x50 8 + off
/-- A gate stores bytes of its bin memory, in the frame's world (R193). -/
def binStore (s : State) (site f : Nat) (fr : Frame) (off size val : Nat) : State :=
  (doStore s (gateWho s site f) { rawTr false (binPa fr site off) with sec := s.regF (frstatA f) 4 4 == 1 } size val 2 0).1
/-- A bin entry: key, flags, vertices, attribute handle (R193). -/
def binEntry (p : Prim) : Nat :=
  p.key.toNat + fieldAt p.payload 1 1 * 2 ^ 48 + fieldAt p.payload 0x10 48 * 2 ^ 64 + fieldAt p.payload 0x40 8 * 2 ^ 448

/-- Append an entry to a list of `n` entries that has room (R193): where a chunk starts, its link is 0, the link of the list's
chunk before it names it, and the first of a bin fills the tile's directory entry, whose contents the spec leaves open. -/
def binPut (s : State) (site f : Nat) (fr : Frame) (g : Gate) (id n : Nat) (p : Prim) : State × Gate :=
  let at_ (c : Nat) : Nat := 4096 * (fr.dirChunks + c)
  let mine := (g.alloc.filter fun e => e.1 == id).map fun e => e.2
  if n % 63 = 0 then
    let c := g.freeChunk
    let s1 := binStore s site f fr (at_ c + 4032) 64 0
    let s2 := match mine.getLast? with
      | some x => binStore s1 site f fr (at_ x + 4032) 8 (binPa fr site (at_ c))
      | none => if id % 2 = 0 then (binStore s1 site f fr (16 * (id / 2)) 16 (s1.any 0 % 2 ^ 128)).fresh else s1
    (binStore s2 site f fr (at_ c) 64 (binEntry p), { g with alloc := g.alloc ++ [(id, c)] })
  else
    (match mine.getLast? with
     | some x => binStore s site f fr (at_ x + 64 * (n % 63)) 64 (binEntry p)
     | none => s, g)
/-- The chunks of a staging list are free once all its primitives are binned (R193, log 17). -/
def Gate.freeStage (g : Gate) (p : Prim) : Gate :=
  if (g.staged ++ g.work.map fun e => e.1).any fun q => stageList q == stageList p then g
  else { g with alloc := g.alloc.filter fun e => e.1 != stageList p }

/-- Bin what is being binned, tile by tile, until a chunk is missing (R191, R194). -/
def gateBin (s : State) (site f : Nat) (fr : Frame) : List (Prim × List Nat) → Gate → State × Gate
  | [], g => (s, { g with work := [] })
  | (p, ts) :: rest, g =>
    let one (x : State × Gate) (t : Nat) : State × Gate :=
      let (s, x) := x
      if x.full then (s, { x with work := match x.work with | (q, l) :: m => (q, l ++ [t]) :: m | [] => [(p, [t])] })
      else
        let b := FMap.get [] x.bins t
        if x.room fr.pool b.length then
          (let (s1, x1) := binPut s site f fr x (binList t) b.length p
           (s1, { x1 with bins := FMap.set x1.bins t (b ++ [p]) }))
        else (s, { x with full := true, work := (p, [t]) :: rest })
    let (s1, g1) := ts.foldl one (s, { g with work := (p, []) :: rest })
    if g1.full then (s1, g1) else gateBin s1 site f fr rest (Gate.freeStage { g1 with work := rest } p)

/-- A gate has found no free chunk (R194): its binned tiles become ready, or the frame ends. -/
def gateFull (s : State) (site f : Nat) (g : Gate) : State :=
  let ready := (g.bins.filter fun e => !e.2.isEmpty).map fun e => e.1
  if ready.isEmpty then endFrame (s.setGate site f g) f 4 site
  else s.setGate site f { g with full := true, part := ready, tiles := ready.foldl (fun m t => FMap.set m t .ready) g.tiles }

/-- A gate closes (R191, R195, R202): its tiles are ready for their final render; with every gate closed the frame is in
FINISH. -/
def gateClose (s : State) (site f : Nat) (g : Gate) : State :=
  let fr := s.frame f
  let mine := (List.range fr.tiles).filter fun i => (fr.owner i).1 == site
  let closed := fr.closed ||| (1 : BitVec 48) <<< site
  let s1 := (s.setGate site f { g with closed := true, tiles := mine.foldl (fun m t => FMap.set m t .ready) g.tiles }).setFrame f
    { fr with closed := closed }
  if closed &&& fr.sites = fr.sites then s1.setRegF (frstatA f) 2 0 2 else s1

/-- Entry `d` of the draw table as a gate reads it (R184): completion object and TEAMS; one that cannot be read has no team
(log 17). -/
def readDraw (s : State) (site f d : Nat) : State × Nat × Nat :=
  match readPa s (gateWho s site f) (fieldAt (s.frame f).desc 0x10 8 + 16 * d) 16 1 with
  | (s1, some e) => (s1, e % 2 ^ 64, e / 2 ^ 64 % 2 ^ 32)
  | (s1, none) => (s1, 0, 0)

/-- The entry of the draw at a gate's position: as it was when the position first reached the draw (R184). -/
def curDraw (s : State) (site f : Nat) : State × Nat × Nat :=
  let g := s.gate site f
  match g.cur with
  | some x => (s, x)
  | none =>
    let (s1, x) := readDraw s site f g.d
    (s1.setGate site f { s1.gate site f with cur := some x }, x)

/-- The order gate's algorithm (R191), for at most `fuel` rounds of its loop. -/
def gateRun (site f : Nat) : Nat → State → State
  | 0, s => s
  | fuel + 1, s =>
    let g0 := s.gate site f
    let fr := s.frame f
    if g0.full || g0.closed || (FMap.find (s.die site).gates f).isNone || s.frameSt f ≠ 1 then s
    else
      let (s0, g) := gateBin s site f fr g0.work g0
      if g.full then gateFull s0 site f g
      else if fr.ndraws ≤ g.d then gateClose s0 site f g
      else
        let (s1, obj, teams) := curDraw (s0.setGate site f g) site f
        let g := s1.gate site f
        if teams ≤ g.t then gateRun site f fuel (s1.setGate site f { g with cur := none, d := g.d + 1, t := 0 })
        else
          let take (p : Prim) (lo : Nat) (one : Bool) : Bool :=
            keyDraw p.key == g.d && (if one then keyTeam p.key == lo else decide (lo ≤ keyTeam p.key))
          let pass (one : Bool) : Gate :=
            { g with work := (sortPrims (g.staged.filter fun p => take p g.t one)).map fun p => (p, boxTiles fr site p),
                     staged := g.staged.filter fun p => !take p g.t one }
          if g.marks.contains (g.d, g.t) then
            gateRun site f fuel (s1.setGate site f { pass true with marks := g.marks.erase (g.d, g.t), t := g.t + 1 })
          else
            match readPa s1 (gateWho s site f) obj 2 1 with
            | (s2, some st) =>
              if st = 0 then s2
              else gateRun site f fuel (s2.setGate site f
                { pass false with cur := none, marks := g.marks.filter fun m => m.1 != g.d, d := g.d + 1, t := 0 })
            | (s2, none) => s2
/-- Run a gate as far as it goes. -/
def gateGo (s : State) (site f : Nat) : State :=
  let g := s.gate site f
  gateRun site f (g.marks.length + 2 * ((s.frame f).ndraws + 1 - g.d) + 2) s

/-- TEAMS of a draw as a gate knows it: what it found at its position, or the entry as it is (R184, R189). -/
def drawTeams (s : State) (site f d : Nat) : State × Nat :=
  if d = (s.gate site f).d then (let (s1, _, n) := curDraw s site f; (s1, n)) else (let (s1, _, n) := readDraw s site f d; (s1, n))

/-- Whether a packet of the render pipeline has come to its gate: the mesh has brought it there, and every earlier one from its core to
its destination has been taken (R48). -/
def primHere (s : State) (m : PrimMsg) : Bool :=
  !(s.mesh.any fun x => x.hdr == m.hdr) &&
    (s.prims.find? fun x => x.site == m.site && x.src.site == m.src.site && x.src.core == m.src.core && !x.lost) == some m

/-- GATE_PRIM_RECEIVE (R48, R181, R187, R189, R191, R194): packet `i` of those for the gate, once it is there. -/
def execGatePrimReceive (site f i : Nat) (s : State) : Out :=
  match (s.prims.filter fun m => m.site == site && m.prim.frame == f && !m.lost && !m.marker)[i]? with
  | none => .next s
  | some m =>
    let g := s.gate site f
    let fr := s.frame f
    let d := keyDraw m.prim.key
    let t := keyTeam m.prim.key
    if !primHere s m then .next s
    else if s.frameSt f = 0 || (FMap.find (s.die site).gates f).isNone then .next (primTaken s m)
    else if g.full then .next s
    else
      let below := g.closed || decide (d < g.d) || (d == g.d && decide (t < g.t))
      let (s1, teams) := if fr.ndraws ≤ d || below then (s, 0) else drawTeams s site f d
      if teams ≤ t then .next (endFrame (primTaken s1 m) f 3 site)
      else
        let g := s1.gate site f
        let held := g.staged.filter fun p => stageList p == stageList m.prim
        if !g.room fr.pool held.length then .next (gateFull s1 site f g)
        else
          let (s2, g1) := binPut (primTaken s1 m) site f fr g (stageList m.prim) held.length m.prim
          .next (gateGo (s2.setGate site f { g1 with staged := g1.staged ++ [m.prim] }) site f)

/-- GATE_MARKER_RECEIVE (R48, R181, R189, R191): the end-of-team marker of a bound team, behind every packet of the team; the gate
acknowledges it. One whose draw or team is out of range ends the frame; the gate of a frame that is over discards it. -/
def execGateMarkerReceive (site f draw team : Nat) (s : State) : Out :=
  match s.prims.find? fun m => m.marker && m.site == site && m.prim.frame == f && !m.lost && m.prim.key == teamKey draw team with
  | none => .next s
  | some m =>
    let g := s.gate site f
    if !primHere s m then .next s
    else if s.frameSt f = 0 || (FMap.find (s.die site).gates f).isNone then .next (primTaken s m)
    else if g.full then .next s
    else
      let past := g.closed || decide (draw < g.d) || (draw == g.d && decide (team < g.t))
      let (s1, teams) := if (s.frame f).ndraws ≤ draw then (s, 0) else drawTeams s site f draw
      let s2 := primTaken s1 m
      .next (if teams ≤ team then endFrame s2 f 3 site
        else if past then s2
        else
          let g1 := s2.gate site f
          gateGo (s2.setGate site f { g1 with marks := g1.marks ++ [(draw, team)] }) site f)

/-- GATE_OBJECT_CHECK (R191). -/
def execGateObjectCheck (site f : Nat) (s : State) : Out := .next (gateGo s site f)

/-- PARTIAL_RENDER_DONE (R194): every ready tile has been flushed. -/
def execPartialRenderDone (site f : Nat) (s : State) : Out :=
  let g := s.gate site f
  if s.frameSt f = 0 || !g.full || !g.part.isEmpty then .next s
  else
    let s1 := (s.setGate site f { g with bins := [], alloc := g.alloc.filter fun e => e.1 % 2 == 1, full := false }).bumpReg (frstatA f) 63 49 1
    .next (gateGo s1 site f)

/-- FRAME_LATCH_WRITE (R202): device time reads the release time or more. -/
def execFrameLatchWrite (f : Nat) (s : State) : Out :=
  let fr := s.frame f
  .next (if 16 ≤ f || s.frameSt f ≠ 3 || s.time.toNat < fr.rel then s
    else
      closeGates ((writeLatch s f 1 fr.tiles).setRegF (frstatA f) 2 0 0) f)

end Sys2Proof.Machine
end

