-- ==== Sys2Proof/Machine/EvMem.lean ====
section
/-! DEFINITION. TLB invalidation, the fault queues, core windows and their registers, watches, the watchdog and the ends of
engine operations (R246 to R248, R260 to R269, R280, R301, R314 to R319, R349, R496 to R507). -/
namespace Sys2Proof.Machine

/-- The hub drops matching entries of every translation cache (R260, R262): those of a root and world, or of a world, that
cover an address where one is given. -/
def dropEntries (s : State) (sec : Bool) (root : Option Nat) (va : Option Nat) : State :=
  let tagged (r : Nat) (w : Bool) : Bool := w == sec && (match root with | some x => x == r | none => true)
  let covers (big : Bool) (page : Nat) : Bool :=
    match va with | some a => page == (if big then a / 2 ^ 31 else a / 2 ^ 19) | none => true
  let onPath (level idx : Nat) : Bool :=
    match va with | some a => idx == (if level = 1 then a / 2 ^ 43 else a / 2 ^ 31) | none => true
  let keep (l : List TlbEnt) : List TlbEnt := l.filter fun x => !(tagged x.root x.sec && covers x.big x.vpage)
  let walk (l : List WalkEnt) : List WalkEnt := l.filter fun x => !(tagged x.root x.sec && onPath x.level x.vidx)
  { s with
    cores := s.cores.map fun e => (e.1, { e.2 with tlb := keep e.2.tlb })
    dies := s.dies.map fun e => (e.1, { e.2 with clTlb := e.2.clTlb.map fun x => (x.1, keep x.2), walk := walk e.2.walk }) }

/-- TLBICMD (R262). -/
def tlbicmdA : Nat := hubBase + 0xC1000
/-- Why a write of TLBICMD starts no command (R262): a non-secure one names the secure world, which is a security event, or a command
runs. -/
def tlbiRefused (s : State) (val : DWord) (sec : Bool) : Option State :=
  if val.getLsbD 61 && !sec then some (secDrop s tlbicmdA)
  else if s.regF tlbistatA 0 0 = 1 then some (s.setRegF tlbistatA 15 8 2)
  else none
/-- The accesses that were translated by entries of a world and root, of a page where one is given, and are not performed (R261, R262):
a leader's that the SSCB holds, and ACCSTs that the matrix unit has still to perform. Every other access is performed as it is
translated (log 5). -/
def translated (s : State) (sec : Bool) (root va : Option Nat) : List (WRef × BitVec 16) :=
  s.warps.flatMap fun e =>
    let g := s.gridOf e.2
    let here (x : LaneRes) : Bool := match va with | some a => x.va.toNat / 2 ^ 19 == a / 2 ^ 19 | none => true
    let ops : List AsyncOp := if g.sec == sec && (match root with | some r => r == g.root | none => true) then e.2.ops else []
    (ops.filter fun o => o.unwritten && o.res.any here).map fun o => ({ site := e.1 / 4096, core := e.1 / 64 % 64, slot := e.1 % 64 }, o.tag)
/-- Whether such an access has still to be performed. -/
def stillOwed (s : State) (x : WRef × BitVec 16) : Bool := (s.wref x.1).ops.any fun o => o.tag == x.2 && o.unwritten
/-- A write of TLBICMD with a mode (R262). -/
def tlbi (s : State) (mode : Nat) (val : DWord) (sec : Bool) (root va : Option Nat) : Out :=
  if getF val 63 62 ≠ mode then .next s
  else
    match tlbiRefused s val sec with
    | some t => .next t
    | none =>
      let s1 := (dropEntries s (val.getLsbD 61) root va).setRegF tlbistatA 0 0 1
      .next { s1 with hub := { s1.hub with inval := translated s (val.getLsbD 61) root va } }

/-- The root that a write of TLBICMD names (R262). -/
def tlbiRootOf (val : DWord) : Nat := getF val 47 15 * 2 ^ 15
/-- TLBI_ALL (R262). -/
def execTlbiAll (val : BitVec 64) (sec : Bool) (s : State) : Out := tlbi s 1 val sec none none
/-- TLBI_ROOT (R262). -/
def execTlbiRoot (val : BitVec 64) (sec : Bool) (s : State) : Out := tlbi s 2 val sec (some (tlbiRootOf val)) none
/-- TLBI_PAGE (R262). -/
def execTlbiPage (val : BitVec 64) (sec : Bool) (s : State) : Out :=
  tlbi s 3 val sec (some (tlbiRootOf val)) (some ((s.reg tlbivaA).toNat % 2 ^ 55))
/-- TLBI_DONE (R262): once no access that used an old entry is left. -/
def execTlbiDone (s : State) : Out :=
  .next (if s.regF tlbistatA 0 0 = 1 && !s.hub.inval.any (stillOwed s) then
      (({ s with hub := { s.hub with inval := [] } }).setRegF tlbistatA 0 0 0).setRegF tlbistatA 15 8 1
    else s)

/-- A warp waits on a record no more; it retranslates when nothing else holds it (R263, R267). -/
def unwait (n : Option Nat) (w : Warp) : Warp :=
  match w.park with
  | .fault waits stalled lane =>
    let l := waits.filter fun x => match n with | some k => x.1 != k | none => false
    if l.isEmpty && !stalled then { w with park := .none } else { w with park := .fault l stalled lane }
  | _ => w

/-- FQBASE_ENABLE (R265 to R267): setting EN sets head and tail to 0 and frees every place; the warps that waited on the
records of the old ring retranslate, and the dispatcher reads again the descriptors that waited on them, a killed one excepted (R396,
log 18). A write that leaves EN set moves the ring. -/
def execFqbaseEnable (site world : Nat) (val : BitVec 64) (sec : Bool) (s : State) : Out :=
  let v : DWord := BitVec.ofNat 64 (getF val 47 17 * 2 ^ 17 + 1)
  if !val.getLsbD 0 then .next s
  else if world = 1 && !sec then .next (secDrop s (fqbaseA site world))
  else if (s.reg (fqbaseA site world)).getLsbD 0 then .next (s.setReg (fqbaseA site world) v)
  else
    let d := s.die site
    let q := d.fq world
    let s1 := s.setDie site ({ d with kdWait := d.kdWait.filter fun x => x.world != world || x.killed || x.seq == 0 }.setFq world { FaultQ.reset with stalled := q.stalled })
    let s2 := ((s1.setReg (fqbaseA site world) v).setReg (fqheadA site world) 0).setReg (fqtailA site world) 0
    .next (q.recs.foldl (fun t f => f.waiters.foldl (fun t r => t.setWref r (unwait none (t.wref r))) t) s2)

/-- A pending record that a write of FQCMD names (R267). -/
def fqRec (s : State) (site world : Nat) (val : DWord) : Option FRec :=
  ((s.die site).fq world).recs.find? fun f => f.seq == getF val 31 0

/-- A record is pending no more: its place is free (R265, R266). -/
def endRec (s : State) (site world : Nat) (f : FRec) : State :=
  let d := s.die site
  let q := d.fq world
  let q' := { q with recs := q.recs.filter fun x => x != f }
  (s.setDie site (d.setFq world q')).setRegF (fqtailA site world) 28 16 q'.recs.length

/-- FQCMD_REPLAY (R263, R267): every warp that waits on no other record retranslates. -/
def execFqcmdReplay (site world : Nat) (val : BitVec 64) (sec : Bool) (s : State) : Out :=
  if getF val 63 62 ≠ 1 then .next s
  else if world = 1 && !sec then .next (secDrop s (fqbaseA site world + 0x18))
  else
    match fqRec s site world val with
    | none => .next s
    | some f =>
      let s1 := endRec s site world f
      let d := s1.die site
      let s2 := s1.setDie site { d with kdWait := d.kdWait.filter fun x => !(x.world == world && x.seq == f.seq) }
      .next (f.waiters.foldl (fun t r => t.setWref r (unwait (some f.seq) (t.wref r))) s2)

/-- A warp that waits on a killed record leaves every record and takes the page-fault trap (R263, R267, R342). A trailing
warp whose leader has taken that trap here takes it with its next turn (R317). -/
def killWaiter (f : FRec) (s : State) (r : WRef) : State :=
  let w := s.wref r
  match w.park with
  | .fault waits _ lane =>
    (match waits.find? fun x => x.1 == f.seq with
     | none => s
     | some (_, lanes, va) =>
       let s1 := (leaveRecs s r).setWref r { w with park := .none }
       if w.shadow && (trapHere w).isSome then s1
       else
         let t : TrapInfo :=
           { code := 4, detail := f.reason, lane := lane.isSome, slot1 := lane == some true, async := false, fmask := lanes, addr := va,
             info := [BitVec.ofNat 32 f.seq] }
         (match { s1 with cur := { site := r.site, core := r.core, slot := r.slot, lane := lane } }.trap t with
          | .next u => { u with cur := s.cur }
          | _ => s1))
  | _ => s

/-- FQCMD_KILL (R263, R267): leaders trap before their trailing warps. -/
def execFqcmdKill (site world : Nat) (val : BitVec 64) (sec : Bool) (s : State) : Out :=
  if getF val 63 62 ≠ 2 then .next s
  else if world = 1 && !sec then .next (secDrop s (fqbaseA site world + 0x18))
  else
    match fqRec s site world val with
    | none => .next s
    | some f =>
      let s1 := endRec s site world f
      let d := s1.die site
      let s2 := s1.setDie site
        { d with kdWait := d.kdWait.map fun x => if x.world == world && x.seq == f.seq then { x with killed := true } else x }
      let leads := f.waiters.filter fun r => !(s2.wref r).shadow
      let trails := f.waiters.filter fun r => (s2.wref r).shadow
      .next ((leads ++ trails).foldl (killWaiter f) s2)

/-- A stalled fault of the dispatcher is tried again (R266, R396): a page that still faults makes or merges into a record, which the
descriptor then waits for; else the dispatcher reads the descriptor again. -/
def retryKd (s : State) (site world : Nat) (x : Stall) (gid : Nat) : State :=
  let away (d : Die) : List KdWait := d.kdWait.filter fun y => !(y.g == gid && y.seq == 0)
  if !(s.die site).kdWait.any (fun y => y.g == gid && y.seq == 0) then s
  else
    match findPage s site none x.root (world == 1) x.va with
    | (t, some (.fault reason level)) =>
      let (t1, n) : State × Nat := match ((t.die site).fq world).recs.find? fun r => r.root == x.root && r.va.toNat / 2 ^ 19 == x.va / 2 ^ 19 with
        | some r => (t, r.seq)
        | none => newRecord t site world x.va x.root reason level 0 52 []
      let d := t1.die site
      t1.setDie site { d with kdWait := away d ++ [{ g := gid, world := world, seq := n, killed := false }] }
    | (t, _) => let d := t.die site; t.setDie site { d with kdWait := away d }

/-- A stalled page fault is tried again (R266): the page is translated anew, and one that still faults takes the free place. -/
def retryStall (s : State) (site world : Nat) (x : Stall) (left : List Stall) : State :=
  let d := s.die site
  let s0 := s.setDie site (d.setFq world { d.fq world with stalled := left })
  match x.kd with
  | some gid => retryKd s0 site world x gid
  | none =>
    let (s1, wait) : State × Option Nat :=
      match findPage s0 site (some x.who.core) x.root (world == 1) x.va with
      | (t, some (.fault reason level)) => reportFault t site (world == 1) x.va x.root reason level x.flags x.who.core x.who x.lanes
      | (t, _) => (t, none)
    let w := s1.wref x.who
    match w.park with
    | .fault waits _ lane =>
      let all := match wait with | some n => waits ++ [(n, x.lanes, BitVec.ofNat 64 x.va)] | none => waits
      let more := left.any fun y => y.who == x.who
      s1.setWref x.who { w with park := if all.isEmpty && !more then .none else .fault all more lane }
    | _ => s1

/-- FAULT_STALL_RETRY (R266): the oldest stalled fault is tried again while a place is free. -/
def execFaultStallRetry (site world : Nat) (s : State) : Out :=
  match canRecord s site world, ((s.die site).fq world).stalled with
  | true, x :: l => .next (retryStall s site world x l)
  | _, _ => .next s

/-- WINDOW_ACCESS (R34, R117 to R119, R269): a request is performed at the window port it names, in the world of its header, and its
completion sent. -/
def execWindowAccess (core : Nat) (r : Req) (s : State) : Out :=
  match region r.pa with
  | .window site c off =>
    if c ≠ core then .next s
    else
      let sec := hdrSec (reqHdr site (genOf s r.srcSite) r)
      let st := windowSt s site site core sec
      let code := core
      let who : Who := { site := r.srcSite, core := r.srcCore, slot := 0, sec := sec, own := false }
      let answer (t : State) (v st : Nat) : Out := .next (sendMsg t (rspMsg t site code r.srcSite r.seq st v (if r.kind = .store || st ≠ stOk then 0 else 1)))
      if r.size = 0 || r.pa % r.size ≠ 0 then answer s 0 stAddr
      else if st ≠ stOk then answer (refuse s who site r.pa st) 0 st
      else
        match r.kind with
        | .load => let x := windowLoad s site core off r.size; answer s x.1 x.2
        | .store => let x := windowStore s site core off r.size r.data.toNat; answer x.1 0 x.2
        | .atomic | .cas =>
          if off < 0x100000 || 0x180000 ≤ off then answer s 0 stAddr
          else
            let x := windowLoad s site core off r.size
            let y := windowStore s site core off r.size (atomicNew (r.kind == .cas) r.aop.toNat r.size x.1 r.data.toNat)
            answer y.1 x.1 y.2
  | _ => .next s

/-- A write of a register of a core control page whose effect is the write's own (R280). -/
def ctlEvent (s : State) (site core off : Nat) (val : DWord) : State :=
  if !s.dieUp site || !s.coreOn site core then s
  else match ctlWrite s site core off val.toNat with
    | some t => fireWatches t fun k w => k / 64 == coreKey site core && watches (lineOf (winAddr site core + 0x220000 + off)) w
    | none => s
/-- QCTL_WRITE (R280). -/
def execQctlWrite (site core k : Nat) (val : BitVec 64) (s : State) : Out := .next (ctlEvent s site core (0x140 + 8 * k) val)
/-- QSTAT_CLEAR (R280). -/
def execQstatClear (site core k : Nat) (val : BitVec 64) (s : State) : Out := .next (ctlEvent s site core (0x100 + 8 * k) val)

/-- PROMOTION_REQUEST (R301, R302). -/
def execPromotionRequest (site core line : Nat) (s : State) : Out := .next (serveRacq s site core line)

/-- WATCH_FIRE (R247, R248): a watch latches at the write that fires it; a warp parked in SMWAIT then goes on. -/
def execWatchFire (w : WRef) (s : State) : Out :=
  match (s.wref w).watch, (s.wref w).park with
  | some x, .smwait d _ => if x.fired then actAs s w fun t => t.smDone d 0 else .next s
  | _, _ => .next s

/-- SMWAIT_TIMEOUT (R248). -/
def execSmwaitTimeout (w : WRef) (s : State) : Out :=
  match (s.wref w).park with
  | .smwait d (some limit) =>
    if (s.core w.site w.core).clk + (s.wref w).parkPast < (s.wref w).parkAt + limit then .next s
    else actAs s w fun t => t.smDone d (match (s.wref w).watch with | some x => if x.fired then 0 else 1 | none => 1)
  | _ => .next s

/-- FEED_ROW_APPEND (R279, R500). -/
def execFeedRowAppend (site core q : Nat) (s : State) : Out := .next (feedStep s site core q)

/-- ENGINE_COMPLETE (R307, R498 to R504): a COPY, an NBR or a tile's write is performed whole and ends, a FEED ends once its
rows are appended. -/
def execEngineComplete (w : WRef) (tag : BitVec 16) (s : State) : Out :=
  match engineOp s w tag with
  | none => .next s
  | some e =>
    .next (match e.kind with
      | .flush => (match flushRun s e with | some t => t | none => s)
      | _ => engineRun s e)

/-- The oldest signatures of a stream tag are compared (R316, R319): equal ones release the operation, others are a shadow
mismatch. One whose requests the core cannot make yet waits (R56, R141). -/
def compareTag (s : State) (sh ld : WRef) (lane : Bool) : State :=
  let w := s.wref sh
  match w.sscb.find? (fun e => e.lane == lane && !e.matched), w.sigs.find? (fun x => x.1 == lane) with
  | some e, some (l, some g) =>
    if !e.ready then s
    else if e.sig ≠ g then mismatch s sh e.pc.toNat
    else
      let w1 := { w with sigs := w.sigs.erase (l, some g) }
      if e.path = 4 then s.setWref sh { w1 with sscb := w1.sscb.map fun x => if x = e then { x with matched := true } else x }
      else
        let s1 := s.setWref sh { w1 with sscb := w1.sscb.filter fun x => x != e }
        match (s1.wref ld).ops.find? fun o => o.tag == e.tag && o.held with
        | none => s1
        | some o =>
          if o.engine then releaseEngine s1 ld e.tag
          else if !seqRoom s ld.site ld.core (o.op == 2 || decide (16 ≤ o.op)) 32 || o.res.any fun x => peerHeld s ld.site ld.core x.tr then s
          else releaseHeld s1 ld sh e.tag
  | _, _ => s

/-- SSCB_COMPARE (R316, R319), for a trailing warp. -/
def execSscbCompare (w : WRef) (s : State) : Out :=
  match roleOf (s.wref w) with
  | .trail ld =>
    let s1 := compareTag s w ld false
    .next (if s1.wref w == s.wref w then compareTag s w ld true else s1)
  | _ => .next s

/-- The code of a park as the warp header and the watchdog's DETAIL give it (R342, R355). -/
def Park.code : Park → Nat
  | .none => 0
  | .barw _ _ => 1
  | .swait _ _ => 2
  | .smwait _ _ => 3
  | .rbget _ _ => 4
  | .fault _ _ _ => 5

/-- WATCHDOG_EXPIRE (R349): the parked instruction has not taken effect, and a wait for register blocks is left. -/
def execWatchdogExpire (w : WRef) (s : State) : Out :=
  let x := s.wref w
  let limit := s.regF (ctlAddr w.site w.core 0x30) 15 0 * 65536
  let k := x.park.code
  if limit = 0 || k = 0 || k = 5 || !x.resident || (s.core w.site w.core).clk + x.parkPast ≤ x.parkAt + limit then .next s
  else
    actAs ((leaveRb s w).setWref w { x with park := .none }) w fun t => t.trap (scalarTrap 12 k 0 [])

end Sys2Proof.Machine
end

