-- ==== Sys2Proof/Machine/EvPair.lean ====
section
/-! DEFINITION. Pre-emption and restoration of teams (R274, R304, R321, R350 to R358). -/
namespace Sys2Proof.Machine

/-- PECMD (R350). -/
def pecmdA : Nat := hubBase + 0xE0008

/-- The grids of PEROOT.ROOT that a command names, or the team it names (R350): grid, team index or none for all. A team of a
cooperative grid stands for every team of it. -/
def peNamed (s : State) (val : DWord) : List (Nat × Option Nat) :=
  let addr := getF val 54 12 * 4096
  let root := s.regF perootA 47 15 * 2 ^ 15
  s.hub.grids.filterMap fun e =>
    let g := e.2
    if g.root ≠ root || g.st = .done then none
    else if val.getLsbD 61 then (if g.ctx 0 = addr then some (e.1, none) else none)
    else
      match (List.range g.total).find? fun t => g.ctx t == addr with
      | some t => some (e.1, if g.coop then none else some t)
      | none => none

/-- The teams in a state that a command names. -/
def peTeams (s : State) (named : List (Nat × Option Nat)) (p : Team → Bool) : List Nat :=
  (s.hub.teams.filter fun e => p e.2 && named.any fun n => n.1 == e.2.g && (n.2 == none || n.2 == some e.2.t)).map fun e => e.1

/-- What comes before a command acts (R350): a command that runs, a grid of the other world, nothing named. -/
def peStart (s : State) (op : Nat) (val : DWord) (sec : Bool) (go : List (Nat × Option Nat) → Out) : Out :=
  let named := peNamed s val
  let result (t : State) (r : Nat) : Out := .next (t.setRegF pestatA 15 8 r)
  if getF val 63 62 ≠ op then .next s
  else if s.regF pestatA 0 0 = 1 then result s 3
  else if !sec && named.any (fun n => (s.grid n.1).sec) then result (secDrop s pecmdA) 4
  else if named.isEmpty then result (s.setRegF pestatA 47 32 0) 2
  else go named

/-- PREEMPT (R350, R351): the named running teams stop and are saved as they come to rest. -/
def execPreempt (val : BitVec 64) (sec : Bool) (s : State) : Out :=
  peStart s 1 val sec fun named =>
    let ids := peTeams s named fun t => t.st == .running
    let s1 := ids.foldl (fun u id => u.setTeam id { u.team id with hold := val.getLsbD 60, target := 63 }) s
    .next { (s1.setRegF pestatA 47 32 ids.length).setRegF pestatA 0 0 1 with hub := { s1.hub with pe := some { teams := ids } } }

/-- RESUME (R350, R353, R356): held teams return to their dispatcher. -/
def execResume (val : BitVec 64) (sec : Bool) (s : State) : Out :=
  peStart s 2 val sec fun named =>
    let target := getF val 11 6
    let held := peTeams s named fun t => t.st == .saved && t.hold
    let bound (id : Nat) : Bool := target != 63 && target != (s.team id).core && rendersOn s id (s.team id)
    let ids := held.filter fun id => !bound id
    let s1 := ids.foldl (fun u id => u.setTeam id { u.team id with st := .returning, hold := false, target := target }) s
    .next ((s1.setRegF pestatA 47 32 ids.length).setRegF pestatA 15 8
      (if held.isEmpty then 5 else if held.any bound then 6 else 1))

/-- Whether a path of a warp stands before an ordered render step whose turn has not come (R199, R353). -/
def atStep (s : State) (r : WRef) (one : Bool) : Bool :=
  let w := s.wref r
  match claimOf s r, w.batch, w.prim with
  | some c, some b, some ord =>
    if b.opened || stepFree c ord b.blk then false
    else
      (match (fetch { s with cur := { site := r.site, core := r.core, slot := r.slot, lane := some one } }).2 with
       | .word v => (match decodeLane (BitVec.ofNat 96 v) with | .ok (.ztest _ _) => true | .ok (.tilew _ _) => true | _ => false)
       | _ => false)
  | _, _, _ => false

/-- Whether a warp of a team that is to be saved has come to rest (R321, R351, R353): its run has ended, or stands at a page
fault or an ordered step, or has not begun; its LOAD, STORE and FEED operations are complete, but for a BINNEXT that waits; a
pair has caught up. -/
def atRest (s : State) (r : WRef) : Bool :=
  let w := s.wref r
  let c := s.core r.site r.core
  let parked := match w.park with | .fault _ _ _ => true | _ => false
  let begun := c.pipe (pipeOf r.slot) == some r.slot
  let stands (one : Bool) : Bool := (w.lane.slot one).st != .live || atStep s r one
  let run := if w.running.isNone then !begun || w.queue.isEmpty
    else w.lane.live && (parked || !begun || (stands false && stands true))
  let ops := w.ops.all fun o => o.op == 8 || o.done || (o.engine && o.path == 3 && !o.held)
  let mine (m : MatOp) : Bool := m.alive && m.w == r
  let mat := (c.matQ ++ [c.matWait0, c.matWait1, c.matNext0, c.matNext1].filterMap id).any mine
  let pair := match roleOf w with
    | .trail _ => w.nS == w.leadS && w.nL == w.leadL && w.lvq.isEmpty && w.sscb.isEmpty && w.trace.isEmpty
    | _ => true
  (parked || s.stopped w) && run && ops && !mat && pair && !(w.hflag && !w.queue.isEmpty) && !c.feeds.any fun e => e.w == r

/-- A divergence stack as a header holds it: lane PC and mask of each entry, bottom first (R355). -/
def stackNat (l : List StackEnt) : Nat := wordsNat (l.reverse.flatMap fun e => [e.pc, e.mask])
/-- Both slots in TLPC's layout, and both masks. -/
def slotWords (l : LaneCtx) : List Word :=
  [BitVec.ofNat 32 l.s0.code, BitVec.ofNat 32 l.s1.code, l.s0.mask, l.s1.mask]
/-- Scalar registers as a header holds them; s63 is zero (R355). -/
def regWords (m : FMap Word) : List Word := (List.range 64).map fun i => if i = 63 then 0 else FMap.get 0 m i
/-- A set-aside run: lane PC with its kind in the place of a slot's state, 1 a start and 2 a resume, and its captured
registers (R355, log 17). -/
def runWords (e : RunEnt) : List Word := BitVec.ofNat 32 (e.pc.toNat + (if e.resume then 2 else 1) * 2 ^ 30) :: regWords e.caps

/-- PARK and PARKARG of a warp (R355). -/
def parkNat (s : State) (r : WRef) : Nat :=
  let w := s.wref r
  let clk := (s.core r.site r.core).clk
  let (a, b) : Nat × Nat := match w.park with
    | .barw va g => (va.toNat - (s.scrBase (s.team w.team)).toNat, g.toNat)
    | .swait path thr => (path, thr)
    | .smwait _ left => (match left with | some n => w.parkAt + n - (clk + w.parkPast) | none => 0, 0)
    | .rbget b n => (b, n)
    | _ => (0, 0)
  w.park.code + a % 2 ^ 32 * 2 ^ 32 + b % 2 ^ 32 * 2 ^ 64

/-- The warp header of a context image (R355). -/
def warpHeader (s : State) (r : WRef) (renders : Bool) : Nat :=
  let w := s.wref r
  let lane := match w.aside with | some a => a.lane | none => w.lane
  let runs := match w.aside with
    | some a => (match a.running with | some e => [e] | none => []) ++ a.queue
    | none => (match w.running with | some e => [e] | none => []) ++ w.queue
  let bit (b : Bool) (n : Nat) : Nat := if b then 2 ^ n else 0
  let rec1 (x : AsyncRec) : List Word :=
    [x.cause] ++ ((List.range 8).map fun i => x.tinfo.getD i 0) ++ [x.taddr.setWidth 32, (x.taddr >>> 32).setWidth 32, x.tfmask]
  let guard := match w.guard with
    | some g => 1 + g.bank.toNat * 2 ^ 8 + min g.count 255 * 2 ^ 16 + g.off.toNat * 2 ^ 32
    | none => 0
  let parts : List (Nat × Nat) :=
    [(0, wordsNat (regWords w.s)), (0x100, w.pc.toNat), (0x104, wordsNat (slotWords w.lane)), (0x114, w.exited.toNat),
     (0x118, lane.stack.length + bit w.lane.oneOlder 6), (0x11C, parkNat s r), (0x128, w.throt.toNat), (0x12C, w.tag.toNat),
     (0x130, w.pinned.toNat),
     (0x138, bit w.hflag 0 + bit w.inRgn 1 + w.restarts % 4 * 4 + bit w.watch.isSome 4),
     (0x140, wordsNat ((List.range 7).map fun i => FMap.get 0 w.p i)), (0x160, stackNat lane.stack),
     (0x260, wordsNat (handlerWords w)),
     (0x2A4, wordsNat (w.snapPc :: slotWords w.snap) + w.snap.stack.length * 2 ^ 160 + stackNat w.snap.stack * 2 ^ 192),
     (0x3BC, wordsNat (runs.flatMap runWords)),
     (0x8D0, if w.aside.isSome then stackNat w.lane.stack else 0), (0x9D0, wordsNat (w.recs.flatMap rec1)), (0xCD0, guard),
     (0xCD8, bit w.binWait.isSome 0 + bit renders 1)]
  parts.foldl (fun n p => n + p.2 * 2 ^ (8 * p.1)) 0

/-- The operations of a warp that a save leaves it with (R351, R353): those that have completed behind a BINNEXT count no more. -/
def Warp.settle (w : Warp) : Warp :=
  let n (p : Nat) : Nat := (w.ops.filter fun o => o.done && o.path == p).length
  { w with ops := w.ops.filter fun o => !o.done,
           cnt := [0, 1, 2, 3].foldl (fun m p => if n p = 0 then m else FMap.put 0 m p (FMap.get 0 m p - n p)) w.cnt }

/-- Save a warp (R351, R355): its header and its blocks are written, and it leaves its slot. -/
def saveWarp (id : Nat) (renders : Bool) (s : State) (r : WRef) : State :=
  let w := s.wref r
  let g := s.gridOf w
  let t := s.team id
  let fired := w.watch.map fun x => { x with fired := true }
  let elapsed := (s.core r.site r.core).clk + w.parkPast - w.parkAt
  let head := warpHeader s r renders
  let s1 := (vmStores s (dieWho r.site 52 g.sec) g.root (imageVa g t w.wid w.shadow) 32 head 128).1
  let s2 := endWarp s1 r
  s2.setTeam id { s2.team id with kept := t.kept ++ [{ w.settle with watch := fired, parkAt := 0, parkPast := elapsed }], heads := t.heads ++ [head] }

/-- Save a team that has come to rest (R351): promotion of the entries of its slots (R304), engines, warps, scratchpad, team header. What
the team wrote leaves its core with it, so that it reads no older value wherever it is restored (R288). -/
def saveTeam (s : State) (id : Nat) : State :=
  let t := s.team id
  let g := s.grid t.g
  let refs := teamWarps s t
  let leave (u : State) (site core : Nat) : State :=
    let c := u.core site core
    u.setCore site core { c with plog := c.plog.filter fun e => !refs.any fun r => r.core == core && r.slot == e.slot }
  let cores := if g.redun = 2 then [t.core, t.core ^^^ 1] else [t.core]
  let s1 := cores.foldl (fun u c => leave (promoteAct u t.site c) t.site c) s
  let s2 := ((s1.die t.site).copies.filter fun e => refs.contains e.w).foldl (fun u e => stopEngine u e 0x0811) s1
  let renders := (s2.core t.site t.core).claims.any (fun c => c.team == id) ||
    refs.any fun r => (s2.wref r).prim.isSome || (s2.wref r).batch.isSome || (s2.wref r).binWait.isSome
  let s3 := refs.foldl (saveWarp id renders) s2
  let pa := winAddr t.site t.core + 0x100000 + 1024 * t.gran
  let s4 := (vmStores s3 (dieWho t.site 48 g.sec) g.root (g.ctx t.t + 4096 + g.wc * 200704) 32 (readBytes s3.mem pa (1024 * t.ngran))
    (32 * t.ngran)).1
  let hdr := 1 + 1 * 2 ^ 32 + t.site * 2 ^ 48 + t.core * 2 ^ 56 + t.gran * 2 ^ 64 + t.ngran * 2 ^ 96 + (s.timeAt t.site).toNat * 2 ^ 128 +
    t.t * 2 ^ 192 + g.wc * 2 ^ 240
  let s5 := freeScratch (vmStores s4 (dieWho t.site 52 g.sec) g.root (g.ctx t.t) 32 hdr 128).1 id
  s5.setTeam id { s5.team id with st := if t.hold then .saved else .returning, slots := [], shSlots := [], issued := true }

/-- PREEMPT_COMPLETE (R350, R351): once every named team that still runs has come to rest, all are saved. -/
def execPreemptComplete (s : State) : Out :=
  match s.hub.pe with
  | none => .next s
  | some p =>
    let ids := p.teams.filter fun id =>
      (FMap.find s.hub.teams id).isSome && (s.team id).st == .running && !(teamWarps s (s.team id)).isEmpty
    if ids.all fun id => (teamWarps s (s.team id)).all (atRest s) then
      let s1 := ids.foldl saveTeam s
      .next (((({ s1 with hub := { s1.hub with pe := none } }).setRegF pestatA 47 32 ids.length).setRegF pestatA 15 8 1).setRegF pestatA 0 0 0)
    else .next s

/-- Both slots of a restored warp as its header gives them, with the ages that both paths had. -/
def slotsOf (l : LaneCtx) (v : Nat) : LaneCtx :=
  let half (i : Nat) (p : Path) : Path := { pathOf (wordOf v i).toNat (wordOf v (i + 2)) with age := p.age }
  { l with s0 := half 0 l.s0, s1 := half 1 l.s1 }

/-- What a header read back gives (R355): the words of TPC, TLPC and TAMASK as software may have written them, and undefined ones where
it wrote others, which R2 rules; `k` tells the warps of a team apart. -/
def headerBack (s : State) (k old v : Nat) : Nat :=
  let word (i : Nat) : Word :=
    if 0x264 ≤ 4 * i && 4 * i < 0x278 || wordOf old i == wordOf v i then wordOf v i else BitVec.ofNat 32 (s.any (1024 * k + i))
  if old = v then v else wordsNat ((List.range 1024).map word)

/-- A saved warp in its new slot (R356): what its header holds, with temporaries undefined and a LIVE slot's run to begin
anew. -/
def loadWarp (s : State) (w : Warp) (r : WRef) (mate : Option WRef) (v : Nat) : Warp :=
  let f (off : Nat) : Nat := v / 2 ^ (8 * off)
  let word (off : Nat) : Word := BitVec.ofNat 32 (f off)
  let clk := (s.core r.site r.core).clk
  let park := match w.park with
    | .fault _ _ _ => Park.none
    | p => p
  { w with
    mate := mate
    s := (List.range 63).foldl (fun m i => FMap.put 0 m i (word (4 * i))) []
    pc := word 0x100
    p := (List.range 7).foldl (fun m i => FMap.put 0 m i (word (0x140 + 4 * i))) []
    lane := slotsOf w.lane (f 0x104)
    exited := word 0x114
    throt := word 0x128
    tag := BitVec.ofNat 16 (f 0x12C)
    pinned := 0
    tcause := word 0x260
    tpc := word 0x264
    tlpc := BitVec.ofNat 64 (f 0x268)
    tamask := BitVec.ofNat 64 (f 0x270)
    tfmask := word 0x278
    taddr := BitVec.ofNat 64 (f 0x27C)
    tinfo := (List.range 8).foldl (fun m i => FMap.put 0 m i (word (0x284 + 4 * i))) []
    t := [], tWr := 0, haz := [], park := park, parkAt := clk, restAt := none
    startWin := clk / 256, readySince := clk, oldest := false, sSince := clk, sOldest := false }

/-- Restore a team on a core (R117, R356): its scratchpad, its warps with their blocks, and the waits they were parked in. A
team whose save area cannot be read stays off its core. -/
def restoreTeam (s : State) (id core first : Nat) : State :=
  let t := s.team id
  let g := s.grid t.g
  let site := t.site
  let who := dieWho site 52 g.sec
  let slots := teamSlots s site core g
  let refs := teamRefs site core g slots
  let at2 (wid : Nat) (shadow : Bool) : Option WRef :=
    match refs.find? fun e => e.1 == wid with
    | some e => if shadow then e.2.2 else some e.2.1
    | none => none
  match vmLoads s (dieWho site 48 g.sec) g.root (g.ctx t.t + 4096 + g.wc * 200704) 32 (32 * t.ngran) with
  | (s0, .ok data) =>
    let read (w : Warp) (old : Nat) : Vm :=
      match (vmLoads s0 who g.root (imageVa g t w.wid w.shadow) 32 128).2 with | .ok v => .ok (headerBack s0 (2 * w.wid + if w.shadow then 1 else 0) old v) | x => x
    let heads := (t.kept.zip t.heads).map fun x => read x.1 x.2
    if heads.any fun h => match h with | .ok _ => false | _ => true then s
    else
      let cores := if g.redun = 2 then [core, core ^^^ 1] else [core]
      let s1 := cores.foldl (fun u c => acquireAct (switchWorld u site c g.sec) site c 4) s0.fresh
      let s2 := takeScratch s1 site core id first g
      let s3 := { s2 with mem := writeBytes s2.mem (winAddr site core + 0x100000 + 1024 * (first + 1)) (1024 * t.ngran) data }
      let one (u : State) (x : Warp × Vm) : State :=
        match at2 x.1.wid x.1.shadow, x.2 with
        | some r, .ok v =>
          let w := loadWarp u x.1 r (if x.1.mate.isSome then at2 x.1.wid (!x.1.shadow) else none) v
          let u1 := (clearSlot u r).setWref r w
          let u2 := pinBlocks u1 r false ((List.range 48).filter fun b => (v / 2 ^ (8 * 0x130)).testBit b)
          let c := u2.core r.site r.core
          (match w.park with
           | .rbget b n => u2.setCore r.site r.core (c.enterRb r.slot b n)
           | _ => u2)
        | _, _ => u
      let tm := { t with core := core, gran := first + 1, st := .running, hold := false, target := 63, kept := [], heads := []
                         slots := t.kept.filterMap fun w => if w.shadow then none else (at2 w.wid false).map fun r => r.slot
                         shSlots := t.kept.filterMap fun w => if w.shadow then (at2 w.wid true).map fun r => r.slot else none }
      (t.kept.zip heads).foldl one (s3.setTeam id tm)
  | _ => s

/-- The first team in the dispatcher's order that can return to its die (R161, R356); a grid ahead of it whose next team can
be placed goes first. -/
def restoreFirst (s : State) (site : Nat) : List Nat → State
  | [] => s
  | gid :: l =>
    match returnee s site gid with
    | some id => (match returnCore s site id with | some (c, first) => restoreTeam s id c first | none => restoreFirst s site l)
    | none =>
      let g := s.grid gid
      let next := (unplaced g site).isSome && g.ready.getLsbD site && !coopHolds s site gid && (bestCore s site g (g.teamSize * g.blocks) none fun _ => true).isSome
      if next then s else restoreFirst s site l

/-- TEAM_RESTORE (R353, R356). -/
def execTeamRestore (site : Nat) (s : State) : Out := .next (if s.dieUp site then restoreFirst s site (dispatchOrder s site) else s)

end Sys2Proof.Machine
end

