-- ==== Sys2Proof/Machine/EvHub.lean ====
section
/-! DEFINITION. Writes of registers whose fields hold what is written (R5, R8, R9, R33, R120). A write that does more than set
fields has an operation of its own. -/
namespace Sys2Proof.Machine

/-- The mask of the bits of a register from `lo` to `hi` (R5). -/
def bits (hi lo : Nat) : Nat := 2 ^ (hi + 1) - 2 ^ lo

/-- The entry of a table of `n` registers with a stride, where an offset names one. -/
def rowOf (o base stride n : Nat) : Option Nat :=
  if base ≤ o ∧ o < base + stride * n ∧ (o - base) % stride = 0 then some ((o - base) / stride) else none

/-- The bits of a hub or trust register that a write sets, by its offset (R8, R88, R98, R121, R125, R128, R135, R136, R142, R179,
R262, R267, R350): those that hold what they are written and start nothing. -/
def writable (s : State) (o : Nat) (val : DWord) : Nat :=
  let pa := hubBase + o
  if (rowOf o 0x40000 8 16).isSome then bits 47 0
  else if (rowOf o 0x41000 0x20 48).isSome then bits 47 12
  else if o = 0x50008 then bits 9 0
  else match rowOf o 0x60000 0x40 1024 with
  | some q => if s.qState q = 1 then 0 else bits 63 63 + bits 56 7
  | none => match rowOf o 0x60008 0x40 1024 with
  | some q => if s.qState q = 1 || getF val 1 0 < 2 then 0 else bits 7 4
  | none => match rowOf o 0x60010 0x40 1024 with
  | some q => if s.qState q = 1 then 0 else bits 63 63 + bits 56 5
  | none => match rowOf o 0x60018 0x40 1024 with
  | some q => if s.qState q = 1 then 0 else bits 31 20 + bits 15 4
  | none =>
    if (rowOf o 0x78000 8 32).isSome then bits 63 63 + bits 47 31
    else if o = 0x79000 then bits 47 32 + bits 10 0
    else if o = 0x90000 then
      let down := (List.range 24).all fun p => s.regF (dlstatA p) 1 0 == 0
      (if down then bits 63 63 else 0) + (if (s.reg pa).getLsbD 63 then 0 else bits 9 0)
    else if (rowOf o 0x91000 8 1024).isSome then bits 23 0
    else if (rowOf o 0xA0000 16 2048).isSome then bits 63 2
    else if (rowOf o 0xA0008 16 2048).isSome then bits 32 0
    else if (rowOf o 0xB0000 0x20 16).isSome then (if getF val 2 0 = 1 || getF val 2 0 = 2 then 0 else bits 47 8)
    else if o = 0xC1008 then bits 54 19
    else match rowOf o 0xC2000 0x20 96 with
    | some _ => if val.getLsbD 0 then 0 else bits 47 17 + bits 0 0
    | none => if (rowOf o 0xC2008 0x20 96).isSome then bits 11 0 else if o = 0xE0000 then bits 47 15 else 0

/-- Whether a hub or trust register takes writes from secure requesters only (R120, R132, R180, R267). -/
def secureOnly (s : State) (o : Nat) : Bool :=
  (decide (0x50000 ≤ o) && decide (o < 0x60000)) ||
    (decide (0x60000 ≤ o) && decide (o < 0x70000) && secQueue s ((o - 0x60000) / 0x40)) ||
    (decide (0x70000 ≤ o) && decide (o < 0x74000) && secQueue s ((o - 0x70000) / 0x10)) ||
    (decide (0xC2000 ≤ o) && decide (o < 0xC2C00) && (o - 0xC2000) / 0x20 % 2 == 1)

/-- A frame slot in use takes writes of its own world only (R180). -/
def wrongWorld (s : State) (o : Nat) (sec : Bool) : Bool :=
  match rowOf o 0xB0000 0x20 16 with
  | some f => s.frameSt f != 0 && s.regF (frstatA f) 4 4 != worldNo sec
  | none => false

/-- The value a register takes: writable bits as written, in the half that a write of 4 bytes covers (R8, R9, R124). -/
def written (old : DWord) (mask : Nat) (high wide : Bool) (val : DWord) : DWord :=
  let part := if wide then bits 63 0 else if high then bits 63 32 else bits 31 0
  let m : DWord := BitVec.ofNat 64 (mask &&& part)
  let v : DWord := if wide then val else if high then val <<< 32 else val &&& 0xFFFFFFFF
  (old &&& ~~~m) ||| (v &&& m)

/-- Whether a page entry names a DSMASK register for its die set (R88, R257). -/
def namesMask (i : Nat) (e : DWord) : Bool :=
  kindOf e.toNat == 0 && attrOf e.toNat != 3 && e.toNat / 2 ^ 60 % 4 == 3 && e.toNat / 2 ^ 54 % 64 == i
/-- Whether software must not write a DSMASK register (R89): a page entry that names it is in use on some die, or a line of such a page
is cached. Page entries that no TLB holds are not looked for (log 4). -/
def maskInUse (s : State) (i : Nat) : Bool :=
  let tlb (l : List TlbEnt) : Bool := l.any fun x => namesMask i x.pte
  s.cores.any (fun e => tlb e.2.tlb) || s.dies.any (fun e => e.2.clTlb.any fun x => tlb x.2) ||
    s.tokens.any fun e => e.2.mask == some i && !e.2.dies.isEmpty
/-- A DSMASK register is written: whether software broke its duty (R2, R89). -/
def noteBreach (s : State) (i : Nat) : State :=
  let bit := (1 : BitVec 16) <<< i
  { s with breach := if maskInUse s i then s.breach ||| bit else s.breach &&& ~~~bit }

/-- The registers of the hub and trust region (R35, R124): offset of the first of each kind, stride and number. -/
def hubMap : List (Nat × Nat × Nat) :=
  [(0x10000, 0x40, 48), (0x10008, 0x40, 48), (0x10010, 0x40, 48), (0x20000, 8, 1), (0x30000, 8, 2), (0x31000, 8, 64),
   (0x32000, 0x40, 48), (0x32008, 0x40, 48), (0x34000, 8, 392), (0x40000, 8, 16)] ++
  [(0x41000, 0x20, 48), (0x41008, 0x20, 48), (0x41010, 0x20, 48), (0x42000, 8, 48), (0x50000, 8, 2), (0x51000, 8, 384),
   (0x53000, 8, 98), (0x60000, 0x40, 1024), (0x60008, 0x40, 1024), (0x60010, 0x40, 1024), (0x60018, 0x40, 1024)] ++
  [(0x70000, 8, 2048), (0x78000, 8, 32), (0x79000, 8, 2), (0x80000, 8, 4), (0x90000, 8, 1), (0x91000, 8, 1024), (0x94000, 8, 24),
   (0xA0000, 8, 4096), (0xA8000, 8, 32), (0xB0000, 0x20, 16), (0xB0008, 0x20, 16)] ++
  [(0xC1000, 8, 3), (0xC2000, 8, 384), (0xD0000, 0x20, 49), (0xD0008, 0x20, 49), (0xD0010, 0x20, 49), (0xE0000, 8, 3)]
/-- What a host read of BAR0 returns (R8, R106, R123, R124): a defined register's value, or the half that 4 bytes name, and Unsupported
Request for any other access. The table of events has no row for such a read, which changes no state. -/
def bar0Read (s : State) (off size : Nat) : OutMsg :=
  if s.asleep || !(size = 4 || size = 8) || off % size ≠ 0 || !hubMap.any (fun r => (rowOf (off / 8 * 8) r.1 r.2.1 r.2.2).isSome) then .unsupported
  else .read (bytesLe size ((s.hubRead (off / 8 * 8)).toNat / 2 ^ (8 * (off % 8))))

/-- REGISTER_WRITE (R8, R9, R120, R124, R222): a write of 8 bytes, or of 4, of a register of the hub and trust region or of a
core control page. A register whose write does more is written by an operation of its own and is unchanged here; a write of TLBICMD
with MODE 0 starts nothing (R262). -/
def execRegisterWrite (addr : Nat) (wide : Bool) (val : BitVec 64) (sec : Bool) (s : State) : Out :=
  if addr % (if wide then 8 else 4) ≠ 0 then .next s
  else
    let pa := addr / 8 * 8
    let high := addr % 8 == 4
    let whole : DWord := if !wide && high then val <<< 32 else val
    match region pa with
    | .hubReg o =>
      if !sec && s.asleep then .next s
      else if !sec && secureOnly s o || wrongWorld s o sec then .next (secDrop s pa)
      else if o = 0xC1000 then .next (if getF whole 63 62 = 0 then (tlbiRefused s whole sec).getD s else s)
      else
        let s1 := s.setReg pa (written (s.reg pa) (writable s o whole) high wide val)
        (match rowOf o 0xA0008 16 2048, rowOf o 0x40000 8 16 with
         | some v, _ => .next (unmasked s1 v)
         | _, some i => .next { s1 with breach := (noteBreach s i).breach }
         | none, none => .next (if writable s o whole = 0 then s else s1))
    | .window site core off =>
      if (off = 0x220020 || off = 0x220030) && s.dieUp site && s.coreOn site core &&
          !(!sec && (s.core site core).world == some true) then
        .next (windowStore s site core (off + addr % 8) (if wide then 8 else 4) val.toNat).1
      else .next s
    | _ => .next s

end Sys2Proof.Machine
end

