-- ==== Sys2Proof/Machine/LaneCross.lean ====
section
/-! DEFINITION. The cross-lane instructions (R451 to R459, R378): class 0x7. -/
namespace Sys2Proof.Machine

/-- Lanes of a group: 16 under MIRROR, else 32 (R452). -/
def groupSize (s : State) (e : LaneEnv) : Nat := if (s.gridOf e.w).mirror then 16 else 32
/-- The active lanes of lane `l`'s group in ascending order (R452). -/
def groupLanes (s : State) (e : LaneEnv) (l : Nat) : List Nat :=
  (lanesOf e.act).filter fun k => k / groupSize s e == l / groupSize s e
/-- Group bits of a list of lanes (R452, R455). -/
def groupBits (s : State) (e : LaneEnv) (l : List Nat) : Nat := l.foldl (fun n k => n + 2 ^ (k % groupSize s e)) 0

/-- The lane whose value SHFL gives lane `l`, when there is one (R453). -/
def shflLane (s : State) (e : LaneEnv) (f : L3) (l : Nat) : Option Nat :=
  let n := groupSize s e
  let i := l % n
  let g := min (2 ^ segOf f.m) n
  let base := i - i % g
  let k := srcVal s e f.b l % 32
  let src : Option Nat := match modeOf f.m with
    | 0 => some (base + k % g)
    | 1 => if base + k ≤ i then some (i - k) else none
    | 2 => if i + k < base + g then some (i + k) else none
    | _ => some (i ^^^ (k % g))
  match src with
  | some j => let lane := l - i + j; if e.act.getLsbD lane then some lane else none
  | none => none

/-- SHFL (R453). -/
def execShfl (h : Hdr) (f : L3) (s : State) : Out :=
  let vp := f.m.getLsbD 15
  s.withRegs h [f.d, f.a, f.b] fun e =>
    let vals := (lanesOf e.act).map fun l => (l, srcVal s e f.a (match shflLane s e f l with | some k => k | none => l))
    let ok := maskOf fun l => (shflLane s e f l).isSome
    let regs := (List.range (regCount f.d)).map fun i => (false, num f.d + i)
    let s1 := laneIssued s e tCross (if vp then (true, num f.c) :: regs else regs) [f.a, f.b]
    let s2 := writeDst s1 e.r (num f.d) (regCount f.d) e.act vals
    .next (lanePath (if vp then writePred s2 e.r (num f.c) e.act ok else s2) e h)

/-- BCAST (R454). -/
def execBcast (h : Hdr) (f : L3) (s : State) : Out :=
  s.laneOp h tCross f.d [f.a, f.b] fun e l =>
    match groupLanes s e l with
    | [] => 0
    | low :: _ =>
      let n := groupSize s e
      let lane := l - l % n + srcVal s e f.b low % n
      if e.act.getLsbD lane then srcVal s e f.a lane else 0

/-- VOTE (R455). -/
def execVote (h : Hdr) (f : L3) (s : State) : Out :=
  let held (e : LaneEnv) (l : Nat) : List Nat := (groupLanes s e l).filter fun k => predBit s e f.a k
  let all (e : LaneEnv) (l : Nat) : Bool := (held e l).length == (groupLanes s e l).length
  match modeOf f.m with
  | 0 => s.lanePredOp h tCross f.d [] all
  | 1 => s.lanePredOp h tCross f.d [] fun e l => !(held e l).isEmpty
  | 2 => s.lanePredOp h tCross f.d [] fun e l => all e l || (held e l).isEmpty
  | _ => s.laneOp h tCross f.d [] fun e l => groupBits s e (held e l)

/-- Bits of an integer element format of a reduction (R456). -/
def redBits (m : BitVec 29) : Nat := fmtBits (fmtOf m)
/-- Whether a reduction reads natural numbers (R456). -/
def redNat (m : BitVec 29) : Bool := isNatural (fmtOf m)
/-- The combination of two elements by a mode (R456). -/
def combine (m : BitVec 29) (a b : Nat) : Nat :=
  let n := redBits m
  let u := redNat m
  match modeOf m with
  | 0 => (a + b) % 2 ^ n
  | 1 => if readU u n b < readU u n a then b else a
  | 2 => if readU u n a < readU u n b then b else a
  | 3 => a &&& b
  | 4 => a ||| b
  | _ => a ^^^ b
/-- The identity of a mode (R458). -/
def identity (m : BitVec 29) : Nat :=
  let n := redBits m
  match modeOf m with
  | 1 => if redNat m then 2 ^ n - 1 else 2 ^ (n - 1) - 1
  | 2 => if redNat m then 0 else 2 ^ (n - 1)
  | 3 => 2 ^ n - 1
  | _ => 0

/-- REDUX (R456). -/
def execRedux (h : Hdr) (f : L3) (s : State) : Out :=
  s.laneOp h tReduce f.d [f.a] fun e l =>
    (groupLanes s e l).foldl (fun x k => combine f.m x (srcVal s e f.a k)) (identity f.m)

/-- One level of the pairwise tree of R378. -/
def treeLevel (op : Nat → Nat → Nat) : List (Option Nat) → List (Option Nat)
  | some a :: some b :: l => some (op a b) :: treeLevel op l
  | some a :: none :: l => some a :: treeLevel op l
  | none :: x :: l => x :: treeLevel op l
  | l => l
/-- The root of the pairwise tree after some levels (R378). -/
def treeRoot (op : Nat → Nat → Nat) : Nat → List (Option Nat) → Option Nat
  | 0, l => match l with | x :: _ => x | [] => none
  | n + 1, l => treeRoot op n (treeLevel op l)

/-- FREDUX (R457). -/
def execFredux (h : Hdr) (f : L3) (s : State) : Out :=
  let g := fmt (fmtOf f.m)
  let op : Nat → Nat → Nat := match modeOf f.m with
    | 0 => g.add false (rmOf f.m) (satOf f.m)
    | 1 => g.min
    | _ => g.max
  s.laneOp h tReduce f.d [f.a] fun e l =>
    let n := groupSize s e
    let base := l - l % n
    let leaves := (List.range n).map fun i => if e.act.getLsbD (base + i) then some (srcVal s e f.a (base + i)) else none
    match treeRoot op 5 leaves with | some x => x | none => 0

/-- SCAN (R458). -/
def execScan (h : Hdr) (f : L3) (s : State) : Out :=
  let excl := f.m.getLsbD 14
  s.laneOp h tReduce f.d [f.a] fun e l =>
    ((groupLanes s e l).filter fun k => if excl then decide (k < l) else decide (k ≤ l)).foldl
      (fun x k => combine f.m x (srcVal s e f.a k)) (identity f.m)

/-- MATCH (R459). -/
def execMatchL (h : Hdr) (f : L3) (s : State) : Out :=
  s.laneOp h tCross f.d [f.a] fun e l =>
    groupBits s e ((groupLanes s e l).filter fun k => srcVal s e f.a k == srcVal s e f.a l)

/-- ELECT (R459). -/
def execElect (h : Hdr) (f : L3) (s : State) : Out :=
  s.lanePredOp h tCross f.d [] fun e l => (groupLanes s e l).head? == some l

end Sys2Proof.Machine
end

