-- ==== Sys2Proof/Machine/LaneCtl.lean ====
section
/-! DEFINITION. Predicate operations and lane control (R235 to R238, R478 to R482): class 0xA. -/
namespace Sys2Proof.Machine

/-- PAND (R478). -/
def execPand (h : Hdr) (f : L3) (s : State) : Out :=
  s.lanePredOp h tPred f.d [] fun e l => predBit s e f.a l && predBit s e f.b l
/-- POR (R478). -/
def execPor (h : Hdr) (f : L3) (s : State) : Out :=
  s.lanePredOp h tPred f.d [] fun e l => predBit s e f.a l || predBit s e f.b l
/-- PXOR (R478). -/
def execPxor (h : Hdr) (f : L3) (s : State) : Out :=
  s.lanePredOp h tPred f.d [] fun e l => predBit s e f.a l != predBit s e f.b l
/-- PNOT (R478). -/
def execPnot (h : Hdr) (f : L3) (s : State) : Out :=
  s.lanePredOp h tPred f.d [] fun e l => !predBit s e f.a l

/-- Both lane PC slots and the stack after a lane control instruction of the path of `e`. -/
def State.toLane (s : State) (e : LaneEnv) (l : LaneCtx) : Out :=
  let t := laneIssued s e tPlain [] []
  .next (t.setW { t.curW with lane := l })

/-- LBRA with lanes on both sides (R235): the other slot goes to the stack, the taken lanes take it. -/
def splitPath (l : LaneCtx) (e : LaneEnv) (h : Hdr) (target : Word) : LaneCtx :=
  let o := l.slot (!e.one)
  let st : SlotSt := if h.s then .held else .live
  let fall := { e.path with st := st, pc := e.path.pc + 1, mask := e.path.mask &&& ~~~e.act, cnt := e.path.cnt + 1 }
  let taken : Path := { st := st, pc := target, mask := e.act, cnt := e.path.cnt + 1, age := l.next }
  let stack := if o.st == .empty then l.stack else { pc := o.pc, mask := o.mask, cnt := o.cnt, age := o.age } :: l.stack
  { (l.setSlot e.one fall).setSlot (!e.one) taken with next := l.next + 1, stack := stack }

/-- LBRA (R235, R479); under MIRROR lanes l and l + 16 must agree (R322). -/
def execLbra (h : Hdr) (f : LC) (s : State) : Out :=
  let e := s.laneEnv h
  let l := s.curW.lane
  let target := e.path.pc + f.off.signExtend 32
  let agree (k : Nat) : Bool :=
    e.path.mask.getLsbD k != e.path.mask.getLsbD (k + 16) || e.act.getLsbD k == e.act.getLsbD (k + 16)
  if (s.gridOf e.w).mirror && !(List.range 16).all agree then .next (mismatch s e.r e.path.pc.toNat)
  else if e.act = 0 then s.toLane e (l.setSlot e.one (e.path.next (e.path.pc + 1) h.s))
  else if e.act = e.path.mask then s.toLane e (l.setSlot e.one (e.path.next target h.s))
  else if (l.slot (!e.one)).st != .empty && decide (32 ≤ l.stack.length) then s.illegal (laneInfo (.lbra h f))
  else s.toLane e (splitPath l e h target)

/-- The state of both slots after an LJOIN of a path at its PC (R237). -/
def joinPath (l : LaneCtx) (one : Bool) : LaneCtx :=
  let x := l.slot one
  let o := l.slot (!one)
  let x1 := { x with cnt := x.cnt + 1 }
  if o.st == .wait && o.pc == x.pc then
    let oldOne := l.oneOlder
    let old := l.slot oldOne
    let m : Path := { st := .live, pc := x.pc + 1, mask := x.mask ||| o.mask, cnt := max x1.cnt o.cnt, age := old.age }
    ((l.setSlot oldOne m).setSlot (!oldOne) Path.none).pop (!oldOne)
  else if o.st == .live || o.st == .held then l.setSlot one { x1 with st := .wait }
  else if o.st == .empty && !l.stack.isEmpty then (l.setSlot one { x1 with st := .wait }).pop (!one)
  else l.setSlot one { x1 with pc := x.pc + 1 }

/-- LJOIN (R237, R480); a pair checks its lane state (R317). -/
def execLjoin (h : Hdr) (_f : LC) (s : State) : Out :=
  let e := s.laneEnv h
  s.checked true (laneSig s.curW.lane).toNat e.path.pc.toNat fun t => t.toLane e (bothWait (joinPath t.curW.lane e.one))

/-- LCALL (R481): the return lane PC, with the latency of a class 0x0 instruction. -/
def execLcall (h : Hdr) (f : LC) (s : State) : Out :=
  s.withRegs h [f.a] fun e =>
    let ret := (e.path.pc + 1).toNat
    let s1 := laneIssued s e tBasic [(false, num f.a)] []
    let s2 := writeDst s1 e.r (num f.a) 1 e.act ((lanesOf e.act).map fun l => (l, ret))
    .next (s2.setW { s2.curW with lane := s2.curW.lane.setSlot e.one (e.path.next (e.path.pc + f.off.signExtend 32) h.s) })

/-- LRET (R481): lanes with different targets are illegal. -/
def execLret (h : Hdr) (f : LC) (s : State) : Out :=
  s.withRegs h [f.a] fun e =>
    let val (l : Nat) : Nat := srcVal s e f.a l
    match lanesOf e.act with
    | [] => s.toLane e (s.curW.lane.setSlot e.one (e.path.next (e.path.pc + 1) h.s))
    | low :: _ =>
      let odd := maskOf fun l => e.act.getLsbD l && val l != val low
      if odd ≠ 0 then s.trap (laneTrap e 1 odd 0 (laneInfo (.lret h f)))
      else
        let t := laneIssued s e tPlain [] [f.a]
        .next (t.setW { t.curW with lane := t.curW.lane.setSlot e.one (e.path.next (BitVec.ofNat 32 (val low)) h.s) })

/-- LEXIT (R238, R482). -/
def execLexit (h : Hdr) (_f : L3) (s : State) : Out :=
  let e := s.laneEnv h
  let s1 := s.setW { s.curW with exited := s.curW.exited ||| e.act }
  let left := e.path.mask &&& ~~~e.act
  let l := s1.curW.lane
  if left = 0 then s1.toLane e (bothWait (emptySlot l e.one))
  else s1.toLane e (l.setSlot e.one { e.path.next (e.path.pc + 1) h.s with mask := left })

/-- NOP (R482). -/
def execNop (h : Hdr) (_f : L3) (s : State) : Out :=
  let e := s.laneEnv h
  .next (lanePath (laneIssued s e tOne [] []) e h)

end Sys2Proof.Machine
end

