-- ==== Sys2Proof/Machine/Dispatch.lean ====
section
/-! DEFINITION. The dispatch: one arm per operation, each one call of its meaning. -/
namespace Sys2Proof.Machine

/-- Execute an operation. -/
def exec (i : Instr) (s : State) : Host.Outcome State Fault Refusal :=
  match i with
  | .sadd d a b => Sys2Proof.Machine.execSadd d a b s
  | .ssub d a b => Sys2Proof.Machine.execSsub d a b s
  | .smul d a b => Sys2Proof.Machine.execSmul d a b s
  | .smulh d a b => Sys2Proof.Machine.execSmulh d a b s
  | .sand d a b => Sys2Proof.Machine.execSand d a b s
  | .sor d a b => Sys2Proof.Machine.execSor d a b s
  | .sxor d a b => Sys2Proof.Machine.execSxor d a b s
  | .sshl d a b => Sys2Proof.Machine.execSshl d a b s
  | .sshr d a b => Sys2Proof.Machine.execSshr d a b s
  | .ssra d a b => Sys2Proof.Machine.execSsra d a b s
  | .smin d a b => Sys2Proof.Machine.execSmin d a b s
  | .smax d a b => Sys2Proof.Machine.execSmax d a b s
  | .scmp c d a b => Sys2Proof.Machine.execScmp c d a b s
  | .sadd64 d a b => Sys2Proof.Machine.execSadd64 d a b s
  | .ssub64 d a b => Sys2Proof.Machine.execSsub64 d a b s
  | .saddi d a imm => Sys2Proof.Machine.execSaddi d a imm s
  | .sandi d a imm => Sys2Proof.Machine.execSandi d a imm s
  | .sori d a imm => Sys2Proof.Machine.execSori d a imm s
  | .sxori d a imm => Sys2Proof.Machine.execSxori d a imm s
  | .sshli d a n => Sys2Proof.Machine.execSshli d a n s
  | .sshri d a n => Sys2Proof.Machine.execSshri d a n s
  | .ssrai d a n => Sys2Proof.Machine.execSsrai d a n s
  | .slui d imm => Sys2Proof.Machine.execSlui d imm s
  | .sld d a mode off => Sys2Proof.Machine.execSld d a mode off s
  | .sst d a mode off => Sys2Proof.Machine.execSst d a mode off s
  | .sldc d a off w => Sys2Proof.Machine.execSldc d a off w s
  | .bra c a off => Sys2Proof.Machine.execBra c a off s
  | .jmp imm => Sys2Proof.Machine.execJmp imm s
  | .call imm => Sys2Proof.Machine.execCall imm s
  | .ret a => Sys2Proof.Machine.execRet a s
  | .loop c a off => Sys2Proof.Machine.execLoop c a off s
  | .vrun imm => Sys2Proof.Machine.execVrun imm s
  | .vrunr a => Sys2Proof.Machine.execVrunr a s
  | .syncl d => Sys2Proof.Machine.execSyncl d s
  | .synclResume d => Sys2Proof.Machine.execSynclResume d s
  | .swait b path => Sys2Proof.Machine.execSwait b path s
  | .bara d a => Sys2Proof.Machine.execBara d a s
  | .barw a b => Sys2Proof.Machine.execBarw a b s
  | .smon a => Sys2Proof.Machine.execSmon a s
  | .smwait d b => Sys2Proof.Machine.execSmwait d b s
  | .fence scope ord => Sys2Proof.Machine.execFence scope ord s
  | .racq a b => Sys2Proof.Machine.execRacq a b s
  | .racqAllDie a b => Sys2Proof.Machine.execRacqAllDie a b s
  | .racqAllDevice a => Sys2Proof.Machine.execRacqAllDevice a s
  | .rbget first count => Sys2Proof.Machine.execRbget first count s
  | .rbput first count => Sys2Proof.Machine.execRbput first count s
  | .phase a b cls => Sys2Proof.Machine.execPhase a b cls s
  | .rgn => Sys2Proof.Machine.execRgn s
  | .launch a => Sys2Proof.Machine.execLaunch a s
  | .feed a b scope => Sys2Proof.Machine.execFeed a b scope s
  | .copy a b scope => Sys2Proof.Machine.execCopy a b scope s
  | .copyResume a b scope => Sys2Proof.Machine.execCopyResume a b scope s
  | .nbr a b scope => Sys2Proof.Machine.execNbr a b scope s
  | .sread d num => Sys2Proof.Machine.execSread d num s
  | .swrite a num => Sys2Proof.Machine.execSwrite a num s
  | .trap code => Sys2Proof.Machine.execTrap code s
  | .eret => Sys2Proof.Machine.execEret s
  | .exit => Sys2Proof.Machine.execExit s
  | .iadd h f => Sys2Proof.Machine.execIadd h f s
  | .isub h f => Sys2Proof.Machine.execIsub h f s
  | .imul h f => Sys2Proof.Machine.execImul h f s
  | .imulh h f => Sys2Proof.Machine.execImulh h f s
  | .imad h f => Sys2Proof.Machine.execImad h f s
  | .imin h f => Sys2Proof.Machine.execImin h f s
  | .imax h f => Sys2Proof.Machine.execImax h f s
  | .iabs h f => Sys2Proof.Machine.execIabs h f s
  | .ineg h f => Sys2Proof.Machine.execIneg h f s
  | .iand h f => Sys2Proof.Machine.execIand h f s
  | .ior h f => Sys2Proof.Machine.execIor h f s
  | .ixor h f => Sys2Proof.Machine.execIxor h f s
  | .inot h f => Sys2Proof.Machine.execInot h f s
  | .ishl h f => Sys2Proof.Machine.execIshl h f s
  | .ishr h f => Sys2Proof.Machine.execIshr h f s
  | .isra h f => Sys2Proof.Machine.execIsra h f s
  | .irot h f => Sys2Proof.Machine.execIrot h f s
  | .iset h f => Sys2Proof.Machine.execIset h f s
  | .isel h f => Sys2Proof.Machine.execIsel h f s
  | .popc h f => Sys2Proof.Machine.execPopc h f s
  | .clz h f => Sys2Proof.Machine.execClz h f s
  | .brev h f => Sys2Proof.Machine.execBrev h f s
  | .bfx h f => Sys2Proof.Machine.execBfx h f s
  | .bfi h f => Sys2Proof.Machine.execBfi h f s
  | .mov h f => Sys2Proof.Machine.execMov h f s
  | .movi h f => Sys2Proof.Machine.execMovi h f s
  | .ladd h f => Sys2Proof.Machine.execLadd h f s
  | .lsub h f => Sys2Proof.Machine.execLsub h f s
  | .lshl h f => Sys2Proof.Machine.execLshl h f s
  | .lshr h f => Sys2Proof.Machine.execLshr h f s
  | .lsra h f => Sys2Proof.Machine.execLsra h f s
  | .lset h f => Sys2Proof.Machine.execLset h f s
  | .lmin h f => Sys2Proof.Machine.execLmin h f s
  | .lmax h f => Sys2Proof.Machine.execLmax h f s
  | .lmulw h f => Sys2Proof.Machine.execLmulw h f s
  | .lsel h f => Sys2Proof.Machine.execLsel h f s
  | .fadd h f => Sys2Proof.Machine.execFadd h f s
  | .fsub h f => Sys2Proof.Machine.execFsub h f s
  | .fmul h f => Sys2Proof.Machine.execFmul h f s
  | .ffma h f => Sys2Proof.Machine.execFfma h f s
  | .fmin h f => Sys2Proof.Machine.execFmin h f s
  | .fmax h f => Sys2Proof.Machine.execFmax h f s
  | .fset h f => Sys2Proof.Machine.execFset h f s
  | .frnd h f => Sys2Proof.Machine.execFrnd h f s
  | .fclass h f => Sys2Proof.Machine.execFclass h f s
  | .dadd h f => Sys2Proof.Machine.execDadd h f s
  | .dsub h f => Sys2Proof.Machine.execDsub h f s
  | .dmul h f => Sys2Proof.Machine.execDmul h f s
  | .dfma h f => Sys2Proof.Machine.execDfma h f s
  | .dmin h f => Sys2Proof.Machine.execDmin h f s
  | .dmax h f => Sys2Proof.Machine.execDmax h f s
  | .dset h f => Sys2Proof.Machine.execDset h f s
  | .drnd h f => Sys2Proof.Machine.execDrnd h f s
  | .hadd2 h f => Sys2Proof.Machine.execHadd2 h f s
  | .hmul2 h f => Sys2Proof.Machine.execHmul2 h f s
  | .hfma2 h f => Sys2Proof.Machine.execHfma2 h f s
  | .hmin2 h f => Sys2Proof.Machine.execHmin2 h f s
  | .hmax2 h f => Sys2Proof.Machine.execHmax2 h f s
  | .hset2 h f => Sys2Proof.Machine.execHset2 h f s
  | .cvt h f => Sys2Proof.Machine.execCvt h f s
  | .pk8 h f => Sys2Proof.Machine.execPk8 h f s
  | .upk8 h f => Sys2Proof.Machine.execUpk8 h f s
  | .pk16 h f => Sys2Proof.Machine.execPk16 h f s
  | .upk16 h f => Sys2Proof.Machine.execUpk16 h f s
  | .rcp h f => Sys2Proof.Machine.execRcp h f s
  | .rsq h f => Sys2Proof.Machine.execRsq h f s
  | .sqrt h f => Sys2Proof.Machine.execSqrt h f s
  | .ex2 h f => Sys2Proof.Machine.execEx2 h f s
  | .lg2 h f => Sys2Proof.Machine.execLg2 h f s
  | .sin h f => Sys2Proof.Machine.execSin h f s
  | .cos h f => Sys2Proof.Machine.execCos h f s
  | .tanh h f => Sys2Proof.Machine.execTanh h f s
  | .drcp h f => Sys2Proof.Machine.execDrcp h f s
  | .drsq h f => Sys2Proof.Machine.execDrsq h f s
  | .shfl h f => Sys2Proof.Machine.execShfl h f s
  | .bcast h f => Sys2Proof.Machine.execBcast h f s
  | .vote h f => Sys2Proof.Machine.execVote h f s
  | .redux h f => Sys2Proof.Machine.execRedux h f s
  | .fredux h f => Sys2Proof.Machine.execFredux h f s
  | .scan h f => Sys2Proof.Machine.execScan h f s
  | .matchL h f => Sys2Proof.Machine.execMatchL h f s
  | .elect h f => Sys2Proof.Machine.execElect h f s
  | .ld h f => Sys2Proof.Machine.execLd h f s
  | .st h f => Sys2Proof.Machine.execSt h f s
  | .ldc h f => Sys2Proof.Machine.execLdc h f s
  | .prf h f => Sys2Proof.Machine.execPrf h f s
  | .wbl h f => Sys2Proof.Machine.execWbl h f s
  | .invl h f => Sys2Proof.Machine.execInvl h f s
  | .atom h f => Sys2Proof.Machine.execAtom h f s
  | .cas h f => Sys2Proof.Machine.execCas h f s
  | .red h f => Sys2Proof.Machine.execRed h f s
  | .atomf h f => Sys2Proof.Machine.execAtomf h f s
  | .pand h f => Sys2Proof.Machine.execPand h f s
  | .por h f => Sys2Proof.Machine.execPor h f s
  | .pxor h f => Sys2Proof.Machine.execPxor h f s
  | .pnot h f => Sys2Proof.Machine.execPnot h f s
  | .lbra h f => Sys2Proof.Machine.execLbra h f s
  | .ljoin h f => Sys2Proof.Machine.execLjoin h f s
  | .lcall h f => Sys2Proof.Machine.execLcall h f s
  | .lret h f => Sys2Proof.Machine.execLret h f s
  | .lexit h f => Sys2Proof.Machine.execLexit h f s
  | .nop h f => Sys2Proof.Machine.execNop h f s
  | .mma h f => Sys2Proof.Machine.execMma h f s
  | .mmag h f => Sys2Proof.Machine.execMmag h f s
  | .mmaw h f => Sys2Proof.Machine.execMmaw h f s
  | .accz h f => Sys2Proof.Machine.execAccz h f s
  | .accld h f => Sys2Proof.Machine.execAccld h f s
  | .accst h f => Sys2Proof.Machine.execAccst h f s
  | .accmv h f => Sys2Proof.Machine.execAccmv h f s
  | .primout h f => Sys2Proof.Machine.execPrimout h f s
  | .binnext h f => Sys2Proof.Machine.execBinnext h f s
  | .rastq h f => Sys2Proof.Machine.execRastq h f s
  | .tex h f => Sys2Proof.Machine.execTex h f s
  | .ztest h f => Sys2Proof.Machine.execZtest h f s
  | .tilew h f => Sys2Proof.Machine.execTilew h f s
  | .tilerd h f => Sys2Proof.Machine.execTilerd h f s
  | .tilefl h f => Sys2Proof.Machine.execTilefl h f s
  | .registerWrite addr wide val sec => Sys2Proof.Machine.execRegisterWrite addr wide val sec s
  | .pkgpwrLimitWrite val => Sys2Proof.Machine.execPkgpwrLimitWrite val s
  | .powerWindowEnd avg => Sys2Proof.Machine.execPowerWindowEnd avg s
  | .supplyEvent milliVolt micros => Sys2Proof.Machine.execSupplyEvent milliVolt micros s
  | .supplyRestore milliVolt => Sys2Proof.Machine.execSupplyRestore milliVolt s
  | .thermalWarning site temp => Sys2Proof.Machine.execThermalWarning site temp s
  | .thermalStop site temp => Sys2Proof.Machine.execThermalStop site temp s
  | .thermalRestore site temp => Sys2Proof.Machine.execThermalRestore site temp s
  | .flitReplay site dir => Sys2Proof.Machine.execFlitReplay site dir s
  | .moduleDisable site dir modl => Sys2Proof.Machine.execModuleDisable site dir modl s
  | .routerReceive router hdr set slot => Sys2Proof.Machine.execRouterReceive router hdr set slot s
  | .requestTimeout w tag => Sys2Proof.Machine.execRequestTimeout w tag s
  | .memoryPortRequest site r => Sys2Proof.Machine.execMemoryPortRequest site r s
  | .uncorrectableError site e => Sys2Proof.Machine.execUncorrectableError site e s
  | .memoryCompletion w tag => Sys2Proof.Machine.execMemoryCompletion w tag s
  | .rtcmdGoSign val => Sys2Proof.Machine.execRtcmdGoSign val s
  | .rtcmdGoUnsigned val => Sys2Proof.Machine.execRtcmdGoUnsigned val s
  | .routeSignDone => Sys2Proof.Machine.execRouteSignDone s
  | .routerPrepare router => Sys2Proof.Machine.execRouterPrepare router s
  | .prepareAnswer router => Sys2Proof.Machine.execPrepareAnswer router s
  | .prepareTimeout router => Sys2Proof.Machine.execPrepareTimeout router s
  | .routeAbortRetry => Sys2Proof.Machine.execRouteAbortRetry s
  | .drainMarkerReceive src dst cls => Sys2Proof.Machine.execDrainMarkerReceive src dst cls s
  | .drainMarkerAck src dst cls => Sys2Proof.Machine.execDrainMarkerAck src dst cls s
  | .drainMarkerResend src dst cls => Sys2Proof.Machine.execDrainMarkerResend src dst cls s
  | .dieResetStart site => Sys2Proof.Machine.execDieResetStart site s
  | .neighborFence site dir => Sys2Proof.Machine.execNeighborFence site dir s
  | .dieFailure site => Sys2Proof.Machine.execDieFailure site s
  | .dieDownNotice site down => Sys2Proof.Machine.execDieDownNotice site down s
  | .dieRelease r => Sys2Proof.Machine.execDieRelease r s
  | .transientRequest site line write => Sys2Proof.Machine.execTransientRequest site line write s
  | .transientRequestReceive holder site line write => Sys2Proof.Machine.execTransientRequestReceive holder site line write s
  | .tokenReceive k => Sys2Proof.Machine.execTokenReceive k s
  | .transientRetry site line => Sys2Proof.Machine.execTransientRetry site line s
  | .persistentConvert site line => Sys2Proof.Machine.execPersistentConvert site line s
  | .persistentRequest home site line => Sys2Proof.Machine.execPersistentRequest home site line s
  | .persistentActivate home => Sys2Proof.Machine.execPersistentActivate home s
  | .activateReceive site line => Sys2Proof.Machine.execActivateReceive site line s
  | .deactivate site line => Sys2Proof.Machine.execDeactivate site line s
  | .persRebroadcast home line => Sys2Proof.Machine.execPersRebroadcast home line s
  | .clusterHeldAge site slice line => Sys2Proof.Machine.execClusterHeldAge site slice line s
  | .recreationSweep home line => Sys2Proof.Machine.execRecreationSweep home line s
  | .censusActivate site line => Sys2Proof.Machine.execCensusActivate site line s
  | .censusComplete line => Sys2Proof.Machine.execCensusComplete line s
  | .replicaRead site page entry => Sys2Proof.Machine.execReplicaRead site page entry s
  | .replicaDemote home page => Sys2Proof.Machine.execReplicaDemote home page s
  | .replicaInvalidate site page => Sys2Proof.Machine.execReplicaInvalidate site page s
  | .replicaDemoteDone home page => Sys2Proof.Machine.execReplicaDemoteDone home page s
  | .homeFlush site val => Sys2Proof.Machine.execHomeFlush site val s
  | .homeReplclr site val => Sys2Proof.Machine.execHomeReplclr site val s
  | .homeBadop site val => Sys2Proof.Machine.execHomeBadop site val s
  | .homeCmdDone site => Sys2Proof.Machine.execHomeCmdDone site s
  | .bootRom aOk bOk digest => Sys2Proof.Machine.execBootRom aOk bOk digest s
  | .bootHub aOk bOk digest => Sys2Proof.Machine.execBootHub aOk bOk digest s
  | .bootDies rs => Sys2Proof.Machine.execBootDies rs s
  | .bootSelftest rs => Sys2Proof.Machine.execBootSelftest rs s
  | .bootRoute => Sys2Proof.Machine.execBootRoute s
  | .bootKeys p => Sys2Proof.Machine.execBootKeys p s
  | .bootDone => Sys2Proof.Machine.execBootDone s
  | .getVersion => Sys2Proof.Machine.execGetVersion s
  | .getCapabilities => Sys2Proof.Machine.execGetCapabilities s
  | .negotiateAlgorithms asym hash meas => Sys2Proof.Machine.execNegotiateAlgorithms asym hash meas s
  | .getDigests => Sys2Proof.Machine.execGetDigests s
  | .getCertificate slot off len => Sys2Proof.Machine.execGetCertificate slot off len s
  | .challenge slot nonce => Sys2Proof.Machine.execChallenge slot nonce s
  | .getMeasurements op sign nonce => Sys2Proof.Machine.execGetMeasurements op sign nonce s
  | .spdmUnsupported code => Sys2Proof.Machine.execSpdmUnsupported code s
  | .secrangeWrite site n val sec => Sys2Proof.Machine.execSecrangeWrite site n val sec s
  | .secrangeZerofillDone site n => Sys2Proof.Machine.execSecrangeZerofillDone site n s
  | .bar2Read off size => Sys2Proof.Machine.execBar2Read off size s
  | .bar2Write off data => Sys2Proof.Machine.execBar2Write off data s
  | .sqStart q val sec => Sys2Proof.Machine.execSqStart q val sec s
  | .sqStop q val sec => Sys2Proof.Machine.execSqStop q val sec s
  | .sqDoorbell q val low sec => Sys2Proof.Machine.execSqDoorbell q val low sec s
  | .cqDoorbell q val low sec => Sys2Proof.Machine.execCqDoorbell q val low sec s
  | .gcpReadEntry q => Sys2Proof.Machine.execGcpReadEntry q s
  | .waitlistResolve g => Sys2Proof.Machine.execWaitlistResolve g s
  | .gridAdmit g => Sys2Proof.Machine.execGridAdmit g s
  | .notbeforeRelease site g => Sys2Proof.Machine.execNotbeforeRelease site g s
  | .teamPlace site => Sys2Proof.Machine.execTeamPlace site s
  | .runStart w => Sys2Proof.Machine.execRunStart w s
  | .runEnd w => Sys2Proof.Machine.execRunEnd w s
  | .issueSelect site core dt => Sys2Proof.Machine.execIssueSelect site core dt s
  | .starvationPromote w => Sys2Proof.Machine.execStarvationPromote w s
  | .matrixAccept site core pipe => Sys2Proof.Machine.execMatrixAccept site core pipe s
  | .rbgetServe site core => Sys2Proof.Machine.execRbgetServe site core s
  | .teamEnd team => Sys2Proof.Machine.execTeamEnd team s
  | .gridFinalStatus g => Sys2Proof.Machine.execGridFinalStatus g s
  | .completionEntryWrite q => Sys2Proof.Machine.execCompletionEntryWrite q s
  | .msixCoalesceTimeout q => Sys2Proof.Machine.execMsixCoalesceTimeout q s
  | .deadlineExpire g => Sys2Proof.Machine.execDeadlineExpire g s
  | .evtstatClear val => Sys2Proof.Machine.execEvtstatClear val s
  | .dalecPortChange port state => Sys2Proof.Machine.execDalecPortChange port state s
  | .peerRequestReceive port pkg r => Sys2Proof.Machine.execPeerRequestReceive port pkg r s
  | .peerRequestTimeout w tag => Sys2Proof.Machine.execPeerRequestTimeout w tag s
  | .ptpSync m twoStep => Sys2Proof.Machine.execPtpSync m twoStep s
  | .ptpAnnounce rank domain => Sys2Proof.Machine.execPtpAnnounce rank domain s
  | .ppsEdge ref => Sys2Proof.Machine.execPpsEdge ref s
  | .arpReply ip => Sys2Proof.Machine.execArpReply ip s
  | .timeSourceLoss => Sys2Proof.Machine.execTimeSourceLoss s
  | .tsetWrite val wide => Sys2Proof.Machine.execTsetWrite val wide s
  | .tctlWrite val => Sys2Proof.Machine.execTctlWrite val s
  | .frameOpen f val sec => Sys2Proof.Machine.execFrameOpen f val sec s
  | .frameAbort w sec => Sys2Proof.Machine.execFrameAbort w sec s
  | .gatePrimReceive site f n => Sys2Proof.Machine.execGatePrimReceive site f n s
  | .gateMarkerReceive site f draw team => Sys2Proof.Machine.execGateMarkerReceive site f draw team s
  | .gateObjectCheck site f => Sys2Proof.Machine.execGateObjectCheck site f s
  | .partialRenderDone site f => Sys2Proof.Machine.execPartialRenderDone site f s
  | .frameLatchWrite f => Sys2Proof.Machine.execFrameLatchWrite f s
  | .activityWindowEnd site core => Sys2Proof.Machine.execActivityWindowEnd site core s
  | .throttleEnd site core => Sys2Proof.Machine.execThrottleEnd site core s
  | .tlbiAll val sec => Sys2Proof.Machine.execTlbiAll val sec s
  | .tlbiRoot val sec => Sys2Proof.Machine.execTlbiRoot val sec s
  | .tlbiPage val sec => Sys2Proof.Machine.execTlbiPage val sec s
  | .tlbiDone => Sys2Proof.Machine.execTlbiDone s
  | .fqbaseEnable site world val sec => Sys2Proof.Machine.execFqbaseEnable site world val sec s
  | .fqcmdReplay site world val sec => Sys2Proof.Machine.execFqcmdReplay site world val sec s
  | .fqcmdKill site world val sec => Sys2Proof.Machine.execFqcmdKill site world val sec s
  | .faultStallRetry site world => Sys2Proof.Machine.execFaultStallRetry site world s
  | .windowAccess core r => Sys2Proof.Machine.execWindowAccess core r s
  | .qctlWrite site core k val => Sys2Proof.Machine.execQctlWrite site core k val s
  | .qstatClear site core k val => Sys2Proof.Machine.execQstatClear site core k val s
  | .promotionRequest site core line => Sys2Proof.Machine.execPromotionRequest site core line s
  | .watchFire w => Sys2Proof.Machine.execWatchFire w s
  | .smwaitTimeout w => Sys2Proof.Machine.execSmwaitTimeout w s
  | .feedRowAppend site core q => Sys2Proof.Machine.execFeedRowAppend site core q s
  | .engineComplete w tag => Sys2Proof.Machine.execEngineComplete w tag s
  | .sscbCompare w => Sys2Proof.Machine.execSscbCompare w s
  | .watchdogExpire w => Sys2Proof.Machine.execWatchdogExpire w s
  | .preempt val sec => Sys2Proof.Machine.execPreempt val sec s
  | .preemptComplete => Sys2Proof.Machine.execPreemptComplete s
  | .resume val sec => Sys2Proof.Machine.execResume val sec s
  | .teamRestore site => Sys2Proof.Machine.execTeamRestore site s
  | .matrixUnitFinish site core => Sys2Proof.Machine.execMatrixUnitFinish site core s
  | .grantedStart site core => Sys2Proof.Machine.execGrantedStart site core s
  | .ptpFollowUp m => Sys2Proof.Machine.execPtpFollowUp m s
  | .ptpDelayResp m => Sys2Proof.Machine.execPtpDelayResp m s
  | .ptpDelayReq => Sys2Proof.Machine.execPtpDelayReq s
  | .ppsseenExpire => Sys2Proof.Machine.execPpsseenExpire s
  | .endOfTeamMarkerAck team site => Sys2Proof.Machine.execEndOfTeamMarkerAck team site s
  | .frameOpenReceive site f => Sys2Proof.Machine.execFrameOpenReceive site f s
  | .frameOpenAck site f => Sys2Proof.Machine.execFrameOpenAck site f s
  | .censusMarkReceive site src line => Sys2Proof.Machine.execCensusMarkReceive site src line s
  | .hostConfigurationRequest write reg val => Sys2Proof.Machine.execHostConfigurationRequest write reg val s

end Sys2Proof.Machine
end

