-- ==== Sys2Proof/Machine/Auto.lean ====
section
/-! DEFINITION. What the part does next of itself, while no event from outside waits and no instruction has its turn: the first
pending internal event whose condition holds, else the passing of a clock (log 1). -/
namespace Sys2Proof.Machine

/-- The warp slots that hold warps. -/
def residents (s : State) : List WRef :=
  (s.warps.filter fun e => e.2.resident).map fun e => { site := e.1 / 4096, core := e.1 / 64 % 64, slot := e.1 % 64 }
/-- The core positions that hold something. -/
def busyCores (s : State) : List (Nat × Nat) := s.cores.map fun e => (e.1 / 64, e.1 % 64)
/-- Add a pair to a list that does not hold it. -/
def addOnce (l : List (Nat × Nat)) (x : Nat × Nat) : List (Nat × Nat) := if l.contains x then l else l ++ [x]

/-- The steps of the boot (R102), with the images in use and every check passed (log 1). -/
def bootEvents (s : State) : List (State → Out) :=
  match s.phase with
  | 0 => [execBootRom true true (Config.imageDigest 1)]
  | 1 => [execBootHub true true (Config.imageDigest 2)]
  | 2 => [execBootDies []]
  | 3 => [execBootSelftest []]
  | 4 => [execBootRoute]
  | 5 => [execBootKeys (Config.policy Config.ownerHash), execBootDone]
  | _ => []

/-- Routing updates, the drain of packets, and packets under way (R43 to R69, R98, R107, R115, R262). -/
def routeEvents (s : State) : List (State → Out) :=
  let routers := List.range 49
  let sites := List.range 48
  s.markers.flatMap (fun m => [execDrainMarkerReceive m.1 m.2.1 m.2.2, execDrainMarkerAck m.1 m.2.1 m.2.2]) ++
    s.mesh.map (fun m => execRouterReceive m.router m.hdr m.set m.slot) ++
    (if s.hub.upd.isSome then [execRouteAbortRetry, execRouteSignDone] ++ routers.map (fun r => execRouterPrepare r) ++
      routers.map (fun r => execPrepareAnswer r) else []) ++
    (sites.filter fun x => s.dieSt x == 4).flatMap (fun x =>
      (List.range 4).filterMap (fun p => (linkOf x p).map fun n => execNeighborFence n (backPort x p)) ++
        sites.map (fun n => execDieDownNotice n x) ++ [execDieRelease (testOf [] x)]) ++
    s.dies.flatMap (fun e => if e.2.home.isSome then [execHomeCmdDone e.1] else []) ++
    s.trust.fills.map (fun f => execSecrangeZerofillDone f.1 f.2.1) ++ [execTlbiDone]

/-- The token protocol, the census and replicas (R73 to R95). -/
def tokenEvents (s : State) : List (State → Out) :=
  let sites := List.range 48
  (List.range s.coh.length).map (fun i => execTokenReceive i) ++
    s.dies.flatMap (fun e => e.2.pend.flatMap fun p =>
      [execDeactivate e.1 p.line] ++ ((tokOf s p.line).dies.map fun d => execTransientRequestReceive d.1 e.1 p.line p.write) ++
        [execTransientRequestReceive (64 + homeOf p.line) e.1 p.line p.write, execTransientRetry e.1 p.line, execPersistentConvert e.1 p.line,
         execPersistentRequest (homeOf p.line) e.1 p.line]) ++
    s.dies.flatMap (fun e => (if e.2.arbQ.isEmpty then [] else [execPersistentActivate e.1]) ++
      e.2.arbAct.flatMap (fun a => sites.map fun x => execActivateReceive x a.line) ++
      e.2.held.flatMap (fun h => h.2.map fun x => execClusterHeldAge e.1 h.1 x.line) ++
      (if e.2.sweep.isEmpty then [] else s.tokens.map fun t => execRecreationSweep e.1 t.1) ++
      (e.2.repDir.filter fun r => r.gate).flatMap fun r => sites.map (fun x => execReplicaInvalidate x r.page) ++ [execReplicaDemoteDone e.1 r.page]) ++
    s.census.flatMap (fun c => sites.map (fun x => execCensusActivate x c.line) ++
      (sites.filter fun x => c.sites.getLsbD x).flatMap (fun x => (sites.filter fun y => c.sites.getLsbD y).map fun y => execCensusMarkReceive x y c.line) ++
      [execCensusComplete c.line])

/-- Queues, grids, teams and frames (R128 to R202, R350 to R356). -/
def gridEvents (s : State) : List (State → Out) :=
  let grids := s.hub.grids.map fun e => e.1
  let queues := s.hub.queues.map fun e => e.1
  let turn := (queues.filter fun q => s.hub.rr ≤ q) ++ queues.filter fun q => q < s.hub.rr
  let frames := List.range 16
  let sites := s.dies.map fun e => e.1
  grids.map (fun g => execDeadlineExpire g) ++ grids.map (fun g => execWaitlistResolve g) ++ grids.map (fun g => execGridAdmit g) ++
    turn.map (fun q => execGcpReadEntry q) ++ queues.map (fun q => execCompletionEntryWrite q) ++ queues.map (fun q => execMsixCoalesceTimeout q) ++
    s.hub.teams.map (fun e => execTeamEnd e.1) ++
    s.hub.teams.flatMap (fun e => (sitesOf e.2.marks).flatMap fun x =>
      [execEndOfTeamMarkerAck e.1 x] ++ match e.2.bound with | some b => [execGateMarkerReceive x b.1 b.2 e.2.t] | none => []) ++
    grids.map (fun g => execGridFinalStatus g) ++ (if s.hub.pe.isSome then [execPreemptComplete] else []) ++
    sites.flatMap (fun x => grids.map (fun g => execNotbeforeRelease x g) ++ [execTeamRestore x, execTeamPlace x, execFaultStallRetry x 0, execFaultStallRetry x 1]) ++
    (frames.filter fun f => s.frameSt f != 0 || (s.frame f).opening).flatMap (fun f =>
      (sitesOf (s.frame f).sites).flatMap (fun x =>
        [execFrameOpenReceive x f, execFrameOpenAck x f, execGateObjectCheck x f, execPartialRenderDone x f] ++
          (List.range s.prims.length).map fun i => execGatePrimReceive x f i) ++ [execFrameLatchWrite f])

/-- What happens at a core besides the issue of instructions (R169 to R173, R216 to R219, R487 to R500). -/
def coreEvents (s : State) : List (State → Out) :=
  (busyCores s).flatMap fun x =>
    let c := s.core x.1 x.2
    (if 1024 * (c.win + 1) ≤ c.clk then [execActivityWindowEnd x.1 x.2] else []) ++
      (if c.throttle != 0 && decide (c.throttle ≤ c.clk) then [execThrottleEnd x.1 x.2] else []) ++
      (if c.matQ.isEmpty then [] else [execMatrixUnitFinish x.1 x.2]) ++
      (if c.phase.isSome then [execGrantedStart x.1 x.2] else []) ++ [execMatrixAccept x.1 x.2 0, execMatrixAccept x.1 x.2 1] ++
      (if c.feeds.isEmpty then [] else (List.range 8).map fun q => execFeedRowAppend x.1 x.2 q) ++
      c.feeds.map (fun e => execEngineComplete e.w e.tag) ++ (if c.rbWait.isEmpty then [] else [execRbgetServe x.1 x.2])

/-- What happens to warps besides the issue of their instructions (R230 to R250, R307, R316, R349). -/
def warpEvents (s : State) : List (State → Out) :=
  s.dies.flatMap (fun e => e.2.copies.map fun x => execEngineComplete x.w x.tag) ++
    (residents s).flatMap fun r =>
      let w := s.wref r
      [execRunStart r, execRunEnd r] ++ w.ops.map (fun o => execMemoryCompletion r o.tag) ++
        (if w.sigs.isEmpty then [] else [execSscbCompare r]) ++ [execWatchFire r, execSmwaitTimeout r, execWatchdogExpire r, execStarvationPromote r]

/-- The core whose clock goes on next: those that hold warps or whose matrix unit works, in turn, or any core of the first die that is
UP. -/
def nextCore (s : State) : Nat × Nat :=
  let l := (residents s).foldl (fun l r => addOnce l (r.site, r.core)) ((busyCores s).filter fun x => !(s.core x.1 x.2).matQ.isEmpty)
  match l[s.rot % max 1 l.length]? with
  | some x => x
  | none =>
    match (List.range 48).find? fun x => s.dieUp x with
    | some x => (x, (match (List.range 48).find? fun c => s.coreOn x c with | some c => c | none => 0))
    | none => (0, 0)

/-- The first of a list of events whose condition holds, that is, which changes the state: the state it leaves. -/
def firstChange (s : State) : List (State → Out) → Option State
  | [] => none
  | e :: l =>
    match e s with
    | .next t => if t ≠ s then some t else firstChange s l
    | _ => firstChange s l

/-- Whether the next event is one of the package's power and thermal responses, which apply in a failed boot too (R103). -/
def powerNext (s : State) : Bool :=
  match s.agenda with
  | .powerWindowEnd _ :: _ | .supplyEvent _ _ :: _ | .supplyRestore _ :: _ => true
  | .thermalWarning _ _ :: _ | .thermalStop _ _ :: _ | .thermalRestore _ _ :: _ => true
  | _ => false

/-- What the part does next of itself (log 1): a pending internal event, else a clock passes and instructions are selected. -/
def autoStep (s : State) : Out :=
  match firstChange s (bootEvents s ++ routeEvents s ++ gridEvents s ++ coreEvents s ++ warpEvents s ++ tokenEvents s) with
  | some t => .next t
  | none => .next { (match execIssueSelect (nextCore s).1 (nextCore s).2 1 s with | .next t => t | _ => s) with rot := s.rot + 1 }

end Sys2Proof.Machine
end

