-- ==== Sys2Proof/Machine/Issue.lean ====
section
/-! DEFINITION. The issue of the instruction that has its turn: whether it may issue, its fetch, its decoding, its execution
(R226, R230, R263, R317, R318, R392 to R394). -/
namespace Sys2Proof.Machine

/-- Whether the turn still stands: its warp is there and may issue in that stream (R40, R41, R169, R351). -/
def turnOpen (s : State) : Bool :=
  let w := s.curW
  let c := s.curCore
  w.resident && s.dieUp s.cur.site && !s.hub.supply && !(s.die s.cur.site).stop && !s.awaits w &&
    (match s.cur.lane with
     | none => s.scalarMay w
     | some one =>
       (match w.park with | .fault _ _ _ => false | _ => true) && w.running.isSome && (w.lane.slot one).st == .live &&
         c.pipe (pipeOf s.cur.slot) == some s.cur.slot)

/-- The trap that a trailing warp must take with this turn (R317): not while its run has still to end, and a start entry that
is refused is taken with its run. -/
def trapDue (s : State) : Option LvqEnt :=
  let w := s.curW
  match s.role, trapHere w with
  | .trail _, some e =>
    let t := wordsTrap e.val.toNat
    if (w.running.isSome && !w.lane.live) || (t.code = 2 && !t.lane) then none else some e
  | _, _ => none

/-- What an instruction that has issued leaves besides its effect: its team has started, also where it trapped (R166, log 20), and a
scalar port is used (R169). -/
def issued (s t : State) : State :=
  let r := s.curRef
  let t1 := noteStarted t s.curW.team
  match s.cur.lane with
  | some _ => t1
  | none =>
    let t2 := selected t1 r.site r.core r.slot 64
    let c := t2.core r.site r.core
    let w := t2.wref r
    (t2.setCore r.site r.core { c with ports := c.ports - 1 }).setWref r { w with sOldest := false, sSince := c.clk }

/-- A scalar instruction that must wait was not ready for its port (R168, R169). -/
def notReady (s t : State) : State :=
  match s.cur.lane with
  | some _ => t
  | none => let r := s.curRef; t.setWref r { t.wref r with sSince := (t.core r.site r.core).clk }

/-- The instruction a fetched word holds, where it is a legal one (R392). -/
def legal (d : Decoded) : Option Instr :=
  match d with
  | .ok i => if wellFormed i then some i else none
  | .err _ => none

/-- Run a fetched scalar word (R392). -/
def runScalar (w : Word) (s : State) : Out :=
  match legal (decodeScalar w) with
  | some i => exec i s
  | none => s.illegal [w]

/-- Run a fetched lane word: an instruction at the 24th place of its path's count without the S bit is an illegal run, also
where it is no legal one (R230, R393). -/
def runLane (one : Bool) (w : BitVec 96) (s : State) : Out :=
  if (s.curW.lane.slot one).cnt = 23 && !w.getLsbD 85 then s.trap { scalarTrap 2 0 0 [] with lane := true, slot1 := one }
  else
    match legal (decodeLane w) with
    | some i => exec i s
    | none => s.illegal (word3 w)

/-- The PC of the instruction whose turn it is. -/
def State.turnPc (s : State) : Nat :=
  match s.cur.lane with
  | none => s.curW.pc.toNat
  | some one => (s.curW.lane.slot one).pc.toNat

/-- Act on what the fetch of the current turn gave (R50, R56, R263, R331, R394): a status other than OK is a memory fault, taken at the
instruction, for the spec gives a fetch no completion to report it at (log 20). -/
def runFetched (f : Fetched) (s : State) : Out :=
  let mask : Word := match s.cur.lane with | none => 0 | some one => (s.curW.lane.slot one).mask
  match f with
  | .word v =>
    (match s.cur.lane with
     | none => runScalar (BitVec.ofNat 32 v) s
     | some one => runLane one (BitVec.ofNat 96 v) s)
  | .beyond => s.illegal [0, 0, 0]
  | .page va reason level => .next (parkFault s s.curRef s.cur.lane [(va.toNat, reason, level, mask)] 2)
  | .perm va =>
    s.trap { code := 5, detail := 0, lane := s.cur.lane.isSome, slot1 := s.cur.lane == some true, async := false, fmask := mask, addr := va, info := [] }
  | .consumed pa => .next (consume s s.curRef s.turnPc pa)
  | .held => s.wait
  | .status va st =>
    s.trap { code := 8, detail := st, lane := s.cur.lane.isSome, slot1 := s.cur.lane == some true, async := false, fmask := mask, addr := va, info := [] }

/-- The instruction that a fetched word of the current turn's stream holds. -/
def Fetched.ins (f : Fetched) (lane : Bool) : Option Instr :=
  match f with
  | .word v => if lane then legal (decodeLane (BitVec.ofNat 96 v)) else legal (decodeScalar (BitVec.ofNat 32 v))
  | _ => none
/-- Whether an instruction transfers control, also to itself (R415, R416). -/
def transfers (i : Option Instr) : Bool :=
  match i with
  | some (.jmp _) | some (.bra _ _ _) | some (.call _) | some (.ret _) | some (.loop _ _ _) => true
  | _ => false
/-- Whether the instruction of a turn has issued: it has changed its warp, or is a transfer of control to itself. One that waits leaves
its warp as it was, but for where it drains, and one whose fetch meets a page fault has not issued (R226, R263). -/
def hasIssued (s t : State) (f : Fetched) : Bool :=
  let r := s.curRef
  match f with
  | .page _ _ _ => false
  | _ =>
    { t.wref r with drainAt := 0 } != { s.wref r with drainAt := 0 } ||
      (match s.role with
       | .lead sh => (t.wref sh).leadS != (s.wref sh).leadS || (t.wref sh).leadL != (s.wref sh).leadL
       | _ => transfers (f.ins s.cur.lane.isSome) && s.cur.lane.isNone)

/-- Whether the cause of a trap follows from the instruction and the registers, so that a trailing warp which executes it finds it too:
ILLEGAL, ILLRUN, REGBLOCK and TRAP, but for the instructions that read what they check from memory (R317). -/
def ownCause (t : TrapInfo) (i : Option Instr) : Bool :=
  !t.async && (t.code == 1 || t.code == 2 || t.code == 3 || t.code == 13) &&
    (match i with
     | some (.feed ..) | some (.copy ..) | some (.copyResume ..) | some (.nbr ..) | some (.launch _) | some (.bara ..) | some (.barw ..)
     | some (.mmag ..) => false
     | _ => true)

/-- The turn in which a trailing warp executes the instruction at which its leader has trapped: that of the trap's stream, and of its
lane PC slots that which the issue trace names where both are LIVE. -/
def trapTurn (s : State) (e : LvqEnt) : Turn :=
  let w := s.curW
  { s.cur with lane := if !e.lane then none else if w.lane.both then w.trace.head? else some (w.lane.s0.st != .live) }
/-- A trailing warp executes the instruction at which its leader has trapped (R317): it takes the trap that both raise; one that only
the leader's access or fetch could raise is its leader's; and one that it should have raised itself and did not is a mismatch. -/
def dueTrap (s : State) (e : LvqEnt) : Out :=
  let s0 := { s with cur := trapTurn s e }
  let r := s.curRef
  let t := wordsTrap e.val.toNat
  let (s1, f) := fetch s0
  match f, runFetched f s1 with
  | .page _ _ _, .next u => .next (if t.code = 4 then takeTrap s r none e else { u with cur := s.cur })
  | _, .next u =>
    if (u.wref r).lvq.contains e && (u.wref r).resident then
      .next (if ownCause t (f.ins s0.cur.lane.isSome) then mismatch s r s0.turnPc else takeTrap s r none e)
    else .next { u with cur := s.cur }
  | _, _ => .next (takeTrap s r none e)

/-- What the instruction of the current turn does, and whether it issues. -/
def attempt (s : State) : State × Bool :=
  match trapDue s with
  | some e => (match dueTrap s e with | .next t => (t, true) | _ => (s, true))
  | none =>
    if !s.pairReady then (s, false)
    else
      let (s1, f) := fetch s
      match runFetched f s1 with
      | .next t => (t, hasIssued s1 t f)
      | _ => (s1, false)

/-- Whether a turn has ended the team of its warp by a fatal trap (R340). -/
def fatalIn (s t : State) : Bool := !(s.team s.curW.team).fatal && (t.team s.curW.team).fatal
/-- Of the warps of a team that trap fatally in one clk the lowest is named, and each has its handler registers written (R340): `t` is
what this turn leaves. -/
def firstFatal (s t : State) : State :=
  let w := s.curW
  let here (x : Turn) : State := { s with cur := x }
  let rival (x : Turn) : Bool :=
    x.site == s.cur.site && x.core == s.cur.core && (here x).curW.team == w.team && decide ((here x).curW.wid < w.wid) && turnOpen (here x)
  match (orderBy (fun x => (here x).curW.wid) (s.turns.filter rival)).find? fun x => fatalIn s (attempt (here x)).1 with
  | none => t
  | some x =>
    let u := (attempt (here x)).1
    let g := s.gridOf w
    let va := imageVa g (s.team w.team) w.wid w.shadow + 0x260
    let who := dieWho s.cur.site 52 g.sec
    let u1 := match vmLoads t who g.root va 4 17 with | (_, .ok v) => (vmStores u who g.root va 4 v 17).1 | _ => u
    { u1 with cur := s.cur }

/-- The turn of the instruction named by `cur`, as it stands: a scalar one issues where a port is left (R169). -/
def issueOne (s : State) : Out :=
  if !turnOpen s then .next s
  else
    match s.cur.lane.isNone && s.curCore.ports == 0, attempt s with
    | true, (_, on) => .next (if on then s else notReady s s)
    | false, (t, true) => .next (issued s (if fatalIn s t then firstFatal s t else t))
    | false, (t, false) => .next (notReady s t)

/-- Whether the turn is out of order (R236): both slots are LIVE, and the one that it names issued last. -/
def outOfTurn (s : State) : Bool :=
  match s.cur.lane with
  | some one => s.curW.lane.s0.st == .live && s.curW.lane.s1.st == .live && s.curW.lastOne == one
  | none => false

/-- The turn of the instruction named by `cur`: of two LIVE slots the one that did not issue last goes first, and lets the other
issue where its next instruction must wait (R236). -/
def issue (s : State) : Out :=
  if outOfTurn s then
    match issueOne { s with cur := { s.cur with lane := s.cur.lane.map not } } with
    | .next t => if t.curW = s.curW then issueOne { t with cur := s.cur } else .next t
    | o => o
  else issueOne s

/-- Whether an operation is an event, and not an instruction of a program. -/
def isEvent (i : Instr) : Bool := instrBytes i == 0

/-- An event from outside, or one that the schedule names (log 1): one whose operands are out of range is none. -/
def event (i : Instr) (s : State) : Out := if isEvent i && wellFormed i then exec i s else .next s

end Sys2Proof.Machine
end

