-- ==== Sys2Proof/Machine/Step.lean ====
section
/-! DEFINITION. One step of the package. -/
namespace Sys2Proof.Machine

/-- One step (log 1): a boot that failed for good stops the machine, all but its power and thermal responses (R103); else the next event of the agenda, the next
turn of an instruction, or what the part does of itself. -/
def step (s : State) : Host.Outcome State Fault Refusal :=
  if s.trust.bootFail && !powerNext s then .fault .bootFailed
  else
    match s.agenda with
    | i :: l => event i { s with agenda := l }
    | [] =>
      match s.turns with
      | t :: l => issue { s with turns := l, cur := t }
      | [] => autoStep s

/-- The kernel descriptor of a program placed for the next step: scalar code at 0x80000, lane code at 0x90000. -/
def placedKd : BitVec 2048 :=
  BitVec.ofNat 2048 (1 + 1 * 2 ^ 32 + 1 * 2 ^ 40 + 0x80000 * 2 ^ 128 + 0x90000 * 2 ^ 192 + 2 ^ 25 * 2 ^ 320 + 2 ^ 26 * 2 ^ 352)

/-- The page that holds the placed program: virtual page 1 maps to the second page of site 0, readable, writable and
executable. -/
def placedTlb (root : Nat) (sec : Bool) : TlbEnt :=
  { root := root, sec := sec, big := false, vpage := 1, pte := BitVec.ofNat 64 (0x80000 + (if sec then 0x100 else 0) + 0xE1), entry := 0 }

/-- The state with an instruction where the next step fetches it (log 1): site 0 is UP, core position 0 has a warp in slot 0
whose next instruction it is, of the scalar stream for at most 32 bits and of a lane run otherwise. -/
def State.withFetchWord (s : State) (nbits w : Nat) : State :=
  let lane := decide (32 < nbits)
  let g : Grid := { Grid.none with st := .running }
  let t : Team := { Team.none with slots := [0], st := .running, kd := placedKd, ngran := 1, gran := 1 }
  let p : Path := { st := .live, pc := 0, mask := BitVec.allOnes 32, cnt := 0, age := 0 }
  let run : RunEnt := { resume := false, pc := 0, caps := [], enq := 0 }
  let x : Warp := { Warp.none with
    resident := true, pinned := 1, running := if lane then some run else none,
    lane := if lane then { LaneCtx.none with s0 := p, next := 1 } else LaneCtx.none }
  let c := s.core 0 0
  let c1 : Core := { c with
    ports := 2, tlb := [placedTlb 0 false], world := some false, pipe0 := if lane then some 0 else none
    places := FMap.set c.places 0 { valid := true, pinned := true, reserve := false, dirty := false, slot := 0, block := 0 }
    alloc := [{ first := 0, n := 3, team := 0 }] }
  let d := s.die 0
  let base := if lane then 0x90000 else 0x80000
  let bytes := if lane then leBytes 12 (w % 2 ^ nbits) else leBytes 4 (w % 2 ^ nbits)
  let s1 := ((((s.setReg (dstateA 0) 2).setReg (dcoreA 0) 1).setReg (dsliceA 0) 1).setCore 0 0 c1).setWarp 0 0 0 x
  let s2 := (s1.setDie 0 { d with stop := false }).setGrid 0 g
  let s3 := (List.range 8).foldl (fun u i => u.setReg (secrangeA 0 i) 0) (s2.setTeam 0 t)
  { s3 with
    agenda := [], turns := [{ site := 0, core := 0, slot := 0, lane := if lane then some false else none }]
    mem := writeList s3.mem base bytes
    poison := s3.poison.filter fun l => l != lineOf base
    hub := { s3.hub with supply := false, pe := none, bootOut := 0 }
    trust := { s3.trust with bootFail := false, fills := [] } }

end Sys2Proof.Machine
end

