-- ==== Sys2Proof/Safety.lean ====
section
/-! DEFINITION. What counts as a safe run, and the frames that claims speak of: what an instruction leaves alone. -/
namespace Sys2Proof.Machine

/-- A state from which the package goes on: its next step faults in nothing and refuses nothing. -/
def Safe (s : State) : Prop := ∃ t, step s = .next t

/-- Package, host and peer memory are in canonical form (log 3). -/
def State.Canonical (s : State) : Prop := Memory.wf s.mem = true ∧ Memory.wf s.hostMem = true ∧ Memory.wf s.peerMem = true

/-- The key of the slot whose instruction is being executed. -/
def State.curKey (s : State) : Nat := warpKey s.cur.site s.cur.core s.cur.slot

/-- A warp without what its pair keeps of it (R314 to R319): a warp that is alone has nothing there; and without the operation count at
its last draining instruction, which orders and shows nothing of its own (R290). -/
def Warp.plain (w : Warp) : Warp :=
  { w with lvq := [], sscb := [], sigs := [], trace := [], clks := [], nS := 0, nL := 0, leadS := 0, leadL := 0, signed := false, drainAt := 0 }

/-- Nothing but warps has changed, and of every warp but the one that executes nothing but what its pair keeps of it. All
memory, every register of a core, die or hub, and every other warp's registers are as before. -/
def OnlyWarp (s t : State) : Prop :=
  t = { s with warps := t.warps } ∧
    ∀ q : WRef, warpKey q.site q.core q.slot ≠ s.curKey → (t.wref q).plain = (s.wref q).plain

/-- The frame of a scalar instruction that writes scalar registers and goes on: of the warp, its scalar registers and its
scalar PC change, and it waits for nothing. -/
def ScalarFrame (s t : State) : Prop :=
  OnlyWarp s t ∧ t.curW.plain = { s.curW.plain with s := t.curW.s, pc := t.curW.pc, park := .none }

/-- The scalar PC is at the next word. -/
def NextWord (s t : State) : Prop := t.curW.pc = s.curW.pc + 1

/-- What register or temporary `n` of lane `l` of the executing warp holds (R271, R388). -/
def State.laneReg (s : State) (n l : Nat) : Word :=
  if n < 1536 then vreg s s.curRef n l else FMap.get 0 s.curW.t ((n - 1536) * 32 + l)

/-- The frame of a lane instruction that accesses no memory: of the package only warps and the register cache of its core
change, of other warps only what their pair keeps; of the core only the words of its register cache and which blocks are
dirty; of the warp only lane state, results not written back yet, predicates and temporaries. -/
def LaneFrame (s t : State) : Prop :=
  t = { s with warps := t.warps, cores := t.cores, free := t.free } ∧
    (∀ a b, coreKey a b ≠ coreKey s.cur.site s.cur.core → t.core a b = s.core a b) ∧
    t.curCore = { s.curCore with words := t.curCore.words, places := t.curCore.places } ∧
    (∀ q n l, vaddr t.curCore q n l = vaddr s.curCore q n l) ∧
    (∀ q : WRef, warpKey q.site q.core q.slot ≠ s.curKey → (t.wref q).plain = (s.wref q).plain) ∧
    t.curW.plain = { s.curW.plain with
      lane := t.curW.lane, haz := t.curW.haz, lastOne := t.curW.lastOne, p := t.curW.p, t := t.curW.t, tWr := t.curW.tWr }

/-- The path goes on to its next lane word, or is HELD there with the S bit (R230, R232). -/
def PathNext (s t : State) (h : Hdr) : Prop :=
  let e := s.laneEnv h
  t.curW.lane = s.curW.lane.setSlot e.one
    { e.path with pc := e.path.pc + 1, cnt := e.path.cnt + 1, st := if h.s then .held else e.path.st }

/-- The destination of `k` registers from `d` on holds `v` in the active lanes, 32 bits a register, the lowest first; every
other word of the core's register cache and every other temporary is as before (R361, R432). -/
def Writes (s t : State) (h : Hdr) (d k : Nat) (v : Nat → Nat) : Prop :=
  let hit (n l : Nat) : Prop := l < 32 ∧ (s.laneEnv h).act.getLsbD l = true ∧ d ≤ n ∧ n < d + k
  (∀ n l, hit n l → t.laneReg n l = BitVec.ofNat 32 (v l / 2 ^ (32 * (n - d)))) ∧
    (∀ a, (∀ n l, hit n l → n < 1536 → vaddr s.curCore s.cur.slot n l ≠ some a) →
      FMap.get 0 t.curCore.words a = FMap.get 0 s.curCore.words a) ∧
    (∀ n l, l < 32 → 1536 ≤ n → ¬ hit n l →
      FMap.get 0 t.curW.t ((n - 1536) * 32 + l) = FMap.get 0 s.curW.t ((n - 1536) * 32 + l))

/-- No register and no temporary changes. -/
def WritesNothing (s t : State) : Prop :=
  (∀ a, FMap.get 0 t.curCore.words a = FMap.get 0 s.curCore.words a) ∧ t.curW.t = s.curW.t ∧ t.curW.tWr = s.curW.tWr

/-- Predicates after an instruction: `v` says what predicate `q` reads in lane `l` where the instruction writes it (R432). -/
def Predicates (s t : State) (v : Nat → Nat → Option Bool) : Prop :=
  ∀ q l, l < 32 → (FMap.get 0 t.curW.p q).getLsbD l = (match v q l with | some b => b | none => (FMap.get 0 s.curW.p q).getLsbD l)

/-- The blocks of the registers that some operand fields name are pinned (R271), and each has its place in the register cache. -/
def Pinned (s : State) (fs : List (BitVec 13)) : Prop :=
  FMap.wf s.curCore.places = true ∧
    ∀ f ∈ fs, num f < 1536 → s.curW.pinned.getLsbD (num f / 32) = true ∧ (placeFind s.curCore s.cur.slot (num f / 32)).isSome = true

/-- A warp without the latches that an access of its own or of another requester can set: its watch's and its guard fault's. -/
def Warp.still (w : Warp) : Warp := { w with watch := Option.none, guard := Option.none }

/-- The frame of an instruction that makes an access: the hub's tables, the trust die and device time stay; of every other
warp nothing changes but those latches and what its pair keeps. -/
def AccessFrame (s t : State) : Prop :=
  t.cur = s.cur ∧ t.hub = s.hub ∧ t.trust = s.trust ∧ t.time = s.time ∧
    ∀ q : WRef, warpKey q.site q.core q.slot ≠ s.curKey → (t.wref q).plain.still = (s.wref q).plain.still

/-- A byte that an earlier store has written into an L1 or a slice, where it waits for its way to package memory (R281,
R297). -/
def State.pending (s : State) (a : Nat) : Prop :=
  (∃ i j, ∃ e ∈ (s.core i j).l1, e.1 = lineOf a ∧ e.2.dirty.getLsbD (a % 128) = true) ∨
    ∃ i k, ∃ h ∈ heldOf s i k, h.line = lineOf a ∧ h.mask.getLsbD (a % 128) = true

/-- The address of the page entry that a demotion of a REPLICATE page changes (R95): the one that the replica directory of its home
records, or that of the access's own translation. -/
def State.entryOf (s : State) (t : Tr) : Nat :=
  match (s.die (homeOf (lineOf t.pa))).repDir.find? fun x => x.page == t.page with
  | some r => r.entry
  | none => t.entry
/-- A byte of the page entry of a REPLICATE page, which a store to the page or a load behind a closed gate demotes (R95). -/
def State.demotes (s : State) (t : Tr) (a : Nat) : Prop := t.attr = 2 ∧ s.entryOf t ≤ a ∧ a < s.entryOf t + 8

/-- Every byte of package memory outside `P` is as before, unless an earlier store waited to write it; every byte of host and
peer memory is as before. -/
def SameOutside (s t : State) (P : Nat → Prop) : Prop :=
  (∀ a, ¬ P a → ¬ s.pending a → byteAt t.mem a = byteAt s.mem a) ∧ t.hostMem = s.hostMem ∧ t.peerMem = s.peerMem

/-- Every byte of package, host and peer memory is as before. -/
def SameMemory (s t : State) : Prop :=
  ∀ a, byteAt t.mem a = byteAt s.mem a ∧ byteAt t.hostMem a = byteAt s.hostMem a ∧ byteAt t.peerMem a = byteAt s.peerMem a

/-- Every register of the hub, of the dies and of the core control pages is as before. -/
def SameRegisters (s t : State) : Prop := ∀ a, t.reg a = s.reg a

/-- The value that a pair checks here agrees (R317): a warp alone checks nothing, a leader has room in the LVQ, a trailing
warp finds its leader's equal value. -/
def CheckAgrees (s : State) (lane : Bool) (v : Nat) : Prop :=
  match s.role with
  | .alone => True
  | .lead sh => lvqRoom s sh 1 = true
  | .trail _ => ∃ e l, takeLvq lane s.curW.lvq = some (e, l) ∧ e.check = true ∧ e.trap = false ∧ e.val = BitVec.ofNat 1024 v

/-- The value `v` that a pair receives here from outside (R314): a warp alone and a leader with room in the LVQ have it
themselves, a trailing warp finds it in the LVQ. -/
def OutsideGives (s : State) (own v : Nat) : Prop :=
  match s.role with
  | .alone => v = own
  | .lead sh => lvqRoom s sh 1 = true ∧ v = own
  | .trail _ => ∃ e l, takeLvq false s.curW.lvq = some (e, l) ∧ e.check = false ∧ v = e.val.toNat

end Sys2Proof.Machine
end

