-- ==== Sys2Proof/Certificates/Slice0/Obligations.lean ====
section
/-! DEFINITION. The statements for the provers, with the tables of the spec's rules that they speak of. -/
namespace Sys2Proof.Rules
open Sys2Proof.Machine

/-- The comparisons of SCMP and ISET by code (R407, R431). -/
def compares (c : Nat) {n : Nat} (a b : BitVec n) : Bool :=
  match c with
  | 0 => decide (a = b)
  | 1 => decide (a ≠ b)
  | 2 => decide (a.toInt < b.toInt)
  | 3 => decide (a.toInt ≤ b.toInt)
  | 4 => decide (a.toInt > b.toInt)
  | 5 => decide (a.toInt ≥ b.toInt)
  | 6 => decide (a.toNat < b.toNat)
  | 7 => decide (a.toNat ≤ b.toNat)
  | 8 => decide (a.toNat > b.toNat)
  | _ => decide (a.toNat ≥ b.toNat)

/-- The conditions of BRA and LOOP by code, on a register read as two's complement (R414). -/
def condition (c : Nat) (x : Int) : Bool :=
  match c with
  | 0 => true
  | 1 => decide (x = 0)
  | 2 => decide (x ≠ 0)
  | 3 => decide (x < 0)
  | 4 => decide (x ≥ 0)
  | 5 => decide (x > 0)
  | _ => decide (x ≤ 0)

/-- The lane stream is drained (R229): no run is enqueued or executing. -/
def Drained (w : Warp) : Prop := w.queue = [] ∧ w.running = none

/-- The lane state word (R228): bit 0 and bit 1 say that slot 0 and slot 1 are not EMPTY, the bits above hold the entries of
the divergence stack. -/
def laneStateWord (l : LaneCtx) : Word :=
  BitVec.ofNat 32 ((if l.s0.st = .empty then 0 else 1) + (if l.s1.st = .empty then 0 else 2) + 4 * l.stack.length)

/-- R407 to R409: the destination of a scalar instruction that writes one register, and its value from the warp's
registers. -/
def scalarResult (i : Instr) (w : Warp) : Option (BitVec 6 × Word) :=
  match i with
  | .sadd d a b => some (d, w.rd a + w.rd b)
  | .ssub d a b => some (d, w.rd a - w.rd b)
  | .smul d a b => some (d, w.rd a * w.rd b)
  | .smulh d a b => some (d, ((w.rd a).signExtend 64 * (w.rd b).signExtend 64).extractLsb' 32 32)
  | .sand d a b => some (d, w.rd a &&& w.rd b)
  | .sor d a b => some (d, w.rd a ||| w.rd b)
  | .sxor d a b => some (d, w.rd a ^^^ w.rd b)
  | .sshl d a b => some (d, w.rd a <<< ((w.rd b).extractLsb' 0 5).toNat)
  | .sshr d a b => some (d, w.rd a >>> ((w.rd b).extractLsb' 0 5).toNat)
  | .ssra d a b => some (d, (w.rd a).sshiftRight ((w.rd b).extractLsb' 0 5).toNat)
  | .smin d a b => some (d, if (w.rd a).toInt ≤ (w.rd b).toInt then w.rd a else w.rd b)
  | .smax d a b => some (d, if (w.rd a).toInt ≤ (w.rd b).toInt then w.rd b else w.rd a)
  | .scmp c d a b => some (d, if compares c.toNat (w.rd a) (w.rd b) then 1 else 0)
  | .saddi d a imm => some (d, w.rd a + imm.signExtend 32)
  | .sandi d a imm => some (d, w.rd a &&& imm.setWidth 32)
  | .sori d a imm => some (d, w.rd a ||| imm.setWidth 32)
  | .sxori d a imm => some (d, w.rd a ^^^ imm.setWidth 32)
  | .sshli d a n => some (d, w.rd a <<< n.toNat)
  | .sshri d a n => some (d, w.rd a >>> n.toNat)
  | .ssrai d a n => some (d, (w.rd a).sshiftRight n.toNat)
  | .slui d imm => some (d, imm.setWidth 32 <<< 12)
  | _ => none

/-- R415 and R416 with R414: where control goes (`true`: transferred), and the register written on the way. -/
def branchResult (i : Instr) (w : Warp) : Option (Bool × Word × Option (BitVec 6 × Word)) :=
  match i with
  | .bra c a off =>
    some (if condition c.toNat (w.rd a).toInt then (true, w.pc + off.signExtend 32, none) else (false, w.pc + 1, none))
  | .loop c a off =>
    let x := w.rd a - 1
    some (if condition c.toNat x.toInt then (true, w.pc + off.signExtend 32, some (a, x)) else (false, w.pc + 1, some (a, x)))
  | .jmp imm => some (true, w.pc + imm.signExtend 32, none)
  | .call imm => some (true, w.pc + imm.signExtend 32, some (62, w.pc + 1))
  | .ret a => some (true, w.rd a, none)
  | _ => none

/-- An `n`-bit source read per U (R434). -/
def reads (u : Bool) (n x : Nat) : Int := if u then x else (BitVec.ofNat n x).toInt

/-- An exact integer clamped per U with SAT, then written modulo 2^n (R434, R439). -/
def narrowed (sat u : Bool) (n : Nat) (x : Int) : Nat :=
  let lo : Int := if u then 0 else -(2 ^ (n - 1))
  let hi : Int := if u then 2 ^ n - 1 else 2 ^ (n - 1) - 1
  (BitVec.ofInt n (if sat then (if x < lo then lo else if hi < x then hi else x) else x)).toNat

/-- What a lane instruction gives: its control bits, its destination, the other register operands it names, and its value in
each lane. -/
abbrev LaneValue := Hdr × BitVec 13 × List (BitVec 13) × (Nat → Nat)

/-- The result of a lane instruction on two sources. -/
def on2 (s : State) (h : Hdr) (f : L3) (v : Nat → Nat → Nat) : LaneValue :=
  (h, f.d, [f.a, f.b], fun l => v (srcVal s (s.laneEnv h) f.a l) (srcVal s (s.laneEnv h) f.b l))
/-- The result of a lane instruction on one source. -/
def on1 (s : State) (h : Hdr) (f : L3) (v : Nat → Nat) : LaneValue := (h, f.d, [f.a], fun l => v (srcVal s (s.laneEnv h) f.a l))
/-- The result of a lane instruction on three sources. -/
def on3 (s : State) (h : Hdr) (f : L3) (v : Nat → Nat → Nat → Nat) : LaneValue :=
  (h, f.d, [f.a, f.b, f.c],
    fun l => v (srcVal s (s.laneEnv h) f.a l) (srcVal s (s.laneEnv h) f.b l) (srcVal s (s.laneEnv h) f.c l))

/-- An arithmetic instruction on `n`-bit integers (R434, R439). -/
def arith (s : State) (h : Hdr) (f : L3) (n : Nat) (op : Int → Int → Int) : LaneValue :=
  on2 s h f fun a b => narrowed (satOf f.m) (natOf f.m) n (op (reads (natOf f.m) n a) (reads (natOf f.m) n b))

/-- Position and length of the field of BFX and BFI (R437). -/
def fieldAtOf (b : Nat) : Nat × Nat := (b % 32, min (b / 256 % 64) (32 - b % 32))

/-- R434 to R439: the values of the integer lane instructions. -/
def integerValue (s : State) : Instr → Option LaneValue
  | .iadd h f => some (arith s h f 32 (· + ·))
  | .isub h f => some (arith s h f 32 (· - ·))
  | .imul h f => some (arith s h f 32 (· * ·))
  | .imulh h f => some (arith s h f 32 fun a b => a * b / 2 ^ 32)
  | .imad h f =>
    let u := natOf f.m
    some (on3 s h f fun a b c => narrowed (satOf f.m) u 32 (reads u 32 a * reads u 32 b + reads u 32 c))
  | .imin h f => some (arith s h f 32 fun a b => if a ≤ b then a else b)
  | .imax h f => some (arith s h f 32 fun a b => if a ≤ b then b else a)
  | .iabs h f => some (on1 s h f fun a => narrowed (satOf f.m) false 32 |reads false 32 a|)
  | .ineg h f => some (on1 s h f fun a => narrowed (satOf f.m) false 32 (-reads false 32 a))
  | .iand h f => some (on2 s h f fun a b => a &&& b)
  | .ior h f => some (on2 s h f fun a b => a ||| b)
  | .ixor h f => some (on2 s h f fun a b => a ^^^ b)
  | .inot h f => some (on1 s h f fun a => 2 ^ 32 - 1 - a)
  | .ishl h f => some (on2 s h f fun a b => a * 2 ^ (b % 32) % 2 ^ 32)
  | .ishr h f => some (on2 s h f fun a b => a / 2 ^ (b % 32))
  | .isra h f => some (on2 s h f fun a b => narrowed false false 32 (reads false 32 a / 2 ^ (b % 32)))
  | .irot h f => some (on2 s h f fun a b => a * 2 ^ (b % 32) % 2 ^ 32 + a / 2 ^ (32 - b % 32))
  | .isel h f => some (h, f.d, [f.a, f.b], fun l =>
      if (predMask s s.curW (num f.c)).getLsbD l then srcVal s (s.laneEnv h) f.a l else srcVal s (s.laneEnv h) f.b l)
  | .popc h f => some (on1 s h f fun a => ((List.range 32).filter fun i => a.testBit i).length)
  | .clz h f => some (on1 s h f fun a => ((List.range 32).takeWhile fun i => !a.testBit (31 - i)).length)
  | .brev h f => some (on1 s h f fun a => (BitVec.ofNat 32 a).reverse.toNat)
  | .bfx h f => some (on2 s h f fun a b =>
      let (pos, n) := fieldAtOf b
      if n = 0 then 0 else narrowed false false 32 (reads (natOf f.m) n (a / 2 ^ pos % 2 ^ n)))
  | .bfi h f => some (on3 s h f fun a b c =>
      let (pos, n) := fieldAtOf b
      c / 2 ^ (pos + n) * 2 ^ (pos + n) + a % 2 ^ n * 2 ^ pos + c % 2 ^ pos)
  | .mov h f => some (on1 s h f id)
  | .movi h f => some (h, f.d, [], fun _ => f.imm.toNat)
  | .ladd h f => some (arith s h f 64 (· + ·))
  | .lsub h f => some (arith s h f 64 (· - ·))
  | .lshl h f => some (on2 s h f fun a b => a * 2 ^ (b % 64) % 2 ^ 64)
  | .lshr h f => some (on2 s h f fun a b => a / 2 ^ (b % 64))
  | .lsra h f => some (on2 s h f fun a b => narrowed false false 64 (reads false 64 a / 2 ^ (b % 64)))
  | .lmin h f => some (arith s h f 64 fun a b => if a ≤ b then a else b)
  | .lmax h f => some (arith s h f 64 fun a b => if a ≤ b then b else a)
  | .lmulw h f => some (on2 s h f fun a b => narrowed false false 64 (reads (natOf f.m) 32 a * reads (natOf f.m) 32 b))
  | .lsel h f => some (h, f.d, [f.a, f.b], fun l =>
      if (predMask s s.curW (num f.c)).getLsbD l then srcVal s (s.laneEnv h) f.a l else srcVal s (s.laneEnv h) f.b l)
  | _ => none

/-- R441: the exact result of two sources of a format, rounded once. -/
def rounded2 (s : State) (h : Hdr) (f : L3) (g : Fmt) (op : Nat → Exact → Exact → Exact) : LaneValue :=
  on2 s h f fun a b => g.round (rmOf f.m) (satOf f.m) (op (rmOf f.m) (g.read a) (g.read b))
/-- R441: the product and the sum of three sources, rounded once. -/
def fused (s : State) (h : Hdr) (f : L3) (g : Fmt) : LaneValue :=
  on3 s h f fun a b c => g.round (rmOf f.m) (satOf f.m) (((g.read a).mul (g.read b)).add (rmOf f.m) (g.read c))
/-- Both elements of a paired operation (R444). -/
def paired (op : Nat → Nat → Nat → Nat) (a b c : Nat) : Nat :=
  op (a % 2 ^ 16) (b % 2 ^ 16) (c % 2 ^ 16) % 2 ^ 16 + 2 ^ 16 * (op (a / 2 ^ 16) (b / 2 ^ 16) (c / 2 ^ 16) % 2 ^ 16)
/-- A source of a paired operation under the BF16 exception of R368, and its rounding. -/
def pairedRound (f : L3) (op : Nat → Exact → Exact → Exact → Exact) (a b c : Nat) : Nat :=
  let g := fmt (fmtOf f.m)
  let rd := g.readFlush (fmtOf f.m == 3)
  g.roundFlush (fmtOf f.m == 3) (rmOf f.m) (satOf f.m) (op (rmOf f.m) (rd a) (rd b) (rd c))

/-- R440 to R444: the values of the floating-point lane instructions. -/
def floatValue (s : State) : Instr → Option LaneValue
  | .fadd h f => some (rounded2 s h f (fmt 0) Exact.add)
  | .fsub h f => some (rounded2 s h f (fmt 0) fun rm x y => x.add rm y.neg)
  | .fmul h f => some (rounded2 s h f (fmt 0) fun _ => Exact.mul)
  | .ffma h f => some (fused s h f (fmt 0))
  | .fmin h f => some (on2 s h f (fmt 0).min)
  | .fmax h f => some (on2 s h f (fmt 0).max)
  | .frnd h f => some (on1 s h f ((fmt 0).integral (rmOf f.m)))
  | .fclass h f => some (on1 s h f (fmt 0).classify)
  | .dadd h f => some (rounded2 s h f (fmt 1) Exact.add)
  | .dsub h f => some (rounded2 s h f (fmt 1) fun rm x y => x.add rm y.neg)
  | .dmul h f => some (rounded2 s h f (fmt 1) fun _ => Exact.mul)
  | .dfma h f => some (fused s h f (fmt 1))
  | .dmin h f => some (on2 s h f (fmt 1).min)
  | .dmax h f => some (on2 s h f (fmt 1).max)
  | .drnd h f => some (on1 s h f ((fmt 1).integral (rmOf f.m)))
  | .hadd2 h f => some (on2 s h f fun a b => paired (pairedRound f fun rm x y _ => x.add rm y) a b 0)
  | .hmul2 h f => some (on2 s h f fun a b => paired (pairedRound f fun _ x y _ => x.mul y) a b 0)
  | .hfma2 h f => some (on3 s h f (paired (pairedRound f fun rm x y z => (x.mul y).add rm z)))
  | .hmin2 h f => some (on2 s h f fun a b => paired (fun x y _ => (fmt (fmtOf f.m)).min x y) a b 0)
  | .hmax2 h f => some (on2 s h f fun a b => paired (fun x y _ => (fmt (fmtOf f.m)).max x y) a b 0)
  | _ => none

/-- The format that PK8, UPK8, PK16 and UPK16 convert to and from: FP32 or INT32 (R447). -/
def packWide (k : Nat) : Nat := if isFloat k then 0 else 8

/-- R445 to R450: the values of the conversions, the packing instructions and the special functions. -/
def convertValue (s : State) : Instr → Option LaneValue
  | .cvt h f => some (on1 s h f fun a => spread (fmtOf f.m) (convert (fmtOf f.m) (sfmtOf f.m) (rmOf f.m) (satOf f.m) a))
  | .pk8 h f =>
    let c (x : Nat) : Nat := convert (fmtOf f.m) (packWide (fmtOf f.m)) (rmOf f.m) (satOf f.m) (x % 2 ^ 32) % 2 ^ 8
    some (on1 s h f fun a => c a + 2 ^ 8 * c (a / 2 ^ 32) + 2 ^ 16 * c (a / 2 ^ 64) + 2 ^ 24 * c (a / 2 ^ 96))
  | .upk8 h f =>
    let c (x : Nat) : Nat := convert (packWide (fmtOf f.m)) (fmtOf f.m) 0 false (x % 2 ^ 8) % 2 ^ 32
    some (on1 s h f fun a => c a + 2 ^ 32 * c (a / 2 ^ 8) + 2 ^ 64 * c (a / 2 ^ 16) + 2 ^ 96 * c (a / 2 ^ 24))
  | .pk16 h f =>
    let c (x : Nat) : Nat := convert (fmtOf f.m) (packWide (fmtOf f.m)) (rmOf f.m) (satOf f.m) (x % 2 ^ 32) % 2 ^ 16
    some (on1 s h f fun a => c a + 2 ^ 16 * c (a / 2 ^ 32))
  | .upk16 h f =>
    let c (x : Nat) : Nat := convert (packWide (fmtOf f.m)) (fmtOf f.m) 0 false (x % 2 ^ 16) % 2 ^ 32
    some (on1 s h f fun a => c a + 2 ^ 32 * c (a / 2 ^ 16))
  | .rcp h f => some (on1 s h f (sfu 0 (rmOf f.m) (satOf f.m)))
  | .rsq h f => some (on1 s h f (sfu 1 (rmOf f.m) (satOf f.m)))
  | .sqrt h f => some (on1 s h f (sfu 2 (rmOf f.m) (satOf f.m)))
  | .ex2 h f => some (on1 s h f (sfu 3 (rmOf f.m) (satOf f.m)))
  | .lg2 h f => some (on1 s h f (sfu 4 (rmOf f.m) (satOf f.m)))
  | .sin h f => some (on1 s h f (sfu 5 (rmOf f.m) (satOf f.m)))
  | .cos h f => some (on1 s h f (sfu 6 (rmOf f.m) (satOf f.m)))
  | .tanh h f => some (on1 s h f (sfu 7 (rmOf f.m) (satOf f.m)))
  | .drcp h f => some (on1 s h f (sfu 8 (rmOf f.m) (satOf f.m)))
  | .drsq h f => some (on1 s h f (sfu 9 (rmOf f.m) (satOf f.m)))
  | _ => none

/-- Lanes of a group: 16 under MIRROR, else 32 (R452). -/
def groupOf (s : State) : Nat := if (s.gridOf s.curW).mirror then 16 else 32
/-- The active lanes of lane `l`'s group, in ascending order (R452). -/
def groupmates (s : State) (h : Hdr) (l : Nat) : List Nat :=
  (List.range 32).filter fun k => (s.laneEnv h).act.getLsbD k && k / groupOf s == l / groupOf s
/-- The mask of the lanes of a group for which a condition holds, in group bits (R452). -/
def groupMask (s : State) (h : Hdr) (l : Nat) (p : Nat → Bool) : Nat :=
  (((groupmates s h l).filter p).map fun k => 2 ^ (k % groupOf s)).sum
/-- The lane that SHFL takes the value of lane `l` from (R453). -/
def shuffleSource (s : State) (h : Hdr) (f : L3) (l : Nat) : Option Nat :=
  let n := groupOf s
  let k := srcVal s (s.laneEnv h) f.b l % 32
  let g := if 2 ^ segOf f.m < n then 2 ^ segOf f.m else n
  let base := l - l % g
  let at? : Option Nat := match modeOf f.m with
    | 0 => some (base + k % g)
    | 1 => if base + k ≤ l then some (l - k) else none
    | 2 => if l + k < base + g then some (l + k) else none
    | _ => some (base + ((l - base) ^^^ (k % g)))
  at?.filter fun x => (s.laneEnv h).act.getLsbD x

/-- R454 to R459: the values of the cross-lane instructions that write a register. -/
def crossValue (s : State) : Instr → Option LaneValue
  | .bcast h f => some (h, f.d, [f.a, f.b], fun l =>
      match groupmates s h l with
      | [] => 0
      | low :: _ =>
        let lane := l / groupOf s * groupOf s + srcVal s (s.laneEnv h) f.b low % groupOf s
        if (s.laneEnv h).act.getLsbD lane then srcVal s (s.laneEnv h) f.a lane else 0)
  | .vote h f =>
    if modeOf f.m = 3 then some (h, f.d, [], fun l => groupMask s h l fun k => (predMask s s.curW (num f.a)).getLsbD k) else none
  | .redux h f => some (h, f.d, [f.a], fun l =>
      ((groupmates s h l).map fun k => srcVal s (s.laneEnv h) f.a k).foldl (combine f.m) (identity f.m))
  | .scan h f => some (h, f.d, [f.a], fun l =>
      (((groupmates s h l).filter fun k => decide (k < l) || (!f.m.getLsbD 14 && k == l)).map fun k => srcVal s (s.laneEnv h) f.a k).foldl
        (combine f.m) (identity f.m))
  | .fredux h f =>
    let g := fmt (fmtOf f.m)
    let op : Nat → Nat → Nat :=
      if modeOf f.m = 0 then fun a b => g.round (rmOf f.m) (satOf f.m) ((g.read a).add (rmOf f.m) (g.read b))
      else if modeOf f.m = 1 then g.min else g.max
    some (h, f.d, [f.a], fun l =>
      let base := l / groupOf s * groupOf s
      let leaf (k : Nat) : Option Nat := if (s.laneEnv h).act.getLsbD k then some (srcVal s (s.laneEnv h) f.a k) else none
      (treeRoot op 5 ((List.range (groupOf s)).map fun i => leaf (base + i))).getD 0)
  | .matchL h f => some (h, f.d, [f.a], fun l =>
      groupMask s h l fun k => srcVal s (s.laneEnv h) f.a k == srcVal s (s.laneEnv h) f.a l)
  | _ => none

/-- A comparison of two floating-point values by its code: none but NE holds with a NaN (R369, R442). -/
def comparesFloat (g : Fmt) (c a b : Nat) : Bool :=
  if g.isNan a || g.isNan b then decide (c = 1)
  else match c with
    | 0 => decide (g.value a = g.value b)
    | 1 => decide (g.value a ≠ g.value b)
    | 2 => decide (g.value a < g.value b)
    | 3 => decide (g.value a ≤ g.value b)
    | 4 => decide (g.value a > g.value b)
    | _ => decide (g.value a ≥ g.value b)

/-- What a lane instruction gives predicates: its control bits, the register operands it names, and the predicates it
writes with their bit in each lane. -/
abbrev PredValue := Hdr × List (BitVec 13) × List (Nat × (Nat → Bool))

/-- R436, R439, R442, R444, R455, R459, R478: the predicates that lane instructions write. -/
def predValue (s : State) : Instr → Option PredValue
  | .iset h f => some (h, [f.a, f.b], [(num f.d, fun l =>
      compares (cmpOf f.m) (BitVec.ofNat 32 (srcVal s (s.laneEnv h) f.a l)) (BitVec.ofNat 32 (srcVal s (s.laneEnv h) f.b l)))])
  | .lset h f => some (h, [f.a, f.b], [(num f.d, fun l =>
      compares (cmpOf f.m) (BitVec.ofNat 64 (srcVal s (s.laneEnv h) f.a l)) (BitVec.ofNat 64 (srcVal s (s.laneEnv h) f.b l)))])
  | .fset h f => some (h, [f.a, f.b], [(num f.d, fun l =>
      comparesFloat (fmt 0) (cmpOf f.m) (srcVal s (s.laneEnv h) f.a l) (srcVal s (s.laneEnv h) f.b l))])
  | .dset h f => some (h, [f.a, f.b], [(num f.d, fun l =>
      comparesFloat (fmt 1) (cmpOf f.m) (srcVal s (s.laneEnv h) f.a l) (srcVal s (s.laneEnv h) f.b l))])
  | .hset2 h f =>
    let half (i l : Nat) : Bool :=
      comparesFloat (fmt (fmtOf f.m)) (cmpOf f.m) (srcVal s (s.laneEnv h) f.a l / 2 ^ (16 * i) % 2 ^ 16)
        (srcVal s (s.laneEnv h) f.b l / 2 ^ (16 * i) % 2 ^ 16)
    some (h, [f.a, f.b], [(num f.d, half 0), (num f.c, half 1)])
  | .vote h f =>
    let p (k : Nat) : Bool := (predMask s s.curW (num f.a)).getLsbD k
    if modeOf f.m = 0 then some (h, [], [(num f.d, fun l => (groupmates s h l).all p)])
    else if modeOf f.m = 1 then some (h, [], [(num f.d, fun l => (groupmates s h l).any p)])
    else if modeOf f.m = 2 then some (h, [], [(num f.d, fun l => (groupmates s h l).all p || (groupmates s h l).all fun k => !p k)])
    else none
  | .elect h f => some (h, [], [(num f.d, fun l => (groupmates s h l).head? == some l)])
  | .pand h f => some (h, [], [(num f.d, fun l =>
      (predMask s s.curW (num f.a)).getLsbD l && (predMask s s.curW (num f.b)).getLsbD l)])
  | .por h f => some (h, [], [(num f.d, fun l =>
      (predMask s s.curW (num f.a)).getLsbD l || (predMask s s.curW (num f.b)).getLsbD l)])
  | .pxor h f => some (h, [], [(num f.d, fun l =>
      (predMask s s.curW (num f.a)).getLsbD l ^^ (predMask s s.curW (num f.b)).getLsbD l)])
  | .pnot h f => some (h, [], [(num f.d, fun l => !(predMask s s.curW (num f.a)).getLsbD l)])
  | _ => none

/-- A lane instruction completes: its path goes on, its destination holds the value in each active lane, and nothing else
changes. -/
def CompletesWith (s : State) (i : Instr) (x : LaneValue) : Prop :=
  ∃ t, exec i s = .next t ∧ LaneFrame s t ∧ PathNext s t x.1 ∧ Writes s t x.1 (num x.2.1) (regCount x.2.1) x.2.2.2 ∧
    Predicates s t fun _ _ => none

/-- A warp that makes its accesses itself: alone, or the leader of a pair with room in the LVQ (R314, R318). -/
def Issues (s : State) : Prop := s.role = .alone ∨ ∃ sh, s.role = .lead sh ∧ lvqRoom s sh 1 = true

/-- What the checks of a scalar access of the executing warp answer, and the state that its walk leaves (R255, R411). -/
def scalarCheck (s : State) (va : DWord) (size : Nat) (k : Acc) : State × Checked :=
  checkVa s s.cur.site (some s.cur.core) (s.gridOf s.curW).root (s.gridOf s.curW).sec va size k

/-- The address of SLD and SST: the pair and the signed offset in access sizes of 1, 2, 4 or 8 bytes (R410, R411). -/
def sldAddress (w : Warp) (a mode : BitVec 6) (off : BitVec 8) : DWord :=
  w.rdPair a + off.signExtend 64 * BitVec.ofNat 64 (2 ^ (mode.toNat % 4))
/-- The bytes of an access of SLD and SST (R410). -/
def sldSize (mode : BitVec 6) : Nat := 2 ^ (mode.toNat % 4)
/-- The scope of an access of SLD and SST (R410). -/
def sldScope (mode : BitVec 6) : Nat := mode.toNat / 8

/-- The barrier word after an arrival (R242): ARRIVED in bits 15 to 0, EXPECT in 31 to 16, GEN in 47 to 32. -/
def arrived (word teamSize : Nat) : Nat :=
  let arr := word % 2 ^ 16
  let expect := word / 2 ^ 16 % 2 ^ 16
  let gen := word / 2 ^ 32 % 2 ^ 16
  if (if expect ≠ 0 then expect else teamSize) ≤ arr + 1 then ((gen + 1) % 2 ^ 16) * 2 ^ 32 + expect * 2 ^ 16
  else gen * 2 ^ 32 + expect * 2 ^ 16 + (arr + 1)

/-- A translated place is a barrier word of the executing warp's team (R245): in the data granules of its scratchpad
allocation, with bits 63 to 48 zero. -/
def BarrierPlace (s : State) (t : Tr) : Prop :=
  t.kind = .localMem ∧ (s.team s.curW.team).gran + (s.team s.curW.team).ngran ≤ 512 ∧
    winAddr s.cur.site s.cur.core + 0x100000 + 1024 * (s.team s.curW.team).gran ≤ t.pa ∧
    t.pa < winAddr s.cur.site s.cur.core + 0x100000 + 1024 * ((s.team s.curW.team).gran + (s.team s.curW.team).ngran) ∧
    readBytes s.mem t.pa 8 < 2 ^ 48

/-- The registers of a warp after one of them is written, s63 reading zero (R380). -/
def OneRegister (s t : State) (d : BitVec 6) (v : Word) : Prop :=
  ∀ r, t.curW.rd r = if r = 63 then 0 else if r = d then v else s.curW.rd r

/-- The constants of an SLDC are read (R413): one access for one or two words, two accesses of 8 bytes for four. -/
def ConstantsRead (s : State) (who : Who) (tr : Tr) (n : Nat) (t : State) (v : Nat) : Prop :=
  if n = 4 then
    ∃ u lo hi, doLoad s who tr 8 0 = (u, lo, stOk) ∧ doLoad u who { tr with pa := tr.pa + 8 } 8 0 = (t, hi, stOk) ∧ v = lo + 2 ^ 64 * hi
  else doLoad s who tr (4 * n) 0 = (t, v, stOk)

/-- The operations a FENCE waits for (R297, R423): loads and atomics with acquire order, stores and atomics with release
order. -/
def fenceWaits (s : State) (ord : BitVec 2) : Bool :=
  s.curW.ops.any fun o => !o.done && o.access &&
    ((ord.getLsbD 0 && o.path == 0) || (ord.getLsbD 1 && (o.path == 1 || (o.path == 0 && (o.op == 2 || decide (16 ≤ o.op))))))

/-- A state in which the executing warp has noted that its lane stream is drained (R229, R290). -/
def atDrain (s : State) : State := s.setW { s.curW with drainAt := s.curW.tag }

/-- A scalar access that its checks allow goes on (R141, R288): its core holds no request to that peer package back, and no write of the
stream's own to the same bytes has still to be performed. -/
def AccessGoes (s : State) (va : DWord) (t : Tr) (size : Nat) : Prop :=
  peerHeld s s.cur.site s.cur.core t = false ∧ s.scalarBehind va t size = false

/-- What every instruction below leaves alone of its warp: everything but scalar registers, the PC, what it waits on and since when, its
operation tag, and whether it is in a region. -/
def WarpKeeps (s t : State) : Prop :=
  t.curW.plain.still = { s.curW.plain.still with
    s := t.curW.s, pc := t.curW.pc, park := t.curW.park, parkAt := t.curW.parkAt, parkPast := t.curW.parkPast, tag := t.curW.tag, inRgn := t.curW.inRgn }

/-- The value of a special register by its number (R427), from the registers of the warp and of its team and grid. -/
def specialValue (s : State) : Nat → Nat
  | 0x00 => s.curW.wid
  | 0x01 => (s.team s.curW.team).t
  | 0x02 => (s.team s.curW.team).t % fieldAt (s.gridOf s.curW).pkt 8 4
  | 0x03 => (s.team s.curW.team).t / fieldAt (s.gridOf s.curW).pkt 8 4 % fieldAt (s.gridOf s.curW).pkt 0xC 2
  | 0x04 => (s.team s.curW.team).t / fieldAt (s.gridOf s.curW).pkt 8 4 / fieldAt (s.gridOf s.curW).pkt 0xC 2
  | 0x05 => fieldAt (s.gridOf s.curW).pkt 0x10 1
  | 0x06 => fieldAt (s.gridOf s.curW).pkt 8 4
  | 0x07 => fieldAt (s.gridOf s.curW).pkt 0xC 2
  | 0x08 => fieldAt (s.gridOf s.curW).pkt 0xE 2
  | 0x09 => s.cur.slot
  | 0x0A => s.passes s.cur.site s.cur.core 0 + 2 ^ 4 * s.passes s.cur.site s.cur.core 1 +
      2 ^ 8 * s.passes s.cur.site s.cur.core (s.cur.slot % 2)
  | 0x0B => s.logical s.cur.site
  | 0x0C => fieldAt (s.gridOf s.curW).pkt 0x12 1 % 4 + 4 * (fieldAt (s.gridOf s.curW).pkt 0x12 1 / 16 % 2) +
      8 * (fieldAt (s.gridOf s.curW).pkt 0x12 1 / 4 % 4) + 32 * (s.gridOf s.curW).sec.toNat
  | 0x0D => s.curW.throt.toNat
  | 0x0E => s.curW.restarts + 4 * s.curW.inRgn.toNat + 8 * s.curW.hflag.toNat
  | 0x10 => fieldAt (s.gridOf s.curW).pkt 0x58 8
  | 0x12 => (s.scrBase (s.team s.curW.team)).toNat
  | 0x14 => (s.reg (ctlAddr s.cur.site s.cur.core 0x20)).toNat
  | 0x16 => (s.timeAt s.cur.site).toNat
  | 0x18 => s.curCore.clk
  | 0x20 => s.curW.tcause.toNat
  | 0x21 => s.curW.tpc.toNat
  | 0x22 => s.curW.tlpc.toNat
  | 0x24 => s.curW.tamask.toNat
  | 0x26 => s.curW.tfmask.toNat
  | 0x28 => s.curW.taddr.toNat
  | n => (FMap.get 0 s.curW.tinfo (n - 0x30)).toNat

/-- A special register of width 2 (R427). -/
def specialWide (n : Nat) : Bool := n == 0x10 || n == 0x12 || n == 0x14 || n == 0x16 || n == 0x18 || n == 0x22 || n == 0x24 || n == 0x28

/-- A warp without what an engine command or an access of it changes. -/
def Warp.commandless (w : Warp) : Warp :=
  { w.plain.still with pc := 0, park := .none, cnt := [], ops := [], tag := 0, inRgn := false }

/-- The bytes of a descriptor that must be zero (R499, R501, R503). -/
def zeroFrom (d off n : Nat) : Prop := ∀ i, off ≤ i → i < off + n → d / 2 ^ (8 * i) % 256 = 0
/-- A field of a descriptor: `n` bytes at an offset, lowest byte first. -/
def descField (d off n : Nat) : Nat := d / 2 ^ (8 * off) % 2 ^ (8 * n)

/-- The rows of a stream of a plain FEED: 384 bytes each (R500). -/
def plainRows (d : Nat) : Nat :=
  let n := descField d 0x18 4 * descField d 0x1C 4 * descField d 0x20 4 * descField d 0x24 4
  let e := 384 / 2 ^ descField d 0x11 1
  (n + e - 1) / e

/-- A descriptor of a plain FEED that R499 allows. -/
def PlainFeed (d : Nat) : Prop :=
  descField d 0x10 1 ≤ 7 ∧ descField d 0x11 1 ≤ 3 ∧ descField d 0x12 1 = 0 ∧ zeroFrom d 0x13 5 ∧ zeroFrom d 0x48 56 ∧
    (∀ i < 4, 1 ≤ descField d (0x18 + 4 * i) 4 ∧ descField d (0x18 + 4 * i) 4 ≤ 2 ^ 24) ∧ plainRows d ≤ 2 ^ 20 ∧
    descField d 0 8 % 2 ^ descField d 0x11 1 = 0 ∧
    ∀ i < 4, descField d (0x28 + 8 * i) 8 % 2 ^ descField d 0x11 1 = 0

/-- A COPY descriptor that R501 allows. -/
def CopyDescriptor (d : Nat) : Prop := 1 ≤ descField d 0x10 8 ∧ descField d 0x10 8 ≤ 2 ^ 40 ∧ zeroFrom d 0x20 32

/-- An NBR descriptor that R503 allows. -/
def NbrDescriptor (d : Nat) : Prop :=
  descField d 0 8 % 4 = 0 ∧ descField d 8 8 % 4 = 0 ∧ descField d 0x10 8 % 4 = 0 ∧ descField d 0x28 8 % 4 = 0 ∧
    4 ≤ descField d 0x18 8 ∧ descField d 0x18 8 ≤ 2 ^ 32 ∧ descField d 0x18 8 % 4 = 0 ∧ descField d 0x30 1 ≤ 3 ∧
    descField d 0x31 1 ≤ 2 ∧ zeroFrom d 0x32 14

/-- The descriptor that COPY, COPY.RESUME and NBR find at their base pair and index (R496). -/
def indexed (w : Warp) (a b : BitVec 6) : DWord := w.rdPair a + (w.rd b).setWidth 64 * 64

/-- An engine command of the executing warp before its engine has done anything. -/
def command (s : State) (k : EngKind) (d : Nat) (fb : BitVec 128) (scope pos : Nat) (nbr : Option Nat) : EngOp :=
  { w := s.curRef, tag := s.curW.tag, kind := k, desc := BitVec.ofNat 1024 d, fb := fb, scope := scope,
    root := (s.gridOf s.curW).root, sec := (s.gridOf s.curW).sec, nbr := nbr, tile := none, fin := false, pos := pos, stop := none,
    held := false }

/-- The part of an engine command that is the same for all (R249, R306, R324, R344, R497): a warp that is alone hands it over,
its counter of the path rises, it takes one tag, the region ends, and no register changes. Memory changes only in bytes of earlier
stores, and in `P`. -/
def HandsOver (s t : State) (path : Nat) (P : Nat → Prop) : Prop :=
  NextWord s t ∧ AccessFrame s t ∧ Warp.commandless t.curW = Warp.commandless s.curW ∧
    (∀ p, t.curW.count p = if p = path then s.curW.count p + 1 else s.curW.count p) ∧ t.curW.tag = s.curW.tag + 1 ∧
    t.curW.inRgn = false ∧ SameOutside s t P

/-- What a trap leaves of a warp that goes on in its handler (R338): its registers, predicates, blocks, counters and
operations; the streams and the handler registers change. -/
def HandlerRegisters (w : Warp) (code detail : Nat) (t : Warp) : Prop :=
  t.tcause = BitVec.ofNat 32 (detail * 2 ^ 16 + w.lane.stack.length * 2 ^ 10 + code) ∧ t.tpc = w.pc ∧
    t.tlpc = BitVec.ofNat 64 ((w.lane.s1.st.code * 2 ^ 30 + w.lane.s1.pc.toNat % 2 ^ 30) * 2 ^ 32 +
      (w.lane.s0.st.code * 2 ^ 30 + w.lane.s0.pc.toNat % 2 ^ 30)) ∧
    t.tamask = w.lane.s1.mask ++ w.lane.s0.mask ∧ t.tfmask = 0 ∧ t.taddr = 0 ∧ ∀ i, FMap.get 0 t.tinfo i = 0

/-- What ERET makes of a slot (R343): its state, PC and lanes from TLPC and TAMASK, EMPTY where no lane of it is left. -/
def resumedSlot (w : Warp) (one : Bool) : SlotSt × Word × Word :=
  let half := if one then w.tlpc.extractLsb' 32 32 else w.tlpc.extractLsb' 0 32
  let mask := (if one then w.tamask.extractLsb' 32 32 else w.tamask.extractLsb' 0 32) &&& ~~~w.exited
  let st := half.extractLsb' 30 2
  if mask = 0 ∨ st = 0 then (.empty, 0, 0)
  else (if st = 1 then .live else if st = 2 then .wait else .held, (half.extractLsb' 0 30).setWidth 32, mask)
/-- A slot that TLPC names and whose lanes have all exited (R238, R343). -/
def SlotGone (w : Warp) (one : Bool) : Prop :=
  (if one then w.tlpc.extractLsb' 62 2 else w.tlpc.extractLsb' 30 2) ≠ 0 ∧
    (if one then w.tamask.extractLsb' 32 32 else w.tamask.extractLsb' 0 32) &&& ~~~w.exited = 0

/-- A slot that ERET can restore as it was: its PC fits TLPC, its lanes have not exited, and it is EMPTY without lanes. -/
def Restorable (exited : Word) (p : Path) : Prop :=
  p.pc.toNat < 2 ^ 30 ∧ p.mask &&& exited = 0 ∧ (p.st = .empty → p = Path.none) ∧ (p.st ≠ .empty → p.mask ≠ 0)

/-- The active lanes that access memory: under MIRROR those below 16 (R322). -/
def accessLanes (s : State) (h : Hdr) : List Nat :=
  (lanesOf (s.laneEnv h).act).filter fun l => !(s.gridOf s.curW).mirror || decide (l < 16)
/-- They with the virtual address of each (R385, R462). -/
def laneAddresses (s : State) (h : Hdr) (va : Nat → DWord) : List LaneAddr :=
  (accessLanes s h).map fun l => { lane := l, va := va l }
/-- One lane of an operation. -/
def laneResult (l : Nat) (va : DWord) (t : Tr) (size data : Nat) : LaneRes :=
  { lane := l, va := va, tr := t, size := size, val := BitVec.ofNat 256 data, status := stOk }
/-- The lanes that access memory, as the operation that they enter holds them. -/
def ownResults (ts : List (LaneAddr × Tr)) (size : Nat) (data : Nat → Nat) : List LaneRes :=
  ts.map fun x => laneResult x.1.lane x.1.va x.2 size (data x.1.lane)
/-- All lanes of an operation: under MIRROR a lane from 16 on shares the access of the lane 16 below it (R322). -/
def allResults (s : State) (h : Hdr) (va : Nat → DWord) (ts : List (LaneAddr × Tr)) (size : Nat) (data : Nat → Nat) : List LaneRes :=
  let own := ownResults ts size data
  let place (l : Nat) : Tr := match own.find? fun x => x.lane == l % 16 with | some x => x.tr | none => Tr.zero
  if (s.gridOf s.curW).mirror = true then
    own ++ ((lanesOf (s.laneEnv h).act).filter fun l => decide (16 ≤ l)).map fun l => laneResult l (va l) (place l) size (data l)
  else own

/-- What the checks of the accesses of a lane instruction answer, and the state that their walks leave (R255). -/
def laneChecks (s : State) (h : Hdr) (va : Nat → DWord) (size : Nat) (k : Acc) : State × LaneCheck :=
  let (s1, l) := checkEach s s.curRef (s.gridOf s.curW).root (s.gridOf s.curW).sec size k (laneAddresses s h va)
  (s1, verdict l)

/-- The address of a lane of an LM instruction: its pair and the signed offset (R462). -/
def lmAddress (s : State) (h : Hdr) (f : LM) (l : Nat) : DWord :=
  BitVec.ofNat 64 (srcVal s (s.laneEnv h) f.a l) + f.off.signExtend 64

/-- The bytes of an access of an LM instruction (R390). -/
def lmBytes (f : LM) : Nat := 2 ^ (f.m.extractLsb' 0 3).toNat

/-- The operation that a lane memory instruction enters (R249, R344, R390): its path, what it does, its destination, and the lanes
that it accesses, each with the data it writes. -/
def laneOperation (s : State) (h : Hdr) (f : LM) (path op hint : Nat) (dst : Option Nat) (width : Nat) (ext : Bool)
    (res : List LaneRes) : AsyncOp :=
  let e := s.laneEnv h
  { tag := s.curW.tag, path := path, pc := e.path.pc, isLane := true, slot1 := e.one, dst := dst, width := width, ext := ext
    acq := lmOrder f % 2 == 1, base := 0, len := 0, off := 0, cause := 0, detail := 0, fmask := 0, retries := 0, engine := false
    held := false, op := op, order := lmOrder f, scope := lmScope f, hint := hint, done := false
    res := res }

/-- The executing warp's core may make `n` more requests (R56). -/
def MayRequest (s : State) (n : Nat) : Prop := seqRoom s s.cur.site s.cur.core false n = true

/-- No acquire of a lane of this path has yet to return (R466). -/
def PathAcquired (s : State) (h : Hdr) : Prop :=
  ∀ o ∈ s.curW.ops, o.isLane = true → o.acq = true → o.done = false → ∀ x ∈ o.res, (s.laneEnv h).path.mask.getLsbD x.lane = false
/-- A lane memory instruction may issue (R250, R345, R466): its path takes an operation, no acquire of its lane path has yet to
return, its core may make the requests of its lanes (R56), and a release has no write of its lanes to wait for (R290, R297). -/
def LaneFree (s : State) (h : Hdr) (f : LM) (path : Nat) (atomic : Bool) : Prop :=
  s.role = .alone ∧ s.curW.canIssue path = true ∧ seqRoom s s.cur.site s.cur.core atomic 32 = true ∧ PathAcquired s h ∧
    (2 ≤ lmOrder f → s.curW.owesLanes (s.laneEnv h).act = false)
/-- The accesses of a lane instruction go on (R141, R288): its core holds no request to their packages back, and no lane has a write of
its own to the same bytes that has still to be performed. -/
def LanesGo (s : State) (w : Warp) (ts : List (LaneAddr × Tr)) (reads : Bool) (own : List LaneRes) : Prop :=
  (∀ x ∈ ts, peerHeld s s.cur.site s.cur.core x.2 = false) ∧ (reads = true → w.behindOwn true own = false)

/-- A lane memory instruction has been performed as operation `o` and is in flight: its path goes on, its counter and the tag
rise, the registers it will write wait for SWAIT (R464), and no register, no predicate and no temporary has changed. -/
def InFlight (s t : State) (h : Hdr) (o : AsyncOp) : Prop :=
  PathNext s t h ∧ AccessFrame s t ∧ t.curW.ops = s.curW.ops ++ [o] ∧ t.curW.tag = s.curW.tag + 1 ∧
    (∀ p, t.curW.count p = if p = o.path then s.curW.count p + 1 else s.curW.count p) ∧
    t.curW.ldHaz = s.curW.ldHaz ++ (match o.dst with
      | some d => [{ tag := s.curW.tag, num := d, n := o.width, mask := (s.laneEnv h).act }]
      | none => []) ∧
    t.curW.plain.still = { s.curW.plain.still with
      lane := t.curW.lane, haz := t.curW.haz, lastOne := t.curW.lastOne, ldHaz := t.curW.ldHaz, ops := t.curW.ops, cnt := t.curW.cnt
      tag := t.curW.tag, inRgn := s.curW.inRgn && !endsRegion o }

/-- The bytes that the lanes of a store or an atomic name, with the entries of the pages that it demotes (R95). -/
def laneBytes (s : State) (ts : List (LaneAddr × Tr)) (size : Nat) (b : Nat) : Prop :=
  ∃ x ∈ ts, (x.2.pa ≤ b ∧ b < x.2.pa + size) ∨ s.demotes x.2 b

/-- The page entries that the prefetches of a PRF can demote, each in the state in which its lane's turn comes (R95, R468). -/
def prefetchBytes (s : State) (h : Hdr) (f : LM) (b : Nat) : Prop :=
  ∃ n l u tr, (accessLanes s h)[n]? = some l ∧
    scalarCheck (((accessLanes s h).take n).foldl
        (fun t k => prefetch t s.curRef (s.gridOf s.curW) (lmHint f) (lmAddress s h f k)) s) (lmAddress s h f l) 1 .load = (u, .ok tr) ∧
      u.demotes tr b

/-- The address of a lane of LDC in the data section (R467): the section's base, the unsigned register and the signed offset. -/
def ldcOffset (s : State) (h : Hdr) (f : LM) (l : Nat) : Int := (srcVal s (s.laneEnv h) f.a l : Int) + f.off.toInt

/-- The lanes of the path of a lane instruction after LBRA (R235): the path in the slot that is executing. -/
def lanePathOf (s : State) (h : Hdr) : Path := (s.laneEnv h).path
/-- The other slot. -/
def otherSlot (s : State) (h : Hdr) : Path := s.curW.lane.slot (!(s.laneEnv h).one)

/-- The frame of a lane control instruction that changes no register (R479 to R482): the package changes only in warps, the executing
warp only in its lane state and in results on their way. -/
def ControlFrame (s t : State) : Prop :=
  t = { s with warps := t.warps, free := t.free } ∧
    (∀ q : WRef, warpKey q.site q.core q.slot ≠ s.curKey → (t.wref q).plain = (s.wref q).plain) ∧
    t.curW.plain = { s.curW.plain with lane := t.curW.lane, haz := t.curW.haz, lastOne := t.curW.lastOne, exited := t.curW.exited }

/-- The state of a path with or without the S bit (R230, R232). -/
def afterS (h : Hdr) (p : Path) (pc : Word) : Path := { p with pc := pc, cnt := p.cnt + 1, st := if h.s then .held else p.st }

/-- A format block that MMA and MMAG (`weights` false) or MMAW accept (R373, R374): the formats of both operands and of the
accumulator, and zero where the block has no field. -/
def FormatAllowed (fb : BitVec 128) (weights : Bool) : Prop :=
  let a := (fb.extractLsb' 0 4).toNat
  let b := (fb.extractLsb' 4 4).toNat
  let c := (fb.extractLsb' 8 2).toNat
  fb.extractLsb' 10 2 = 0 ∧ fb.extractLsb' 16 64 = 0 ∧
    (if weights then (a = 10 ∨ a = 11) ∧ (b = 3 ∨ b = 4 ∨ b = 5) ∧ c = 0 ∧ (fb.extractLsb' 14 2).toNat ≠ 3
     else a = b ∧ (a = 1 ∧ c = 2 ∨ (a = 2 ∨ a = 3 ∨ a = 4 ∨ a = 5) ∧ c = 0 ∨ a = 6 ∧ c = 1))

/-- Tiles that a grid's matrix instructions may name (R312, R489): half of them under NEAR. -/
def tileLimit (s : State) : Nat := if (s.gridOf s.curW).redun = 1 then 128 else 256

/-- The matrix unit takes an instruction of the executing warp's pipe now (R206, R487), and its path goes on: it stands last in the
unit's queue, nothing waits at the pipe for its slot, the unit takes no other in this clk, and nothing else of the core but the
arbitration between both pipes has changed. -/
def Accepted (s t : State) (h : Hdr) (m : MatOp) : Prop :=
  PathNext s t h ∧ AccessFrame s t ∧ SameMemory s t ∧
    t.curCore = { s.curCore.setMatWait (s.cur.slot % 2) (s.laneEnv h).one none with
      matQ := s.curCore.matQ ++ [m], matLost := t.curCore.matLost, matAt := s.curCore.clk + 1, matWarps := t.curCore.matWarps }

/-- The matrix unit can take an instruction and its pipe wins (R206). -/
def unitTakes (s : State) (m : MatOp) : Prop :=
  matReady s s.cur.site s.cur.core m = true ∧ matWins s s.cur.site s.cur.core (s.cur.slot % 2) = true

/-- A matrix instruction stands at its pipe, for its lane slot, and nothing else has changed (R206, R487). -/
def standing (s : State) (h : Hdr) (m : MatOp) : State :=
  s.setCore s.cur.site s.cur.core (s.curCore.setMatWait (s.cur.slot % 2) (s.laneEnv h).one (some m))
/-- A matrix instruction is taken by the unit if that can take it, and else stands at its pipe. -/
def ReachesUnit (s : State) (h : Hdr) (i : Instr) (m : MatOp) : Prop :=
  (unitTakes s m → ∃ t, exec i s = .next t ∧ Accepted s t h m) ∧ (¬ unitTakes s m → exec i s = .next (standing s h m))
/-- An instruction without an active lane goes on and does nothing (R485). -/
def DoesNothing (s : State) (h : Hdr) (i : Instr) : Prop :=
  ∃ t, exec i s = .next t ∧ PathNext s t h ∧ ControlFrame s t ∧ t.curW.exited = s.curW.exited

/-- A matrix instruction as it reaches its pipe. -/
def matrixOp (s : State) (h : Hdr) (i : Instr) (fb : BitVec 128) (counts : List Nat) : MatOp :=
  { w := s.curRef, one := (s.laneEnv h).one, sec := (s.gridOf s.curW).sec, alive := true, ins := i, act := (s.laneEnv h).act, fb := fb
    counts := counts, heads := if (s.gridOf s.curW).redun = 1 then (if s.curW.shadow then 2 else 1) else 0, pos := 0, addr := 0, data := 0
    mem := none, gate := gateOf s s.cur.site s.cur.core (s.cur.slot % 2) (s.laneEnv h).one s.curRef }

/-- The operation of an ACCLD or ACCST as it enters its path (R344, R493): `op` 0 while its words are read, 6 until the unit has moved its
tile. -/
def tileOperation (s : State) (h : Hdr) (f : LX) (path op : Nat) (res : List LaneRes) : AsyncOp :=
  { opNew s.curW path (s.laneEnv h).path.pc with
    isLane := true, slot1 := (s.laneEnv h).one, scope := (f.m.extractLsb' 0 3).toNat, op := op, res := res }

/-- The tile that an instruction of the matrix unit names as its warp sees it: under NEAR a shadow's tiles are the upper half (R312). -/
def seenTile (m : MatOp) (z : Nat) : Nat := z + if m.heads = 2 then 128 else 0
/-- The step that an MMA, MMAW or MMAG takes next: its quarter or group, with its entries, its first tile and its shape (R484, R486, R488). -/
def NextStep (m : MatOp) (x : MatItem) : Prop :=
  let segs := (m.fb.extractLsb' 12 2).toNat + 1
  let quarters := (List.range 4).filter (quarterOn m.act)
  (∃ h f q, (m.ins = .mma h f ∨ m.ins = .mmaw h f) ∧ quarters[m.pos]? = some q ∧
    x = { qa := f.qa.toNat, na := (shapeOf f.shape).1 * segs
          qb := if f.m.getLsbD 1 = true then (f.qb.toNat + q) % 8 else f.qb.toNat, nb := (shapeOf f.shape).2 * segs
          popB := f.m.getLsbD 1 || m.pos + 1 == quarters.length
          z := seenTile m (f.zd.toNat + q * tilesPer f.shape m.fb), m := (shapeOf f.shape).1, n := (shapeOf f.shape).2 }) ∨
  ∃ h f r, m.ins = .mmag h f ∧ m.counts[m.pos]? = some r ∧
    x = { qa := f.qa.toNat, na := r * segs, qb := f.qb.toNat, nb := 16 * segs, popB := true
          z := seenTile m (f.zd.toNat + m.pos * tilesPer 0 m.fb), m := r, n := 16 }
/-- The head of an operand queue that an instruction pops (R279, R312). -/
def headOf (c : Core) (m : MatOp) (k : Nat) : Nat :=
  let q := FMap.get OpQueue.none c.queues k
  if m.heads = 2 then q.head2 else q.head
/-- Element `k` of line `i` of the entry at the head of a queue with `per` rows a segment (R485). -/
def entryElement (c : Core) (m : MatOp) (q per i k : Nat) : Nat :=
  let row := (headOf c m q + (k / fbK m.fb * per + i)) % 128
  readWords c.words ((0x1C0000 + q * 0xC000 + row * 384) / 4) 96 / 2 ^ (fmtBits (fbB m.fb) * (k % fbK m.fb)) % 2 ^ fmtBits (fbB m.fb)
/-- An accumulator after the products of two lines (R375 to R377): FP64 one after another, INT32 modulo 2^32, FP32 in groups of 32 with
one rounding each. -/
def accumulated (fb : BitVec 128) (c : Nat) (a b : Nat → Nat) : Nat :=
  let n := ((fb.extractLsb' 12 2).toNat + 1) * fbK fb
  let g := fmt (fbB fb)
  if fb.extractLsb' 8 2 = 2 then
    (List.range n).foldl (fun x k => (fmt 1).round 0 false ((((fmt 1).read (a k)).mul ((fmt 1).read (b k))).add 0 ((fmt 1).read x))) c
  else if fb.extractLsb' 8 2 = 1 then
    (BitVec.ofInt 32 ((c : Int) + ((List.range n).map fun k => (BitVec.ofNat 8 (a k)).toInt * (BitVec.ofNat 8 (b k)).toInt).sum)).toNat
  else
    (List.range (n / 32)).foldl (fun x j =>
      (fmt 0).round 0 false (((fmt 0).read x).add 0 (exactSum ((List.range 32).map fun i => (g.read (a (32 * j + i))).mul (g.read (b (32 * j + i))))))) c
/-- The lanes' words of a tile, as a get of ACCMV returns them (R494). -/
def tileLanes (c : Core) (z : Nat) (act : Word) : List LaneRes → Prop := fun l =>
  l.map (fun x => x.lane) = lanesOf act ∧
    ∀ x ∈ l, x.status = stOk ∧ ∀ i < 8, wordOf x.val.toNat i = FMap.get 0 c.words ((0x180000 + 1024 * z) / 4 + (32 * i + x.lane))

/-- Word `k` of accumulator tile `z` of a core (R278). -/
def tileAt (c : Core) (z k : Nat) : Word := FMap.get 0 c.words ((0x180000 + 1024 * z) / 4 + k)

/-- A render instruction may run here (R271, R313): its registers are pinned, and its grid runs without redundancy. -/
def Renders (s : State) (fs : List (BitVec 13)) : Prop :=
  s.role = .alone ∧ (s.gridOf s.curW).redun = 0 ∧ ∀ f ∈ fs, num f < 1536 → s.curW.pinned.getLsbD (num f / 32) = true

/-- A word that every active lane gives alike (R508). -/
def Uniform (s : State) (h : Hdr) (f : BitVec 13) (v : Nat) : Prop :=
  ∀ l, (s.laneEnv h).act.getLsbD l = true → srcVal s (s.laneEnv h) f l = v

/-- The tile memory of the executing warp's team for a claimed tile lies in its scratchpad (R196). -/
def TileFits (s : State) (c : Claim) : Prop := 1024 * (s.team s.curW.team).gran + fieldAt c.fr.desc 0x4C 4 + 49152 ≤ 2 ^ 19
/-- The address of the colour of pixel (px, py) of the claimed tile (R196). -/
def colourAt (s : State) (c : Claim) (px py : Nat) : Nat := tilePa s s.curW.team c.fr ((64 * py + px) * 8)
/-- The address of the depth of pixel (px, py) of the claimed tile (R196). -/
def depthAt (s : State) (c : Claim) (px py : Nat) : Nat := tilePa s s.curW.team c.fr (0x8000 + (64 * py + px) * 4)
/-- Column and row in the tile of a lane's pixel of a batch (R197, R198). -/
def batchPixel (b : Batch) (l : Nat) : Nat × Nat := (b.blk % 8 * 8 + l % 8, b.blk / 8 * 4 + l / 8)
/-- A lane's fragment passes ZTEST (R513). -/
def depthPass (s : State) (h : Hdr) (f : L3) (c : Claim) (b : Batch) (l : Nat) : Bool :=
  b.cov.getLsbD l && zPass (f.m.extractLsb' 7 3).toNat (srcVal s (s.laneEnv h) f.a l)
    (readBytes s.mem (depthAt s c (batchPixel b l).1 (batchPixel b l).2) 4)
/-- Channel `i` of the colour that TILEW writes, from source and tile colour (R514). -/
def blendedChannel (mode src dst i : Nat) : Nat :=
  let ch (x k : Nat) : Nat := x / 2 ^ (16 * k) % 2 ^ 16
  let g := fmt 2
  match mode with
  | 0 => ch src i
  | 1 => g.round 0 false (Exact.add 0 (g.read (ch src i)) (g.read (ch dst i)))
  | _ => g.round 0 false
      (Exact.add 0 (g.read (ch src i)) ((g.read (ch dst i)).mul (Exact.add 0 (.fin false 1 1) (g.read (ch src 3)).neg)))

/-- A texture descriptor whose fields are in range (R516). -/
def TextureAllowed (d : Nat) : Prop :=
  1 ≤ descField d 8 2 ∧ descField d 8 2 ≤ 16384 ∧ 1 ≤ descField d 0xA 2 ∧ descField d 0xA 2 ≤ 16384 ∧ descField d 0x10 1 ≤ 2 ∧
    descField d 0x11 1 ≤ 1 ∧ descField d 0x12 1 ≤ 1 ∧ descField d 0xC 4 % (if descField d 0x10 1 = 1 then 8 else 4) = 0 ∧
    zeroFrom d 0x13 13
/-- One lane of a TEX in the state in which its turn comes. -/
def texturedLane (s : State) (h : Hdr) (f : L3) (s1 u : State) (x : LaneAddr × Tr) : State × TexEnd :=
  let uv := srcVal s (s.laneEnv h) f.a x.1.lane
  texLane u (renderWho s1 s.curRef) (s1.gridOf s.curW).root (uv % 2 ^ 32) (uv / 2 ^ 32) x.1.va x.2
/-- The state in which the turn of lane number `n` of a TEX comes, its lanes in ascending order. -/
def textureTurn (s : State) (h : Hdr) (f : L3) (s1 : State) (ts : List (LaneAddr × Tr)) (n : Nat) : State :=
  (ts.take n).foldl (fun t y => (texturedLane s h f s1 t y).1) s1.left
/-- The page entries that the reads of a TEX can demote, each in the state in which its turn comes (R95, R516). -/
def textureBytes (s : State) (h : Hdr) (f : L3) (s1 : State) (ts : List (LaneAddr × Tr)) (b : Nat) : Prop :=
  ∃ n x, ts[n]? = some x ∧
    let who := renderWho s1 s.curRef
    let root := (s1.gridOf s.curW).root
    let u := textureTurn s h f s1 ts n
    let uv := srcVal s (s.laneEnv h) f.a x.1.lane
    let r := doLoad u who x.2 32 0
    let taps := texTaps r.2.1 (uv % 2 ^ 32) (uv / 2 ^ 32)
    let size := if descField r.2.1 0x10 1 = 1 then 8 else 4
    u.demotes x.2 b ∨
      ∃ j p u1 tr, taps[j]? = some p ∧ u1.demotes tr b ∧
        checkVa (texSum r.1 who root r.2.1 (taps.take j) []).1 who.site (some who.core) root who.sec
          (BitVec.ofNat 64 (descField r.2.1 0 8 + p.2.1 * descField r.2.1 0xC 4 + p.1 * size)) size .load = (u1, .ok tr)

/-- Every register but those of a list is as before. -/
def OtherRegisters (s t : State) (l : List Nat) : Prop := ∀ a, a ∉ l → t.reg a = s.reg a

/-- Nothing but registers has changed. -/
def OnlyRegisters (s t : State) : Prop := t = { s with regs := t.regs }

/-- Nothing but registers and messages to the host has changed: an event may send one. -/
def RegistersAndMessages (s t : State) : Prop := t = { s with regs := t.regs, outbox := t.outbox }

/-- The requester of the newest persistent request that a die's table holds for a line. -/
def tableHas (s : State) (site line : Nat) : Option Nat := ((s.die site).ptab.find? fun e => e.1 == line).map fun e => e.2

/-- The request of a die for a line. -/
def requestOf (s : State) (site line : Nat) : Option PendReq := (s.die site).pend.find? fun p => p.line == line

/-- No routing update runs. -/
def NoUpdate (s : State) : Prop := s.regF rtstatA 2 0 = 0 ∧ s.hub.upd = none

/-- The warp that an event acts for stands in its slot, alone. -/
def Stands (s : State) (w : WRef) : Prop := (s.wref w).resident = true ∧ (s.wref w).mate = none

/-- A core position of a die works after its self-test (R104): it worked before and the test found nothing against it, each of its
pipes keeps 12 good lanes, and a slice of its cluster pair works. -/
def coreWorks (cores : BitVec 48) (slices : BitVec 12) (f : Fuses) (r : DieTest) (c : Nat) : Bool :=
  let slice (k : Nat) : Bool := slices.getLsbD k && !r.badSlices.getLsbD k
  cores.getLsbD c && !r.badCores.getLsbD c && lanesOk (goodLanes f r.badLanes c) && (slice (c / 4) || slice (c / 4 ^^^ 1))

/-- A security event of the host at the hub is in the hub's log (R120, R121): its count has risen to its limit, and the requester and
the address are the latest. -/
def HostRefused (s t : State) (a : Nat) : Prop :=
  t.regF (seclogA 48) 63 48 = min 0xFFFF (s.regF (seclogA 48) 63 48 + 1) ∧ t.regF (seclogA 48) 47 42 = 48 ∧ t.regF (seclogA 48) 41 36 = 63 ∧
    t.reg (secaddrA 48) = BitVec.ofNat 64 (a % 2 ^ 48) ∧ (s.regF (seclogA 48) 63 48 ≠ 0xFFFF → (t.reg evtstatA).getLsbD 1 = true) ∧
    t = { s with regs := t.regs, outbox := t.outbox }

/-- An access finds a line whole: all 64 tokens exist, the owner token among them, no census of it runs, and it holds no poison. -/
def LineWhole (s : State) (line : Nat) : Prop :=
  tokTotal s line = 64 ∧ ownerLives s line = true ∧ censusOf s line = none ∧ s.poison.contains line = false

/-- A response stands in the DOE mailbox (R110). -/
def inMailbox (s : State) (r : SpdmRsp) : State := { s with trust := { s.trust with doe := some r } }

/-- A packet of the render pipeline has come to its gate (R48): no router holds it, and every earlier one of its core for that die has
been taken. -/
def Arrived (s : State) (m : PrimMsg) : Prop :=
  (∀ x ∈ s.mesh, x.hdr ≠ m.hdr) ∧ m.lost = false ∧ ∃ pre post, s.prims = pre ++ m :: post ∧
    ∀ x ∈ pre, ¬ (x.lost = false ∧ x.site = m.site ∧ x.src.site = m.src.site ∧ x.src.core = m.src.core)

end Sys2Proof.Rules

open Sys2Proof Sys2Proof.Machine Sys2Proof.Rules

/-- R407, R408, R409: every scalar instruction that writes one register completes with the value of its entry, alone and in a
pair; s63 keeps reading zero, every other register keeps its value, the scalar PC moves on by one word, and nothing else
changes: no other field of the warp, no other warp, no memory, no special register.
R407, R405: SADD64 and SSUB64 write the sum and the difference of the pairs modulo 2^64, low half in the even register;
of the pair s62:2 only the low half is kept. -/
def Obligations.ScalarArithmetic : Prop :=
  (∀ (i : Instr) (s : State) (d : BitVec 6) (v : Word), wellFormed i = true → scalarResult i s.curW = some (d, v) →
      ∃ t, exec i s = .next t ∧ ScalarFrame s t ∧ NextWord s t ∧
        ∀ r, t.curW.rd r = if r = 63 then 0 else if r = d then v else s.curW.rd r) ∧
  (∀ (s : State) (d a b : BitVec 6) (i : Instr) (v : DWord),
      (i = .sadd64 d a b ∧ v = s.curW.rdPair a + s.curW.rdPair b) ∨ (i = .ssub64 d a b ∧ v = s.curW.rdPair a - s.curW.rdPair b) →
      wellFormed i = true →
      ∃ t, exec i s = .next t ∧ ScalarFrame s t ∧ NextWord s t ∧
        ∀ r, t.curW.rd r = if r = 63 then 0 else if r = d then v.extractLsb' 0 32 else if r = d + 1 then v.extractLsb' 32 32
          else s.curW.rd r)

/-- R414 to R416: BRA, JMP, CALL, RET and LOOP complete with the scalar PC where their entry sends it, CALL with s62 and LOOP
with its counter written, and nothing else changed. In a pair a transfer of control is checked against the leader's (R317).
R317, R326: a trailing warp that transfers control elsewhere than its leader did is a shadow mismatch; the machine goes on
with the restart or the trap of the pair. -/
def Obligations.BranchesTransferControl : Prop :=
  (∀ (i : Instr) (s : State) (go : Bool) (target : Word) (wr : Option (BitVec 6 × Word)), wellFormed i = true →
      branchResult i s.curW = some (go, target, wr) →
      (go = true → CheckAgrees s false (crc64 (leBytes 4 target.toNat)).toNat) →
      ∃ t, exec i s = .next t ∧ ScalarFrame s t ∧ t.curW.pc = target ∧
        ∀ r, t.curW.rd r = match wr with
          | some (d, v) => if r = 63 then 0 else if r = d then v else s.curW.rd r
          | none => s.curW.rd r) ∧
  (∀ (s : State) (imm : BitVec 26) (ld : WRef) (e : LvqEnt) (l : List LvqEnt),
      s.role = .trail ld → takeLvq false s.curW.lvq = some (e, l) → e.trap = false →
      e.val ≠ BitVec.ofNat 1024 (crc64 (leBytes 4 (s.curW.pc + imm.signExtend 32).toNat)).toNat →
      exec (.jmp imm) s = .next (mismatch s s.curRef s.curW.pc.toNat))

/-- R417, R227: VRUN and VRUNR enqueue a start entry at their lane PC with the scalar registers as they stand; nothing else of
the warp changes.
R417: a lane PC at or above LLEN is an illegal instruction of a warp that is alone, and nothing is enqueued. -/
def Obligations.LaneRunsAreEnqueued : Prop :=
  (∀ (s : State) (i : Instr) (pc : Word),
      (∃ imm : BitVec 26, i = .vrun imm ∧ pc = imm.setWidth 32) ∨ (∃ a : BitVec 6, i = .vrunr a ∧ pc = s.curW.rd a) →
      pc.toNat < (s.team s.curW.team).llen → s.curW.queue.length < 4 →
      CheckAgrees s false (crc64 (leBytes 4 pc.toNat ++ (List.range 64).flatMap fun k => leBytes 4 (FMap.get 0 s.curW.s k).toNat)).toNat →
      ∃ t, exec i s = .next t ∧ OnlyWarp s t ∧
        t.curW.plain = { s.curW.plain with
          pc := s.curW.pc + 1, park := .none
          queue := s.curW.queue ++ [{ resume := false, pc := pc, caps := s.curW.s, enq := s.curW.pc }] }) ∧
  (∀ (s : State) (imm : BitVec 26), s.role = .alone → s.cur.lane = none → (s.team s.curW.team).llen ≤ imm.toNat →
      exec (.vrun imm) s = .next (trapAt s s.curRef (scalarTrap 1 0 0 [encodeScalar (.vrun imm)])))

/-- R418, R228: with the lane stream drained SYNCL writes the lane state word. SYNCL.RESUME first enqueues a resume entry once, while the
queue has room, and is done in the same way when the stream has drained.
R251, R307, R420: SWAIT ends once the counter of its path is at or below the threshold, with an acquire at the widest scope of the
engine operations that it joins; the operations themselves stay as they are, and of the warp only the registers that its loads
have yet to make readable change.
R251, R349: above the threshold SWAIT parks, at the same instruction. -/
def Obligations.ScalarStreamWaits : Prop :=
  (∀ (s : State) (d : BitVec 6), Drained s.curW →
    ∃ t, exec (.syncl d) s = .next t ∧ ScalarFrame s t ∧ NextWord s t ∧
      ∀ r, t.curW.rd r = if r = 63 then 0 else if r = d then laneStateWord s.curW.lane else s.curW.rd r) ∧
  (∀ (s : State) (d : BitVec 6), ¬ Drained s.curW → exec (.syncl d) s = .next s) ∧
  (∀ (s : State) (d : BitVec 6), s.curW.resAt ≠ some s.curW.pc → s.curW.queue.length < 4 →
    ∃ t, exec (.synclResume d) s = .next t ∧ OnlyWarp s t ∧
      t.curW = { s.curW with
        queue := s.curW.queue ++ [{ resume := true, pc := 0, caps := s.curW.s, enq := s.curW.pc }], resAt := some s.curW.pc }) ∧
  (∀ (s : State) (d : BitVec 6), s.curW.resAt = some s.curW.pc → Drained s.curW →
    ∃ t, exec (.synclResume d) s = .next t ∧ OnlyWarp s t ∧ NextWord s t ∧ t.curW.resAt = none ∧
      ∀ r, t.curW.rd r = if r = 63 then 0 else if r = d then laneStateWord s.curW.lane else s.curW.rd r) ∧
  (∀ (s : State) (b : BitVec 6) (path : BitVec 3), path.toNat ≤ 3 → Drained s.curW →
      report s.curW (some path.toNat) false = none → s.curW.count path.toNat ≤ (s.curW.rd b).toNat →
      ∃ t, exec (.swait b path) s = .next t ∧ AccessFrame s t ∧ SameMemory s t ∧ t.dies = s.dies ∧
        t.cores = (match FMap.find s.curW.joins path.toNat with
          | some scope => (acquireAct s s.cur.site s.cur.core scope).cores
          | none => s.cores) ∧
        t.curW.plain = { s.curW.plain with
          pc := s.curW.pc + 1, park := .none, ldHaz := t.curW.ldHaz, joins := FMap.del s.curW.joins path.toNat } ∧
        (path ≠ 0 → t.curW.ldHaz = s.curW.ldHaz)) ∧
  (∀ (s : State) (b : BitVec 6) (path : BitVec 3), path.toNat ≤ 3 → Drained s.curW →
      report s.curW (some path.toNat) false = none → (s.curW.rd b).toNat < s.curW.count path.toNat →
      s.curW.park ≠ .swait path.toNat (s.curW.rd b).toNat →
      ∃ t, exec (.swait b path) s = .next t ∧ OnlyWarp s t ∧
        t.curW = { s.curW with
          park := .swait path.toNat (s.curW.rd b).toNat, parkAt := s.curCore.clk, parkPast := 0, drainAt := s.curW.tag })


/-- R431 to R439: every integer lane instruction whose registers are in pinned blocks completes with the value of its
entry, in its active lanes alone; no memory, no counter and no other warp changes. -/
def Obligations.LaneIntegerValues : Prop :=
  ∀ (i : Instr) (s : State) (x : LaneValue), wellFormed i = true → integerValue s i = some x → Pinned s (x.2.1 :: x.2.2.1) →
    CompletesWith s i x

/-- R440 to R444: every floating-point lane instruction completes with its exact result rounded once (R441), with one of its
operands (R442), or with the element-wise result of a pair (R444). -/
def Obligations.LaneFloatValues : Prop :=
  ∀ (i : Instr) (s : State) (x : LaneValue), wellFormed i = true → floatValue s i = some x → Pinned s (x.2.1 :: x.2.2.1) →
    CompletesWith s i x

/-- R445 to R450: conversions, packing and the special functions complete with the value of their entry. What a special
function gives within its bound is the model's free choice (log 11). -/
def Obligations.LaneConversions : Prop :=
  ∀ (i : Instr) (s : State) (x : LaneValue), wellFormed i = true → convertValue s i = some x → Pinned s (x.2.1 :: x.2.2.1) →
    CompletesWith s i x

/-- R452, R454 to R459: BCAST, VOTE with a mask, REDUX, FREDUX, SCAN and MATCH complete with the value that the active lanes of
a lane's group give.
R453: SHFL gives each active lane the value of its source lane, or its own value where there is no active source lane,
and with a predicate says which of the two. -/
def Obligations.CrossLaneValues : Prop :=
  (∀ (i : Instr) (s : State) (x : LaneValue), wellFormed i = true → crossValue s i = some x → Pinned s (x.2.1 :: x.2.2.1) →
      CompletesWith s i x) ∧
  (∀ (h : Hdr) (f : L3) (s : State), wellFormed (.shfl h f) = true → Pinned s [f.d, f.a, f.b] →
      ∃ t, exec (.shfl h f) s = .next t ∧ LaneFrame s t ∧ PathNext s t h ∧
        Writes s t h (num f.d) (regCount f.d) (fun l => srcVal s (s.laneEnv h) f.a ((shuffleSource s h f l).getD l)) ∧
        Predicates s t fun q l =>
          if f.m.getLsbD 15 = true ∧ q = num f.c ∧ (s.laneEnv h).act.getLsbD l = true then some (shuffleSource s h f l).isSome else none)

/-- R436, R439, R442, R444, R455, R459, R478: every lane instruction that writes predicates completes with their bits in its
active lanes; every other bit of every predicate, every register and every temporary stays as it is. -/
def Obligations.LanePredicateValues : Prop :=
  ∀ (i : Instr) (s : State) (x : PredValue), wellFormed i = true → predValue s i = some x → Pinned s x.2.1 →
    ∃ t, exec i s = .next t ∧ LaneFrame s t ∧ PathNext s t x.1 ∧ WritesNothing s t ∧
      Predicates s t fun q l =>
        if (s.laneEnv x.1).act.getLsbD l = true then (x.2.2.find? fun y => y.1 == q).map fun y => y.2 l else none

/-- R271, R337: a lane instruction that names a register of a block its warp has not pinned traps with REGBLOCK, in its lane
slot, before it reads or writes anything.
R313, R508: every render instruction is illegal in a grid that runs with redundancy. -/
def Obligations.LaneInstructionsTrapFirst : Prop :=
  (∀ (i : Instr) (s : State) (x : LaneValue) (one : Bool), s.role = .alone → s.cur.lane = some one →
    (integerValue s i = some x ∨ floatValue s i = some x ∨ convertValue s i = some x ∨ crossValue s i = some x) →
    (∃ f ∈ x.2.1 :: x.2.2.1, num f < 1536 ∧ s.curW.pinned.getLsbD (num f / 32) = false) →
    exec i s = .next (trapAt s s.curRef { scalarTrap 3 0 0 [] with lane := true, slot1 := one })) ∧
  (∀ (s : State) (h : Hdr) (f : L3) (i : Instr) (one : Bool), s.role = .alone → s.cur.lane = some one → (s.gridOf s.curW).redun ≠ 0 →
    (∀ x ∈ [f.d, f.a, f.b, f.c], num x < 1536 → s.curW.pinned.getLsbD (num x / 32) = true) →
    (i = .primout h f ∨ i = .binnext h f ∨ i = .rastq h f ∨ i = .tex h f ∨ i = .ztest h f ∨ i = .tilew h f ∨ i = .tilerd h f ∨
      i = .tilefl h f) →
    exec i s = .next (trapAt s s.curRef { scalarTrap 1 0 0 (laneInfo i) with lane := true, slot1 := one }))

/-- R410 to R412: an SLD whose address translates and whose access succeeds writes the zero-extended value, or the pair, and
stores nothing: of memory only bytes of earlier stores change that leave an L1 for want of room, and the entry of a page whose
gate is closed (R95); an acquire acts before it and ends the region. -/
def Obligations.ScalarLoadsReadMemory : Prop :=
  ∀ (s s1 s2 : State) (tr : Tr) (d a mode : BitVec 6) (off : BitVec 8) (v : Nat), wellFormed (.sld d a mode off) = true →
    Issues s → s.curW.recs.length < 16 → MayRequest s 1 → scalarCheck s (sldAddress s.curW a mode off) (sldSize mode) .load = (s1, .ok tr) →
    AccessGoes s1 (sldAddress s.curW a mode off) tr (sldSize mode) →
    let u := if mode.getLsbD 2 then acquireAct s1 s.cur.site s.cur.core (sldScope mode) else s1
    doLoad u (s.who s.curRef) tr (sldSize mode) 0 = (s2, v, stOk) →
    ∃ t, exec (.sld d a mode off) s = .next t ∧ NextWord s t ∧ AccessFrame s t ∧ SameOutside s t (u.demotes tr) ∧ WarpKeeps s t ∧
      t.curW.tag = s.curW.tag + 1 ∧ t.curW.inRgn = (s.curW.inRgn && !mode.getLsbD 2) ∧
      ∀ r, t.curW.rd r = if r = 63 then (0 : Word) else if r = d then BitVec.ofNat 32 v
        else if sldSize mode = 8 ∧ r = d + 1 then BitVec.ofNat 32 (v / 2 ^ 32) else s.curW.rd r

/-- R413: an SLDC inside the kernel's data section writes its 1, 2 or 4 registers from consecutive words of it; a quad is read in two
accesses of 8 bytes. -/
def Obligations.ScalarConstantsReadTheDataSection : Prop :=
  ∀ (s s1 s2 : State) (tr : Tr) (d a : BitVec 6) (off : BitVec 12) (wd : BitVec 2) (v : Nat), wellFormed (.sldc d a off wd) = true →
    Issues s → s.curW.recs.length < 16 → MayRequest s 2 →
    let n := 2 ^ wd.toNat
    let o := (s.curW.rd a).toNat + 4 * off.toNat
    let va := BitVec.ofNat 64 ((s.team s.curW.team).dataVa + o)
    o % (4 * n) = 0 → (s.team s.curW.team).dataVa ≠ 0 → o + 4 * n ≤ (s.team s.curW.team).dlen →
    scalarCheck s va (4 * n) .load = (s1, .ok tr) → AccessGoes s1 va tr (4 * n) → ConstantsRead s1 (s.who s.curRef) tr n s2 v →
    ∃ t, exec (.sldc d a off wd) s = .next t ∧ NextWord s t ∧ AccessFrame s t ∧ WarpKeeps s t ∧
      SameOutside s t (fun b => s1.demotes tr b ∨ n = 4 ∧ (doLoad s1 (s.who s.curRef) tr 8 0).1.demotes { tr with pa := tr.pa + 8 } b) ∧
      t.curW.tag = s.curW.tag + 1 ∧
      ∀ r, t.curW.rd r = if r = 63 then (0 : Word)
        else if d.toNat ≤ r.toNat ∧ r.toNat < d.toNat + n then BitVec.ofNat 32 (v / 2 ^ (32 * (r.toNat - d.toNat))) else s.curW.rd r

/-- R249, R344, R411, R412: an SST that is checked is entered on path STORE, completes at issue, and its bytes take the value;
with a release its release action at its scope comes first, once the writes of the runs that a draining instruction ended are
performed (R290). Memory then holds what the store leaves, and no byte but its own
changes, but for bytes of earlier stores that the release sends on and for the entry of a page that the store demotes (R95). -/
def Obligations.ScalarStoresWriteTheirBytes : Prop :=
  ∀ (s s1 : State) (tr : Tr) (d a mode : BitVec 6) (off : BitVec 8), wellFormed (.sst d a mode off) = true →
    s.role = .alone → s.curW.canIssue 1 = true → MayRequest s 1 → tr.kind = .localMem →
    scalarCheck s (sldAddress s.curW a mode off) (sldSize mode) .store = (s1, .ok tr) →
    (mode.getLsbD 2 = true → s.curW.owesEnded = false) → peerHeld s1 s.cur.site s.cur.core tr = false →
    let data := (s.curW.rdPair d).toNat % 2 ^ (8 * sldSize mode)
    let s2 := if mode.getLsbD 2 then releaseAt s1 s.cur.site s.cur.core s.cur.slot (sldScope mode) (some (trLine tr)) else s1
    let done := doStore s2 (s.who s.curRef) tr (sldSize mode) data (storeDepth (if mode.getLsbD 2 then 1 else 0) (sldScope mode) 0) 0
    let u := done.1
    ∃ t, exec (.sst d a mode off) s = .next t ∧ NextWord s t ∧ AccessFrame s t ∧
      t.mem = u.mem ∧ t.cores = u.cores ∧ t.dies = u.dies ∧ t.hostMem = s.hostMem ∧ t.peerMem = s.peerMem ∧
      (∀ b, ¬ (tr.pa ≤ b ∧ b < tr.pa + sldSize mode) → ¬ s2.demotes tr b → ¬ s.pending b →
        byteAt t.mem b = byteAt s.mem b) ∧
      (∀ p, t.curW.count p = if p = 1 then s.curW.count 1 + 1 else s.curW.count p) ∧ t.curW.tag = s.curW.tag + 1 ∧
      t.curW.inRgn = (s.curW.inRgn && !(mode.getLsbD 2 && done.2 == stOk)) ∧
      t.curW.plain.still = { s.curW.plain.still with
        pc := t.curW.pc, park := .none, tag := t.curW.tag, inRgn := t.curW.inRgn, cnt := t.curW.cnt, ops := t.curW.ops }

/-- R314, R316, R318: in a pair the leader's SST stores nothing yet: it waits in the SSCB with its signature; the trailing
warp gives the signature of its own and stores nothing at all. -/
def Obligations.PairedStoresWaitForTheirMatch : Prop :=
  ∀ (s : State) (d a mode : BitVec 6) (off : BitVec 8),
    let va := sldAddress s.curW a mode off
    let data := (if sldSize mode = 8 then (s.curW.rdPair d).toNat else (s.curW.rd d).toNat) % 2 ^ (8 * sldSize mode)
    let sig := signature [(va.toNat, data, 2 ^ sldSize mode - 1)] (leBytes 4 (encodeScalar (.sst d a mode off)).toNat)
    (∀ sh s1 tr, s.role = .lead sh → s.curW.canIssue 1 = true → MayRequest s 1 → (s.wref sh).sscb.length < 32 →
      warpKey sh.site sh.core sh.slot ≠ s.curKey → scalarCheck s va (sldSize mode) .store = (s1, .ok tr) →
      (mode.getLsbD 2 = true → s.curW.owesEnded = false) → peerHeld s1 s.cur.site s.cur.core tr = false →
      ∃ t, exec (.sst d a mode off) s = .next t ∧ NextWord s t ∧ AccessFrame s t ∧ SameMemory s t ∧
        (t.wref sh).sscb = (s.wref sh).sscb ++ [{ lane := false, sig := sig, ins := .sst d a mode off, pc := s.curW.pc, tag := s.curW.tag, path := 1, ready := true, matched := false }] ∧ t.curW.count 1 = s.curW.count 1 + 1) ∧
    (∀ ld, s.role = .trail ld →
      ∃ t, exec (.sst d a mode off) s = .next t ∧ NextWord s t ∧ OnlyWarp s t ∧ t.curW.sigs = s.curW.sigs ++ [(false, some sig)] ∧
        t.curW.cnt = s.curW.cnt)

/-- R255, R336, R337, R342: a scalar access that its checks refuse traps with PERM or ALIGN at its address, before it has
done anything; one that meets a missing page parks its warp on the fault record (R263). -/
def Obligations.RefusedScalarAccessesTrap : Prop :=
  ∀ (s s1 : State) (i : Instr) (va : DWord) (size : Nat) (k : Acc), s.role = .alone → s.cur.lane = none →
    ((∃ d a mode off, i = .sld d a mode off ∧ va = sldAddress s.curW a mode off ∧ size = sldSize mode ∧ k = .load ∧ s.curW.recs.length < 16 ∧ MayRequest s 1) ∨
      (∃ d a mode off, i = .sst d a mode off ∧ va = sldAddress s.curW a mode off ∧ size = sldSize mode ∧ k = .store ∧ s.curW.canIssue 1 = true ∧ MayRequest s 1 ∧
        (mode.getLsbD 2 = true → s.curW.owesEnded = false)) ∨
      (∃ a, i = .smon a ∧ va = s.curW.rdPair a ∧ size = 1 ∧ k = .load)) →
    (scalarCheck s va size k = (s1, .perm) → exec i s = .next (trapAt s1 s1.curRef (scalarTrap 5 0 va []))) ∧
    (scalarCheck s va size k = (s1, .misalign) → exec i s = .next (trapAt s1 s1.curRef (scalarTrap 6 0 va []))) ∧
    (∀ reason level, scalarCheck s va size k = (s1, .page reason level) →
      exec i s = .next (parkFault s1 s1.curRef none [(va.toNat, reason, level, 0)] (if k = .store then 1 else 0)))

/-- R242, R244, R421: BARA, with the lane stream drained and no write of its own still to be performed, performs its core-scope release, counts its arrival in the barrier
word, and writes the phase that the word held.
R243, R244: BARW goes on at once, with its core-scope acquire, when the barrier word's phase differs from its register's
low half; at that phase it parks its warp. It stores nothing. -/
def Obligations.BarriersCountArrivals : Prop :=
  (∀ (s s1 : State) (tr : Tr) (d a : BitVec 6), Drained s.curW → Issues s → report s.curW none true = none → s.curW.owes = false →
      scalarCheck (atDrain s) (s.curW.rdPair a) 8 .atomic = (s1, .ok tr) → AccessGoes s1 (s.curW.rdPair a) tr 8 → BarrierPlace s1 tr →
      let word := readBytes s1.mem tr.pa 8
      ∃ t, exec (.bara d a) s = .next t ∧ NextWord s t ∧ AccessFrame s t ∧ WarpKeeps s t ∧ t.curW.inRgn = false ∧
        OneRegister s t d (BitVec.ofNat 32 (word / 2 ^ 32)) ∧
        readBytes t.mem tr.pa 8 = arrived word (s.gridOf s.curW).teamSize ∧
        SameOutside s t fun b => tr.pa ≤ b ∧ b < tr.pa + 8) ∧
  (∀ (s s1 : State) (tr : Tr) (a b : BitVec 6), Drained s.curW → Issues s → report s.curW none true = none →
      scalarCheck (atDrain s) (s.curW.rdPair a) 8 .load = (s1, .ok tr) → AccessGoes s1 (s.curW.rdPair a) tr 8 → BarrierPlace s1 tr →
      let gen := BitVec.ofNat 16 (readBytes s1.mem tr.pa 8 / 2 ^ 32)
      let g := (s.curW.rd b).extractLsb' 0 16
      ∃ t, exec (.barw a b) s = .next t ∧ AccessFrame s t ∧ SameMemory s t ∧ WarpKeeps s t ∧ t.curW.s = s.curW.s ∧
        (gen ≠ g → NextWord s t ∧ t.curW.park = .none ∧ t.curW.inRgn = false) ∧
        (gen = g → t.curW.pc = s.curW.pc ∧ t.curW.park = .barw (s.curW.rdPair a) g))

/-- R246, R248, R422: SMON arms the warp's watch on the line of its address, unfired, and accesses no memory. SMWAIT answers
NONE without a watch, CHANGE when it has fired, TIMEOUT when a limit of 0 waits on a line that never fires or when the limit
has run out, and disarms it; else it parks its warp. -/
def Obligations.WatchesWakeTheirWarp : Prop :=
  (∀ (s s1 : State) (tr : Tr) (a : BitVec 6), s.role = .alone → scalarCheck s (s.curW.rdPair a) 1 .load = (s1, .ok tr) →
    AccessGoes s1 (s.curW.rdPair a) tr 1 →
    ∃ t, exec (.smon a) s = .next t ∧ NextWord s t ∧ AccessFrame s t ∧ SameMemory s t ∧ WarpKeeps s t ∧ t.curW.s = s.curW.s ∧
      ∃ near, t.curW.watch = some { line := trLine tr, near := near, fired := false }) ∧
  (∀ (s : State) (d b : BitVec 6) (code : Nat), Drained s.curW → Issues s →
    let limit := (s.curW.rd b).toNat
    (s.curW.watch = none ∧ code = 2 ∨
      (∃ x, s.curW.watch = some x ∧ (x.fired = true ∧ code = 0 ∨
        x.fired = false ∧ code = 1 ∧ (limit = 0 ∧ x.near = false ∨
          limit ≠ 0 ∧ (∃ d' l', s.curW.park = .smwait d' l') ∧ s.curW.parkAt + limit ≤ s.curCore.clk + s.curW.parkPast)))) →
    ∃ t, exec (.smwait d b) s = .next t ∧ NextWord s t ∧ OnlyWarp s t ∧ OneRegister s t d (BitVec.ofNat 32 code) ∧
      t.curW.plain = { s.curW.plain with s := t.curW.s, pc := t.curW.pc, park := .none, watch := none }) ∧
  (∀ (s : State) (d b : BitVec 6) (x : Watch), Drained s.curW → Issues s → s.curW.watch = some x → x.fired = false → s.curW.park = .none →
    ((s.curW.rd b).toNat ≠ 0 ∨ x.near = true) →
    ∃ t limit, exec (.smwait d b) s = .next t ∧ OnlyWarp s t ∧
      t.curW = { s.curW with park := .smwait d limit, parkAt := s.curCore.clk, parkPast := 0, drainAt := s.curW.tag })

/-- R297, R423: FENCE waits for the operations its order covers, then performs its release and its acquire at its scope, and
ends the region. It changes no register, and of memory only bytes that earlier stores of the die wait to write. -/
def Obligations.FencesOrderAccesses : Prop :=
  ∀ (s : State) (scope : BitVec 3) (ord : BitVec 2), s.role = .alone → Drained s.curW →
    (fenceWaits s ord = true → exec (.fence scope ord) s = .next (atDrain s)) ∧
    (fenceWaits s ord = false →
      let s1 := if ord.getLsbD 1 then releaseAt (atDrain s) s.cur.site s.cur.core s.cur.slot scope.toNat none else atDrain s
      let s2 := if ord.getLsbD 0 then acquireAct s1 s.cur.site s.cur.core scope.toNat else s1
      ∃ t, exec (.fence scope ord) s = .next t ∧ NextWord s t ∧ AccessFrame s t ∧ WarpKeeps s t ∧ t.curW.s = s.curW.s ∧
        t.curW.inRgn = false ∧ t.mem = s2.mem ∧ t.cores = s2.cores ∧ t.dies = s2.dies ∧ SameOutside s t fun _ => False)

/-- R301, R305, R424: RACQ, RACQ.ALL.DIE and RACQ.ALL.DEVICE promote, at the core that the target address names, at every
core of its die, or at every core of the device, what precedes the newest entry of the synchronisation line, and then acquire
at device scope; they store nothing but bytes of earlier stores. -/
def Obligations.RemoteAcquiresPromoteTheirCores : Prop :=
  ∀ (s s1 s2 : State) (ts tt : Tr) (i : Instr) (a b : BitVec 6) (site core off : Nat) (cores : List (Nat × Nat)),
    s.role = .alone → Drained s.curW → scalarCheck (atDrain s) (s.curW.rdPair a) 1 .load = (s1, .ok ts) →
    AccessGoes s1 (s.curW.rdPair a) ts 1 →
    (i = .racqAllDevice a ∧ s2 = s1 ∧ cores = (List.range 48).flatMap (fun x => (List.range 48).map fun c => (x, c)) ∨
      scalarCheck s1 (s.curW.rdPair b) 1 .load = (s2, .ok tt) ∧ AccessGoes s2 (s.curW.rdPair b) tt 1 ∧ tt.kind = .localMem ∧ tt.attr = 3 ∧ region tt.pa = .window site core off ∧
        (i = .racq a b ∧ s2.racqDenied site core = false ∧ cores = [(site, core)] ∨ i = .racqAllDie a b ∧ cores = (List.range 48).map fun c => (site, c))) →
    let u := acquireAct (serveRacqs s2 (trLine ts) cores) s.cur.site s.cur.core 4
    ∃ t, exec i s = .next t ∧ NextWord s t ∧ AccessFrame s t ∧ WarpKeeps s t ∧ t.curW.s = s.curW.s ∧ t.curW.inRgn = false ∧
      t.mem = u.mem ∧ t.cores = u.cores ∧ t.dies = u.dies ∧ SameOutside s t fun _ => False

/-- R172, R174, R425: an RBGET whose blocks fit the pool while no warp of its core waits pins them and goes on; one that does
not find them there parks its warp in the core's queue, behind the warps that started to wait earlier, or in the same clock with
a lower slot. RBPUT, with the lane stream drained, unpins the blocks it
names, and the register cache keeps its words. -/
def Obligations.RegisterBlocksArePinned : Prop :=
  (∀ (s : State) (first : BitVec 6) (n : BitVec 5), wellFormed (.rbget first n) = true → s.curCore.rbWait = [] →
    needed s.curW first.toNat n.toNat ≤ poolFree s.curCore →
    ∃ t, exec (.rbget first n) s = .next t ∧ NextWord s t ∧ t.curCore.rbWait = [] ∧
      t.curW.plain.still = { s.curW.plain.still with pc := t.curW.pc, park := .none, pinned := t.curW.pinned } ∧
      ∀ b, t.curW.pinned.getLsbD b = (s.curW.pinned.getLsbD b || (decide (first.toNat ≤ b) && decide (b < first.toNat + n.toNat)))) ∧
  (∀ (s : State) (first : BitVec 6) (n : BitVec 5), (∀ e ∈ s.curCore.rbWait, e.1 ≠ s.cur.slot) →
    (s.curCore.rbWait ≠ [] ∨ poolFree s.curCore < needed s.curW first.toNat n.toNat) → s.curW.park = .none →
    ∃ t l1 l2, exec (.rbget first n) s = .next t ∧ s.curCore.rbWait = l1 ++ l2 ∧
      (∀ e ∈ l1, e.2.2.2 < s.curCore.clk ∨ e.1 < s.cur.slot) ∧ (∀ e, l2.head? = some e → s.curCore.clk ≤ e.2.2.2 ∧ s.cur.slot < e.1) ∧
      t.curCore = { s.curCore with rbWait := l1 ++ (s.cur.slot, first.toNat, n.toNat, s.curCore.clk) :: l2 } ∧
      t.curW = { s.curW with park := .rbget first.toNat n.toNat, parkAt := s.curCore.clk, parkPast := 0 }) ∧
  (∀ (s : State) (first : BitVec 6) (n : BitVec 5), wellFormed (.rbput first n) = true → Drained s.curW →
    ∃ t, exec (.rbput first n) s = .next t ∧ NextWord s t ∧ t.curCore.words = s.curCore.words ∧ t.mem = s.mem ∧
      t.curW.plain.still = { s.curW.plain.still with pc := t.curW.pc, park := .none, pinned := t.curW.pinned } ∧
      ∀ b, t.curW.pinned.getLsbD b = (s.curW.pinned.getLsbD b && !(decide (first.toNat ≤ b) && decide (b < first.toNat + n.toNat))))

/-- R216, R506: PHASE writes the core's declaration record at issue. Without a record in force a new one starts no earlier
than its onset, 256 clk from now and 128 clk after the last one of its cluster, limited to 1920 clk beyond its onset; with
one its class and its end only grow. It writes nothing else of the core but the class of the running window. -/
def Obligations.PhasesAreDeclared : Prop :=
  ∀ (s : State) (a b : BitVec 6) (cls : BitVec 8),
    let onset := (s.curW.rd a).toNat
    let len := (s.curW.rd b).toNat
    let now := s.curCore.clk
    onset ≤ 65535 → 1 ≤ len → len ≤ 4095 →
    ∃ t, exec (.phase a b cls) s = .next t ∧ NextWord s t ∧ t.curW.s = s.curW.s ∧ t.mem = s.mem ∧
      t.curCore = { s.curCore with phase := t.curCore.phase, phLast := t.curCore.phLast, winCls := t.curCore.winCls } ∧
      ((s.curCore.phase = none ∨ ∃ p, s.curCore.phase = some p ∧ p.te ≤ now) →
        let cl := s.sliceOf s.cur.site s.cur.core
        let early := max (now + onset) (max (now + 256) (match FMap.find (s.die s.cur.site).tlast cl with | some x => x + 128 | none => 0))
        let tg := min early (now + max onset 256 + 1920)
        t.curCore.phase = some { tg := tg, te := tg + len * 256, cls := cls.toNat } ∧
          FMap.find (t.die s.cur.site).tlast cl = some tg) ∧
      (∀ p, s.curCore.phase = some p → now < p.te →
        t.curCore.phase = some { tg := p.tg, te := max p.te (now + max onset 256 + len * 256), cls := max p.cls cls.toNat })

/-- R323, R426, R429: RGN with the lane stream drained takes the snapshot of both streams, sets the restart count to 0 and starts
a region; in a handler it is illegal. -/
def Obligations.RegionsSnapshotTheStreams : Prop :=
  (∀ s : State, s.curW.hflag = false → Drained s.curW → (∀ sh, s.role ≠ .lead sh) →
    ∃ t, exec .rgn s = .next t ∧ OnlyWarp s t ∧
      t.curW.plain = { s.curW.plain with
        pc := s.curW.pc + 1, park := .none, snapPc := s.curW.pc + 1, snap := s.curW.lane, restarts := 0, inRgn := true }) ∧
  (∀ s : State, s.curW.hflag = true → s.role = .alone → s.cur.lane = none →
    exec .rgn s = .next (trapAt s s.curRef (scalarTrap 1 0 0 [encodeScalar .rgn])))

/-- R176, R177, R505: LAUNCH, with the lane stream drained and room at the GCP, performs its device-scope release, reads the 128
bytes of its packet once no write of its own has still to be performed, and hands their copy to the GCP as a grid of the launching grid's world and root that no queue holds.
It ends the region and changes no register. -/
def Obligations.LaunchesEnterTheGridTable : Prop :=
  ∀ (s s1 s2 : State) (tr : Tr) (a : BitVec 6) (v : Nat), s.role = .alone → Drained s.curW → s.curW.owes = false → MayRequest s 4 →
    (s.hub.grids.filter fun e => e.2.st == .waiting && e.2.q == none).length < 256 →
    scalarCheck (atDrain s) (s.curW.rdPair a) 128 .load = (s1, .ok tr) → AccessGoes s1 (s.curW.rdPair a) tr 128 →
    readPieces (releaseAct s1 s.cur.site s.cur.core 4) (s.who s.curRef) tr 4 = (s2, v, stOk) →
    ∃ t, exec (.launch a) s = .next t ∧ NextWord s t ∧ WarpKeeps s t ∧ t.curW.s = s.curW.s ∧ t.curW.inRgn = false ∧
      t.hub = { s.hub with
        nextGrid := s.hub.nextGrid + 1
        grids := FMap.set s.hub.grids s.hub.nextGrid
          { Grid.none with
            pkt := BitVec.ofNat 1024 v, src := some (s.curW.team, s.curW.wid), q := none, sec := (s.gridOf s.curW).sec
            root := (s.gridOf s.curW).root, st := .waiting, seen := t.wlog.length } } ∧
      t.trust = s.trust ∧ t.time = s.time ∧ SameOutside s t (s1.demotes tr)

/-- R249, R306, R344, R496, R497, R499: a FEED whose descriptor describes a plain stream is handed to the stream feeder of its core.
R249, R306, R344, R496, R501 to R504: COPY, COPY.RESUME and NBR whose descriptors R501 and R503 allow are handed to the copy
engines of their die, COPY.RESUME from the count of its completion object on, NBR with the logical neighbour of its
direction at issue.
R342, R497: a COPY whose LEN is out of range traps with cause ILLEGAL, TINFO0 the offset 0x10 of LEN, before anything is
handed over. -/
def Obligations.CommandsAreHandedOver : Prop :=
  (∀ (s s1 s2 : State) (tr : Tr) (a b : BitVec 6) (scope : BitVec 3) (v : Nat), s.role = .alone → s.curW.canIssue 2 = true → MayRequest s 4 →
      s.curW.owesEnded = false →
      s.curCore.feeds.length < 16 → scalarCheck s (s.curW.rdPair a) 128 .load = (s1, .ok tr) → AccessGoes s1 (s.curW.rdPair a) tr 128 →
      readPieces s1 (s.who s.curRef) tr 4 = (s2, v, stOk) →
      let fb := s.curW.rd (b + 3) ++ s.curW.rd (b + 2) ++ s.curW.rd (b + 1) ++ s.curW.rd b
      PlainFeed v →
      ∃ t, exec (.feed a b scope) s = .next t ∧ HandsOver s t 2 (s1.demotes tr) ∧
        t.curCore.feeds = s.curCore.feeds ++ [command s .feed v fb scope.toNat 0 none]) ∧
  (∀ (s s1 s2 : State) (tr : Tr) (a b : BitVec 6) (scope : BitVec 3) (v : Nat), s.role = .alone → s.curW.canIssue 3 = true → MayRequest s 4 →
      s.curW.owesEnded = false →
      (s.die s.cur.site).copies.length < 64 → scalarCheck s (indexed s.curW a b) 64 .load = (s1, .ok tr) →
      AccessGoes s1 (indexed s.curW a b) tr 64 → readPieces s1 (s.who s.curRef) tr 2 = (s2, v, stOk) →
      (CopyDescriptor v → ∃ t, exec (.copy a b scope) s = .next t ∧ HandsOver s t 3 (s1.demotes tr) ∧
        (t.die s.cur.site).copies = (s.die s.cur.site).copies ++ [command s .copy v 0 scope.toNat 0 none]) ∧
      (NbrDescriptor v → ∃ t nbr, exec (.nbr a b scope) s = .next t ∧ HandsOver s t 3 (s1.demotes tr) ∧
        (t.die s.cur.site).copies = (s.die s.cur.site).copies ++ [command s .nbr v 0 scope.toNat 0 nbr] ∧
        (s2.logical s.cur.site < 64 →
          let x := (s2.reg (nbrA (s2.logical s.cur.site))).toNat / 2 ^ (48 - 16 * descField v 0x30 1) % 2 ^ 16
          nbr = if x = 0xFFFF then none else some x)) ∧
      (∀ s3 s4 tr2 n, CopyDescriptor v → descField v 0x18 8 ≠ 0 →
        scalarCheck s2 (BitVec.ofNat 64 (descField v 0x18 8 + 8)) 8 .load = (s3, .ok tr2) →
        AccessGoes s3 (BitVec.ofNat 64 (descField v 0x18 8 + 8)) tr2 8 → doLoad s3 (s.who s.curRef) tr2 8 0 = (s4, n, stOk) →
        n < descField v 0x10 8 → (n = 0 ∨ (descField v 8 8 + n) % 4096 = 0) →
        ∃ t, exec (.copyResume a b scope) s = .next t ∧ HandsOver s t 3 (fun x => s1.demotes tr x ∨ s3.demotes tr2 x) ∧
          (t.die s.cur.site).copies = (s.die s.cur.site).copies ++ [command s .copy v 0 scope.toNat n none])) ∧
  (∀ (s s1 s2 : State) (tr : Tr) (a b : BitVec 6) (scope : BitVec 3) (v : Nat), s.role = .alone → s.cur.lane = none →
      s.curW.canIssue 3 = true → MayRequest s 4 → s.curW.owesEnded = false → (s.die s.cur.site).copies.length < 64 →
      scalarCheck s (indexed s.curW a b) 64 .load = (s1, .ok tr) → AccessGoes s1 (indexed s.curW a b) tr 64 →
      readPieces s1 (s.who s.curRef) tr 2 = (s2, v, stOk) → (descField v 0x10 8 = 0 ∨ 2 ^ 40 < descField v 0x10 8) →
      exec (.copy a b scope) s = .next (trapAt s2 s2.curRef (scalarTrap 1 0 0 [0x10])))

/-- R427: SREAD writes the special register it names into its register, or into its pair where the register has width 2; in a pair
both warps get the value that the leader reads (R314).
R341, R427, R324: in a handler SWRITE writes TPC, TLPC or TAMASK, and of the handler registers that are read only it writes
none; it ends the region. Outside a handler it is illegal. -/
def Obligations.SpecialRegistersReadAndWrite : Prop :=
  (∀ (s : State) (d : BitVec 6) (n : BitVec 14) (v : Nat), wellFormed (.sread d n) = true →
      OutsideGives s (specialValue s n.toNat) v →
      ∃ t, exec (.sread d n) s = .next t ∧ ScalarFrame s t ∧ NextWord s t ∧
        ∀ r, t.curW.rd r = if r = 63 then (0 : Word) else if r = d then BitVec.ofNat 32 v
          else if specialWide n.toNat = true ∧ r = d + 1 then BitVec.ofNat 32 (v / 2 ^ 32) else s.curW.rd r) ∧
  ((∀ (s : State) (a : BitVec 6) (n : BitVec 14), s.role = .alone → wellFormed (.swrite a n) = true → s.curW.hflag = true →
      ∃ t, exec (.swrite a n) s = .next t ∧ OnlyWarp s t ∧
        t.curW = { s.curW with
          pc := s.curW.pc + 1, park := .none, inRgn := false
          tpc := if n = 0x21 then s.curW.rd a else s.curW.tpc
          tlpc := if n = 0x22 then s.curW.rdPair a else s.curW.tlpc
          tamask := if n = 0x24 then s.curW.rdPair a else s.curW.tamask }) ∧
    (∀ (s : State) (a : BitVec 6) (n : BitVec 14), s.role = .alone → s.cur.lane = none → s.curW.hflag = false →
      exec (.swrite a n) s = .next (trapAt s s.curRef (scalarTrap 1 0 0 [encodeScalar (.swrite a n)]))))

/-- R336 to R342, R428: TRAP, with the lane stream drained, writes the handler registers with cause 13 and the low 16 bits of its
code, sets the lane state aside, sets the handler flag and goes on at the trap vector, with its region ended. Every other
register of the warp stays as it is, and no memory changes.
R339, R340: a trap without a vector, and a trap in a handler, is fatal: every warp of the team ends, and its grid's status will
be FAULT. -/
def Obligations.TrapsEnterTheHandler : Prop :=
  (∀ (s : State) (code : BitVec 20), s.role = .alone → Drained s.curW → s.curW.hflag = false → (s.team s.curW.team).trapvec ≠ 0 →
      s.curW.lane.stack.length ≤ 32 →
      ∃ t, exec (.trap code) s = .next t ∧ t.mem = s.mem ∧ HandlerRegisters s.curW 13 (code.toNat % 2 ^ 16) t.curW ∧
        t.curW = { s.curW with
          pc := BitVec.ofNat 32 (s.team s.curW.team).trapvec, hflag := true, inRgn := false, park := .none, haz := [], resAt := none
          drainAt := s.curW.tag
          lane := LaneCtx.none, queue := [], running := none
          aside := some { lane := s.curW.lane, queue := [], running := none, resAt := s.curW.resAt }
          tcause := t.curW.tcause, tpc := t.curW.tpc, tlpc := t.curW.tlpc, tamask := t.curW.tamask, tfmask := t.curW.tfmask
          taddr := t.curW.taddr, tinfo := t.curW.tinfo }) ∧
  (∀ (s : State) (code : BitVec 20), s.role = .alone → Drained s.curW →
      (s.curW.hflag = true ∨ (s.team s.curW.team).trapvec = 0) →
      ∃ t, exec (.trap code) s = .next t ∧ (t.grid (s.team s.curW.team).g).fault = true ∧ (t.team s.curW.team).fatal = true ∧
        (t.team s.curW.team).slots = [] ∧ (t.team s.curW.team).shSlots = [] ∧
        ∀ r ∈ teamWarps s (s.team s.curW.team), (t.wref r).still = Warp.none)

/-- R343, R429: ERET in a handler with the lane stream drained resumes the warp: the scalar PC becomes TPC, each slot takes its
state and PC from TLPC and its lanes from TAMASK less those that have exited, what was set aside comes back, and the handler
flag is clear.
R237, R238: where the lanes of one slot have all exited, the top of the stack is popped into it, or the other slot goes on if it WAITs;
where both slots WAIT at different PCs the lower one goes on.
Outside a handler ERET is illegal. -/
def Obligations.ReturnsResumeTheStreams : Prop :=
  (∀ (s : State) (a : Aside), s.curW.hflag = true → Drained s.curW → s.curW.aside = some a →
    ∃ t, exec .eret s = .next t ∧ OnlyWarp s t ∧ t.curW.pc = s.curW.tpc ∧ t.curW.hflag = false ∧ t.curW.aside = none ∧
      t.curW.s = s.curW.s ∧ t.curW.queue = a.queue ∧
      let stack := (a.lane.stack.map fun e => { e with mask := e.mask &&& ~~~s.curW.exited }).filter fun e => e.mask != 0
      let back (one : Bool) : SlotSt × Word × Word := resumedSlot s.curW one
      let now (one : Bool) : SlotSt × Word × Word := ((t.curW.lane.slot one).st, (t.curW.lane.slot one).pc, (t.curW.lane.slot one).mask)
      (¬ SlotGone s.curW false → ¬ SlotGone s.curW true →
        ((back false).1 = .wait → (back true).1 = .wait → (back false).2.1 = (back true).2.1) →
        now false = back false ∧ now true = back true ∧ t.curW.lane.stack = stack) ∧
      (∀ one, SlotGone s.curW one → ¬ SlotGone s.curW (!one) →
        match stack with
        | x :: rest => now one = (.live, x.pc, x.mask) ∧ now (!one) = back (!one) ∧ t.curW.lane.stack = rest
        | [] => (now one).1 = .empty ∧ t.curW.lane.stack = [] ∧
            now (!one) = if (back (!one)).1 = .wait then (.live, (back (!one)).2.1 + 1, (back (!one)).2.2) else back (!one)) ∧
      (∀ one, (back one).1 = .wait → (back (!one)).1 = .wait → (back one).2.1 < (back (!one)).2.1 →
        now one = (.live, (back one).2.1 + 1, (back one).2.2) ∧ now (!one) = back (!one) ∧ t.curW.lane.stack = stack)) ∧
  (∀ s : State, s.curW.hflag = false → s.role = .alone → s.cur.lane = none →
    exec .eret s = .next (trapAt s s.curRef (scalarTrap 1 0 0 [encodeScalar .eret])))

/-- R338, R343: a TRAP whose handler only returns leaves the streams as they were: both lane PC slots, the divergence stack, the
lane queue, the scalar PC, and every other field of the warp but the handler registers, the region, the wait that the trap ended,
results that were on their way, and the counts of instructions of the paths. -/
def Obligations.ReturnUndoesTheEntry : Prop :=
  ∀ (s t : State) (code : BitVec 20), s.role = .alone → Drained s.curW → s.curW.hflag = false → (s.team s.curW.team).trapvec ≠ 0 →
    Restorable s.curW.exited s.curW.lane.s0 → Restorable s.curW.exited s.curW.lane.s1 → s.curW.lane.s0.st ≠ .live → s.curW.lane.s1.st ≠ .live →
    (s.curW.lane.s0.st = .wait → s.curW.lane.s1.st = .wait → s.curW.lane.s0.pc = s.curW.lane.s1.pc) →
    (∀ e ∈ s.curW.lane.stack, e.mask &&& s.curW.exited = 0 ∧ e.mask ≠ 0) →
    exec (.trap code) s = .next t →
    ∃ u, exec .eret t = .next u ∧
      u.curW = { s.curW with
        tcause := u.curW.tcause, tpc := u.curW.tpc, tlpc := u.curW.tlpc, tamask := u.curW.tamask, tfmask := u.curW.tfmask
        taddr := u.curW.taddr, tinfo := u.curW.tinfo, inRgn := false, park := .none, haz := [], lane := u.curW.lane, queue := []
        running := none, aside := none, resAt := if s.curW.resAt = some s.curW.pc then some s.curW.pc else none
        drainAt := s.curW.tag } ∧
      u.curW.lane.stack = s.curW.lane.stack ∧
      ∀ one, (u.curW.lane.slot one).st = (s.curW.lane.slot one).st ∧ (u.curW.lane.slot one).pc = (s.curW.lane.slot one).pc ∧
        (u.curW.lane.slot one).mask = (s.curW.lane.slot one).mask

/-- R165, R221, R250, R345, R430: EXIT waits for the lane stream and for every operation in flight, reports a pending record
first, and then ends the warp: its slot holds no warp, its team counts one more exit, its THROT count joins the grid's. -/
def Obligations.ExitEndsTheWarp : Prop :=
  (∀ s : State, s.role = .alone → Drained s.curW → s.curW.ops = [] → report s.curW none true = none →
    ∃ t, exec .exit s = .next t ∧ t.curW = Warp.none ∧ (t.team s.curW.team).exits = (s.team s.curW.team).exits + 1 ∧
      s.cur.slot ∉ (if s.curW.shadow then (t.team s.curW.team).shSlots else (t.team s.curW.team).slots) ∧
      (t.grid (s.team s.curW.team).g).throt = min ((s.grid (s.team s.curW.team).g).throt + s.curW.throt.toNat) (2 ^ 32 - 1)) ∧
  (∀ s : State, ¬ Drained s.curW → exec .exit s = .next s) ∧
  (∀ s : State, Drained s.curW → s.curW.ops ≠ [] → exec .exit s = .next (atDrain s)) ∧
  (∀ (s : State) (w : Warp) (x : TrapInfo), s.role = .alone → Drained s.curW → s.curW.ops = [] →
    report (atDrain s).curW none true = some (w, x) → exec .exit s = .next (trapAt ((atDrain s).setW w) s.curRef x))

/-- R249, R344, R462 to R467: an LD, and an LDC whose lanes lie in the kernel's data section, whose lanes pass their checks are
performed and in flight on path LOAD, with their destination registers unreadable until an SWAIT. It stores nothing: of memory only bytes of earlier stores change, and the entry of
a page whose gate is closed (R95).
R249, R344, R465, R471, R476: an ST or RED whose lanes pass their checks is performed and in flight on path STORE; it writes no
register and, of package memory, no byte but those its lanes name, but for bytes of earlier stores and the entry of a page that
it demotes. Under MIRROR its lanes must agree in pairs (R322).
R249, R319, R344, R471 to R474: an ATOM, CAS or ATOMF whose lanes pass their checks is performed and in flight on path LOAD,
with the old values on their way to its destination; of package memory it changes no byte but those its lanes name, but for
bytes of earlier stores and the entry of a page that it demotes. -/
def Obligations.LaneAccessesAreInFlight : Prop :=
  (∀ (s s1 s2 : State) (h : Hdr) (f : LM) (i : Instr) (va : Nat → DWord) (ts : List (LaneAddr × Tr)) (o : AsyncOp),
      wellFormed i = true → LaneFree s h f 0 false → Pinned s [f.d, f.a] →
      (i = .ld h f ∧ va = lmAddress s h f ∨
        i = .ldc h f ∧ (s.team s.curW.team).dataVa ≠ 0 ∧ (va = fun l => BitVec.ofInt 64 ((s.team s.curW.team).dataVa + ldcOffset s h f l)) ∧
          ∀ l ∈ lanesOf (s.laneEnv h).act, ldcOffset s h f l % lmBytes f = 0 ∧ 0 ≤ ldcOffset s h f l ∧
            ldcOffset s h f l + lmBytes f ≤ (s.team s.curW.team).dlen) →
      laneChecks s h va (lmBytes f) .load = (s1, .ok ts) →
      LanesGo s1 s.curW ts true (ownResults ts (lmBytes f) fun _ => 0) →
      performOp s1 s.curRef (laneOperation s h f 0 0 (lmHint f) (some (num f.d)) (regCount f.d) (f.m.getLsbD 10)
        (allResults s h va ts (lmBytes f) fun _ => 0)) = (s2, o) →
      ∃ t, exec i s = .next t ∧ InFlight s t h o ∧ SameOutside s t fun b => ∃ x ∈ ts, s1.demotes x.2 b) ∧
  (∀ (s s1 s2 : State) (h : Hdr) (f : LM) (i : Instr) (op hint : Nat) (k : Acc) (ts : List (LaneAddr × Tr)) (o : AsyncOp),
      let data (l : Nat) : Nat := srcVal s (s.laneEnv h) f.b l % 2 ^ (8 * lmBytes f)
      wellFormed i = true → LaneFree s h f 1 (k == .atomic) → Pinned s [f.a, f.b] →
      (i = .st h f ∧ op = 1 ∧ hint = lmHint f ∧ k = .store ∨
        i = .red h f ∧ op = 16 + aopOf f ∧ hint = (if f.m.getLsbD 14 = true ∧ aopOf f = 12 then 1 else 0) ∧ k = .atomic) →
      mirrored s (s.laneEnv h) (fun l => (lmAddress s h f l).toNat) data = true →
      laneChecks s h (lmAddress s h f) (lmBytes f) k = (s1, .ok ts) →
      LanesGo s1 s.curW ts true (ownResults ts (lmBytes f) data) →
      performOp s1 s.curRef (laneOperation s h f 1 op hint none 0 false (allResults s h (lmAddress s h f) ts (lmBytes f) data)) = (s2, o) →
      ∃ t, exec i s = .next t ∧ InFlight s t h o ∧
        ((∀ x ∈ ts, x.2.kind = .localMem) → SameOutside s t (laneBytes s1 ts (lmBytes f)))) ∧
  (∀ (s s1 s2 : State) (h : Hdr) (f : LM) (i : Instr) (op : Nat) (ts : List (LaneAddr × Tr)) (o : AsyncOp),
      let bytes := if op = 2 then 2 * lmBytes f else lmBytes f
      let data (l : Nat) : Nat := srcVal s (s.laneEnv h) f.b l % 2 ^ (8 * bytes)
      wellFormed i = true → LaneFree s h f 0 true → Pinned s [f.d, f.a, f.b] →
      (i = .cas h f ∧ op = 2 ∨ (i = .atom h f ∨ i = .atomf h f) ∧ op = 16 + aopOf f) →
      mirrored s (s.laneEnv h) (fun l => (lmAddress s h f l).toNat) data = true →
      laneChecks s h (lmAddress s h f) (lmBytes f) .atomic = (s1, .ok ts) →
      LanesGo s1 s.curW ts true (ownResults ts (lmBytes f) data) →
      performOp s1 s.curRef (laneOperation s h f 0 op (lmHint f) (some (num f.d)) (regCount f.d) false
        (allResults s h (lmAddress s h f) ts (lmBytes f) data)) = (s2, o) →
      ∃ t, exec i s = .next t ∧ InFlight s t h o ∧
        ((∀ x ∈ ts, x.2.kind = .localMem) → SameOutside s t (laneBytes s1 ts (lmBytes f))))

/-- R468, R469: WBL and INVL whose lanes pass their checks are in flight on path STORE and change, of memory, only bytes of earlier
stores; PRF, too, stores nothing, changes no counter and no tag, and never traps. -/
def Obligations.CacheInstructionsKeepMemory : Prop :=
  (∀ (s s1 s2 : State) (h : Hdr) (f : LM) (i : Instr) (op : Nat) (ts : List (LaneAddr × Tr)) (o : AsyncOp),
    wellFormed i = true → LaneFree s h f 1 false → Pinned s [f.a] → (i = .wbl h f ∧ op = 4 ∨ i = .invl h f ∧ op = 5) →
    laneChecks s h (lmAddress s h f) 1 .load = (s1, .ok ts) →
    LanesGo s1 s.curW ts false [] →
    performOp s1 s.curRef (laneOperation s h f 1 op (lmHint f) none 0 false (allResults s h (lmAddress s h f) ts 1 fun _ => 0)) = (s2, o) →
    ∃ t, exec i s = .next t ∧ InFlight s t h o ∧ SameOutside s t fun _ => False) ∧
  (∀ (s : State) (h : Hdr) (f : LM), wellFormed (.prf h f) = true → Pinned s [f.a] → MayRequest s 32 → PathAcquired s h →
    ∃ t, exec (.prf h f) s = .next t ∧ PathNext s t h ∧ AccessFrame s t ∧ SameOutside s t (prefetchBytes s h f) ∧
      t.curW.plain.still = { s.curW.plain.still with lane := t.curW.lane, haz := t.curW.haz, lastOne := t.curW.lastOne })

/-- R254, R255, R336, R337: a lane access with an active lane at or above 2^55 traps with PERM, and one without such a lane but with a
misaligned lane with MISALIGN, before it does anything: TFMASK names those lanes, TADDR the address of the lowest. -/
def Obligations.LaneAddressesAreChecked : Prop :=
  ∀ (s : State) (h : Hdr) (f : LM) (i : Instr) (one : Bool) (code : Nat) (bad : Nat → Bool) (low : Nat) (atomic : Bool), s.cur.lane = some one →
    LaneFree s h f 0 atomic → LaneFree s h f 1 atomic → (s.gridOf s.curW).mirror = false → wellFormed i = true → Pinned s [f.d, f.a, f.b] →
    ((i = .ld h f ∨ i = .st h f) ∧ atomic = false ∨ (i = .atom h f ∨ i = .cas h f ∨ i = .red h f ∨ i = .atomf h f) ∧ atomic = true) →
    (let high (l : Nat) : Bool := decide (2 ^ 55 ≤ (lmAddress s h f l).toNat)
     code = 5 ∧ bad = high ∨
      code = 6 ∧ (∀ l, (s.laneEnv h).act.getLsbD l = true → high l = false) ∧
        bad = fun l => decide ((lmAddress s h f l).toNat % lmBytes f ≠ 0)) →
    (s.laneEnv h).act.getLsbD low = true → bad low = true → (∀ l < low, (s.laneEnv h).act.getLsbD l = true → bad l = false) →
    ∃ s1 m, exec i s = .next (trapAt s1 s.curRef { scalarTrap code 0 (lmAddress s h f low) [] with lane := true, slot1 := one, fmask := m }) ∧
      SameMemory s s1 ∧ ∀ l, m.getLsbD l = ((s.laneEnv h).act.getLsbD l && bad l)

/-- R235, R479: LBRA without an active lane goes on, with all lanes of its path active it jumps, and with lanes on both sides it
splits: the lanes that do not take it go on in their slot, those that take it get the other slot, whose path, if there is one,
goes to the divergence stack. Where the stack is full it is illegal instead. -/
def Obligations.LaneBranchesSplitPaths : Prop :=
  ∀ (s : State) (h : Hdr) (f : LC), (s.gridOf s.curW).mirror = false →
    let p := lanePathOf s h
    let act := (s.laneEnv h).act
    let one := (s.laneEnv h).one
    let target := p.pc + f.off.signExtend 32
    let o := otherSlot s h
    (act = 0 → ∃ t, exec (.lbra h f) s = .next t ∧ ControlFrame s t ∧ t.curW.lane = s.curW.lane.setSlot one (afterS h p (p.pc + 1))) ∧
    (act ≠ 0 → act = p.mask → ∃ t, exec (.lbra h f) s = .next t ∧ ControlFrame s t ∧ t.curW.lane = s.curW.lane.setSlot one (afterS h p target)) ∧
    (act ≠ 0 → act ≠ p.mask → (o.st = .empty ∨ s.curW.lane.stack.length < 32) →
      ∃ t, exec (.lbra h f) s = .next t ∧ ControlFrame s t ∧
        (let st : SlotSt := if h.s then .held else .live
         (t.curW.lane.slot one).mask = p.mask &&& ~~~act ∧ (t.curW.lane.slot one).pc = p.pc + 1 ∧ (t.curW.lane.slot one).st = st ∧
           (t.curW.lane.slot (!one)).mask = act ∧ (t.curW.lane.slot (!one)).pc = target ∧ (t.curW.lane.slot (!one)).st = st) ∧
        t.curW.lane.stack.map (fun x => (x.pc, x.mask)) =
          (if o.st = .empty then [] else [(o.pc, o.mask)]) ++ s.curW.lane.stack.map (fun x => (x.pc, x.mask))) ∧
    (act ≠ 0 → act ≠ p.mask → o.st ≠ .empty → 32 ≤ s.curW.lane.stack.length → s.role = .alone → ∀ sl, s.cur.lane = some sl →
      exec (.lbra h f) s = .next (trapAt s s.curRef { scalarTrap 1 0 0 (laneInfo (.lbra h f)) with lane := true, slot1 := sl }))

/-- R237, R480: LJOIN merges its path with one that WAITs at the same PC, in the slot of the older of both, and the top of the divergence
stack, if it has one, is popped into the other slot; it waits for the other slot while that is LIVE or HELD; lets an entry of the
stack run before it; and goes on where nothing is left to wait for, or where the other slot WAITs at another PC. -/
def Obligations.JoinsWaitForTheirPaths : Prop :=
  ∀ (s : State) (h : Hdr) (f : LC), CheckAgrees s true (laneSig s.curW.lane).toNat → (lanePathOf s h).st = .live →
    let p := lanePathOf s h
    let one := (s.laneEnv h).one
    let o := otherSlot s h
    ∃ t, exec (.ljoin h f) s = .next t ∧ ControlFrame s t ∧
      (o.st = .wait → o.pc = p.pc →
        let older := decide (s.curW.lane.s1.age < s.curW.lane.s0.age)
        t.curW.lane.slot older = { st := .live, pc := p.pc + 1, mask := p.mask ||| o.mask, cnt := max (p.cnt + 1) o.cnt,
                                   age := (s.curW.lane.slot older).age } ∧
          match s.curW.lane.stack with
          | [] => (t.curW.lane.slot (!older)).st = .empty ∧ t.curW.lane.stack = []
          | x :: rest =>
            t.curW.lane.slot (!older) = { st := .live, pc := x.pc, mask := x.mask, cnt := x.cnt, age := x.age } ∧
              t.curW.lane.stack = rest) ∧
      (o.st = .wait → o.pc ≠ p.pc → t.curW.lane = s.curW.lane.setSlot one { p with pc := p.pc + 1, cnt := p.cnt + 1 }) ∧
      ((o.st = .live ∨ o.st = .held) →
        t.curW.lane = s.curW.lane.setSlot one { p with st := .wait, cnt := p.cnt + 1 }) ∧
      (∀ x rest, o.st = .empty → s.curW.lane.stack = x :: rest →
        t.curW.lane.slot one = { p with st := .wait, cnt := p.cnt + 1 } ∧ t.curW.lane.stack = rest ∧
          t.curW.lane.slot (!one) = { st := .live, pc := x.pc, mask := x.mask, cnt := x.cnt, age := x.age }) ∧
      (o.st = .empty → s.curW.lane.stack = [] →
        t.curW.lane = s.curW.lane.setSlot one { p with pc := p.pc + 1, cnt := p.cnt + 1 })

/-- R481: LCALL writes the next lane PC into its register in the active lanes and goes to its target. LRET goes to the lane PC
that its register holds in the active lanes, and traps as illegal, naming the lanes that differ from the lowest, where they do
not agree. -/
def Obligations.LaneCallsReturn : Prop :=
  (∀ (s : State) (h : Hdr) (f : LC), wellFormed (.lcall h f) = true → Pinned s [f.a] →
    ∃ t, exec (.lcall h f) s = .next t ∧ LaneFrame s t ∧
      t.curW.lane = s.curW.lane.setSlot (s.laneEnv h).one (afterS h (lanePathOf s h) ((lanePathOf s h).pc + f.off.signExtend 32)) ∧
      Writes s t h (num f.a) 1 fun _ => ((lanePathOf s h).pc + 1).toNat) ∧
  (∀ (s : State) (h : Hdr) (f : LC) (low : Nat), Pinned s [f.a] → (s.laneEnv h).act.getLsbD low = true →
    (∀ l, (s.laneEnv h).act.getLsbD l = true → srcVal s (s.laneEnv h) f.a l = srcVal s (s.laneEnv h) f.a low) →
    ∃ t, exec (.lret h f) s = .next t ∧ ControlFrame s t ∧
      t.curW.lane = s.curW.lane.setSlot (s.laneEnv h).one (afterS h (lanePathOf s h) (BitVec.ofNat 32 (srcVal s (s.laneEnv h) f.a low)))) ∧
  (∀ (s : State) (h : Hdr) (f : LC) (low l : Nat), s.role = .alone → Pinned s [f.a] → (s.laneEnv h).act.getLsbD low = true →
    (∀ j < low, (s.laneEnv h).act.getLsbD j = false) → (s.laneEnv h).act.getLsbD l = true →
    srcVal s (s.laneEnv h) f.a l ≠ srcVal s (s.laneEnv h) f.a low →
    ∃ m, exec (.lret h f) s = .next (trapAt s s.curRef (laneTrap (s.laneEnv h) 1 m 0 (laneInfo (.lret h f)))) ∧ m.getLsbD l = true ∧
      m.getLsbD low = false)

/-- R238, R482: LEXIT ends the active lanes for good: they leave their path, which goes on with the others or, where it has none, leaves
its slot empty. NOP only goes on. -/
def Obligations.LanesExit : Prop :=
  (∀ (s : State) (h : Hdr) (f : L3),
    let p := lanePathOf s h
    let act := (s.laneEnv h).act
    ∃ t, exec (.lexit h f) s = .next t ∧ ControlFrame s t ∧ t.curW.exited = (s.curW.exited ||| act) ∧
      (p.mask &&& ~~~act ≠ 0 →
        t.curW.lane = s.curW.lane.setSlot (s.laneEnv h).one { afterS h p (p.pc + 1) with mask := p.mask &&& ~~~act }) ∧
      (p.mask &&& ~~~act = 0 → s.curW.lane.stack = [] → (otherSlot s h).st ≠ .wait →
        t.curW.lane = s.curW.lane.setSlot (s.laneEnv h).one Path.none)) ∧
  (∀ (s : State) (h : Hdr) (f : L3), ∃ t, exec (.nop h f) s = .next t ∧ ControlFrame s t ∧ PathNext s t h ∧ t.curW.exited = s.curW.exited)

/-- R206, R373, R374, R485 to R489, R492, R494: MMA, MMAW, MMAG, ACCZ and both forms of ACCMV whose format block, tiles, queues and row
counts the spec allows are taken by the matrix unit once it is ready, in the order of arrival, and their paths go on; while
the unit is not ready they stand at their pipe, and nothing else changes. Without an active lane they do nothing. A get of ACCMV waits
while its path LOAD is full (R250). -/
def Obligations.MatrixInstructionsReachTheUnit : Prop :=
  (∀ (s : State) (h : Hdr) (f : LX) (weights : Bool) (i : Instr), i = (if weights then .mmaw h f else .mma h f) →
    let fb := capturedQuad s.curW f.fbq.toNat
    let tq := tilesPer f.shape fb
    let act := (s.laneEnv h).act
    let m := matrixOp s h i fb []
    FormatAllowed fb weights → f.zd.toNat % (4 * tq) = 0 → f.zd.toNat + 4 * tq ≤ tileLimit s →
    (if f.m.getLsbD 1 = true then ∀ q < 4, quarterOn act q = true → (f.qb.toNat + q) % 8 ≠ f.qa.toNat else f.qa ≠ f.qb) →
    (shapeOf f.shape).1 * fbSegs fb ≤ 128 → (shapeOf f.shape).2 * fbSegs fb ≤ 128 →
    (act = 0 → DoesNothing s h i) ∧ (act ≠ 0 → ReachesUnit s h i m)) ∧
  (∀ (s : State) (h : Hdr) (f : LX) (low : Nat),
    let fb := capturedQuad s.curW f.fbq.toNat
    let n := (f.m.extractLsb' 2 6).toNat + 1
    let e := s.laneEnv h
    let t0 := s.team s.curW.team
    let off := (BitVec.ofNat 64 (srcVal s e f.x low) - s.scrBase t0).toNat
    let counts := (List.range n).map fun g => readBytes s.mem (winAddr t0.site t0.core + 0x100000 + 1024 * t0.gran + off + 2 * g) 2
    let m := matrixOp s h (.mmag h f) fb counts
    FormatAllowed fb false → f.zd.toNat % tilesPer 0 fb = 0 → f.zd.toNat + n * tilesPer 0 fb ≤ tileLimit s → f.qa ≠ f.qb →
    (e.act = 0 → DoesNothing s h (.mmag h f)) ∧
    (e.act.getLsbD low = true → (∀ l < low, e.act.getLsbD l = false) → srcVal s e f.x low % 2 = 0 → off + 2 * n ≤ 1024 * t0.ngran →
      (∀ r ∈ counts, 1 ≤ r ∧ r ≤ 16) → ReachesUnit s h (.mmag h f) m)) ∧
  (∀ (s : State) (h : Hdr) (f : LX),
    let m := matrixOp s h (.accz h f) 0 []
    f.zd.toNat + (f.m.extractLsb' 0 8).toNat + 1 ≤ tileLimit s →
    ((s.laneEnv h).act = 0 → DoesNothing s h (.accz h f)) ∧ ((s.laneEnv h).act ≠ 0 → ReachesUnit s h (.accz h f) m)) ∧
  (∀ (s : State) (h : Hdr) (f : LX), f.zd.toNat + 1 ≤ tileLimit s → Pinned s [f.x] →
    let m := matrixOp s h (.accmv h f) 0 []
    ((s.laneEnv h).act = 0 → DoesNothing s h (.accmv h f)) ∧
    ((s.laneEnv h).act ≠ 0 → f.m.getLsbD 0 = true →
      ∃ data, ReachesUnit s h (.accmv h f) { m with data := data } ∧
        ∀ l r, l < 32 → r < 8 → wordOf data.toNat (32 * r + l) = wordOf (srcVal s (s.laneEnv h) f.x l) r) ∧
    ((s.laneEnv h).act ≠ 0 → f.m.getLsbD 0 = false → s.curW.count 0 < 255 →
      (unitTakes s m → ∃ t o, exec (.accmv h f) s = .next t ∧ Accepted s t h { m with mem := some o } ∧ t.curW.ops = s.curW.ops ++ [o] ∧
        o.path = 0 ∧ o.dst = some (num f.x) ∧ o.width = 8 ∧ t.curW.count 0 = s.curW.count 0 + 1 ∧ t.curW.tag = s.curW.tag) ∧
      (¬ unitTakes s m → exec (.accmv h f) s = .next (standing s h m))) ∧
    ((s.laneEnv h).act ≠ 0 → f.m.getLsbD 0 = false → 255 ≤ s.curW.count 0 → exec (.accmv h f) s = .next s))

/-- R206, R344, R485, R493: an ACCLD or ACCST of a warp that is alone, whose 256 words pass their checks, is taken by the unit once it is ready
as an operation of path LOAD or STORE with a tag of its own, and its path goes on. ACCLD's tile is read then, behind the thread's own
stores of the same bytes (R288), word by word, and stores
nothing: of memory only bytes of earlier stores change, and the entry of a page whose gate is closed (R95). ACCST leaves memory to the unit. -/
def Obligations.TilesMoveThroughMemory : Prop :=
  ∀ (s s1 s2 : State) (h : Hdr) (f : LX) (i : Instr) (low path : Nat) (k : Acc) (ts : List (LaneAddr × Tr)) (res : List LaneRes),
    let e := s.laneEnv h
    let addr := BitVec.ofNat 64 (srcVal s e f.x 0) + (f.m.extractLsb' 19 20).signExtend 64
    let pitch := if f.m.extractLsb' 3 16 = 0 then 64 else 4 * (f.m.extractLsb' 3 16).toNat
    let words := (List.range 256).map fun w => ({ lane := low, va := addr + BitVec.ofNat 64 (w / 16 * pitch + w % 16 * 4) } : LaneAddr)
    let pieces := ts.map fun x => ({ lane := x.1.lane, va := x.1.va, tr := x.2, size := 4, val := 0, status := stOk } : LaneRes)
    let m := { matrixOp s h i 0 [] with addr := addr, gate := gateOf s1 s.cur.site s.cur.core (s.cur.slot % 2) e.one s.curRef }
    s.role = .alone → wellFormed i = true → f.zd.toNat + 1 ≤ tileLimit s → s.curW.canIssue path = true →
    e.act.getLsbD low = true → (∀ l < low, e.act.getLsbD l = false) →
    (checkEach s s.curRef (s.gridOf s.curW).root (s.gridOf s.curW).sec 4 k words).1 = s1 →
    verdict (checkEach s s.curRef (s.gridOf s.curW).root (s.gridOf s.curW).sec 4 k words).2 = .ok ts →
    (∀ x ∈ ts, peerHeld s1 s.cur.site s.cur.core x.2 = false) →
    matReady s1 s.cur.site s.cur.core m = true → matWins s1 s.cur.site s.cur.core (s.cur.slot % 2) = true →
    (i = .accld h f ∧ s.curW.behindOwn true pieces = false ∧ path = 0 ∧ k = .load ∧ MayRequest s 256 ∧
        performLanes s1 (s1.who s.curRef) (tileOperation s h f 0 0 []) pieces = (s2, res) ∨
      i = .accst h f ∧ path = 1 ∧ k = .store ∧ res = pieces) →
    ∃ t data, exec i s = .next t ∧ PathNext s t h ∧ AccessFrame s t ∧
      t.curW.ops = s.curW.ops ++ [tileOperation s h f path 6 res] ∧ t.curW.tag = s.curW.tag + 1 ∧
      (∀ p, t.curW.count p = if p = path then s.curW.count p + 1 else s.curW.count p) ∧
      t.curCore.matQ = s.curCore.matQ ++ [{ m with data := data, mem := some (tileOperation s h f path 6 res) }] ∧
      t.curCore.matWait (s.cur.slot % 2) e.one = none ∧
      (path = 0 → ∀ n x, res[n]? = some x → x.status = stOk → wordOf data.toNat n = x.val.setWidth 32) ∧
      if path = 0 then SameOutside s t (fun b => ∃ x ∈ ts, s1.demotes x.2 b) else SameMemory s t

/-- R278, R372 to R377, R484 to R488, R490, R492 to R494: the unit's oldest instruction takes effect once the unit is free.
An MMA, MMAW or MMAG takes its next step, of one quarter or group: the elements of that span are the accumulated products of the rows at
the heads of its queues, no other word of the core changes, its rows leave their queues, and B's row of a quarter that shares it stays
until the last one. It leaves the unit when no step is left.
ACCZ clears the words of its tiles, ACCLD puts its data in its tile, a put of ACCMV its lanes' words, a get gives its operation the
lanes' words of the tile, and an ACCST performs its stores, with its tile's words as data; no other word of the core changes.
While the unit works nothing of this happens.
R206, R218: MATRIX_ACCEPT and GRANTED_START present again what waits at a pipe and may be accepted, the latter once the granted start is
there; an MMA, MMAW or MMAG that waits for a granted start is not accepted before it. -/
def Obligations.MatrixUnitTakesEffect : Prop :=
  (∀ (s : State) (site core : Nat) (m : MatOp) (rest : List MatOp) (x : MatItem), (s.core site core).matQ = m :: rest → NextStep m x →
    x.qa ≠ x.qb → (s.core site core).busyTo ≤ (s.core site core).clk → 0 < coreRate s site core →
    x.na ≤ rowsLeft (s.core site core) m.heads x.qa → x.nb ≤ rowsLeft (s.core site core) m.heads x.qb →
    let c := s.core site core
    let e := if m.fb.extractLsb' 8 2 = 2 then 2 else 1
    let at_ (i j : Nat) : Nat := (0x180000 + 1024 * x.z) / 4 + (x.n * i + j) * e
    ∃ t, exec (.matrixUnitFinish site core) s = .next t ∧ t.mem = s.mem ∧ t.dies = s.dies ∧
      (t.core site core).matQ = { m with pos := m.pos + 1 } :: rest ∧
      (∀ i < x.m, ∀ j < x.n, readWords (t.core site core).words (at_ i j) e =
        accumulated m.fb (if m.clr = true then 0 else readWords c.words (at_ i j) e)
          (entryElement c m x.qa x.m i) (entryElement c m x.qb x.n j) % 2 ^ (32 * e)) ∧
      (∀ w, ¬ (at_ 0 0 ≤ w ∧ w < at_ 0 0 + x.m * x.n * e) → FMap.get 0 (t.core site core).words w = FMap.get 0 c.words w) ∧
      headOf (t.core site core) m x.qa = (headOf c m x.qa + x.na) % 128 ∧
      rowsLeft (t.core site core) m.heads x.qa = rowsLeft c m.heads x.qa - x.na ∧
      headOf (t.core site core) m x.qb = (if x.popB then (headOf c m x.qb + x.nb) % 128 else headOf c m x.qb) ∧
      rowsLeft (t.core site core) m.heads x.qb = rowsLeft c m.heads x.qb - (if x.popB then x.nb else 0) ∧
      ∀ k, k ≠ x.qa → k ≠ x.qb → FMap.get OpQueue.none (t.core site core).queues k = FMap.get OpQueue.none c.queues k) ∧
  (∀ (s : State) (site core : Nat) (m : MatOp), (s.core site core).matQ = [m] → m.items ≠ [] → m.items.length ≤ m.pos → m.bad = [] →
    (s.core site core).busyTo ≤ (s.core site core).clk →
    exec (.matrixUnitFinish site core) s = .next (s.setCore site core { s.core site core with matQ := [] })) ∧
  (∀ (s : State) (site core : Nat), (s.core site core).clk < (s.core site core).busyTo →
    exec (.matrixUnitFinish site core) s = .next s) ∧
  (∀ (s : State) (site core : Nat) (m : MatOp) (h : Hdr) (f : LX), (s.core site core).matQ = [m] → m.ins = .accz h f → m.bad = [] →
    (s.core site core).busyTo ≤ (s.core site core).clk →
    let lo := (0x180000 + 1024 * seenTile m f.zd.toNat) / 4
    ∃ t, exec (.matrixUnitFinish site core) s = .next t ∧ t.mem = s.mem ∧ t.dies = s.dies ∧ (t.core site core).matQ = [] ∧
      (∀ r : WRef, (t.wref r).still = (s.wref r).still) ∧
      ∀ a, FMap.get 0 (t.core site core).words a =
        if lo ≤ a ∧ a < lo + 256 * ((f.m.extractLsb' 0 8).toNat + 1) then 0 else FMap.get 0 (s.core site core).words a) ∧
  (∀ (s : State) (site core : Nat) (m : MatOp) (h : Hdr) (f : LX), (s.core site core).matQ = [m] → m.bad = [] →
    (s.core site core).busyTo ≤ (s.core site core).clk →
    (m.ins = .accmv h f ∧ f.m.getLsbD 0 = true ∨
      m.ins = .accld h f ∧ ∀ o, m.mem = some o → ∀ x ∈ o.res, x.status ≠ stPoison) →
    let z := seenTile m f.zd.toNat
    ∃ t, exec (.matrixUnitFinish site core) s = .next t ∧ t.mem = s.mem ∧ (t.core site core).matQ = [] ∧
      (∀ k < 256, tileAt (t.core site core) z k =
        if m.ins = .accld h f ∨ m.act.getLsbD (k % 32) = true then wordOf m.data.toNat k else tileAt (s.core site core) z k) ∧
      ∀ y k, k < 256 → y ≠ z → tileAt (t.core site core) y k = tileAt (s.core site core) y k) ∧
  (∀ (s : State) (site core : Nat) (m : MatOp) (h : Hdr) (f : LX) (o : AsyncOp), (s.core site core).matQ = [m] → m.bad = [] →
    (s.core site core).busyTo ≤ (s.core site core).clk → m.ins = .accmv h f → f.m.getLsbD 0 = false → m.mem = some o → m.alive = true →
    ∃ t res, exec (.matrixUnitFinish site core) s = .next t ∧ t.mem = s.mem ∧ (t.core site core).words = (s.core site core).words ∧
      tileLanes (s.core site core) (seenTile m f.zd.toNat) m.act res ∧
      t.wref m.w = { s.wref m.w with
        ops := (s.wref m.w).ops.map fun y => if y.tag = o.tag ∧ y.op = 6 then { y with op := 3, res := res } else y }) ∧
  (∀ (s u : State) (site core : Nat) (m : MatOp) (h : Hdr) (f : LX) (o : AsyncOp) (res : List LaneRes), (s.core site core).matQ = [m] →
    m.bad = [] → (s.core site core).busyTo ≤ (s.core site core).clk → m.ins = .accst h f → m.mem = some o → o.held = false →
    performLanes s { site := m.w.site, core := m.w.core, slot := m.w.slot, sec := m.sec, own := true } { o with op := 1 }
        (o.res.mapIdx fun k x => { x with val := (tileAt (s.core site core) (seenTile m f.zd.toNat) k).setWidth 256 }) = (u, res) →
    o.res.length ≤ 256 → (u.core site core).matQ = [m] →
    ∃ t, exec (.matrixUnitFinish site core) s = .next t ∧ t.mem = u.mem ∧ t.dies = u.dies ∧ (t.core site core).matQ = [] ∧
      ((∀ x ∈ o.res, x.tr.kind = .localMem) →
        SameOutside s t fun b => ∃ x ∈ o.res, (x.tr.pa ≤ b ∧ b < x.tr.pa + x.size) ∨ s.demotes x.tr b)) ∧
  (∀ (s : State) (site core pipe : Nat) (one : Bool) (m : MatOp), (s.core site core).matWait pipe one = some m →
    (s.core site core).matWait pipe (!one) = none →
    (isMatrix m.ins = true → matMay s site core m = true → matWins s site core pipe = true →
      ∃ u, exec m.ins (actMat s m) = .next u ∧ exec (.matrixAccept site core pipe) s =
        .next { (if u.wref m.w = s.wref m.w then u else noteStarted u (s.wref m.w).team) with cur := s.cur }) ∧
    (∀ g, m.items ≠ [] → m.gate = some g → (s.core site core).clk < g → exec (.matrixAccept site core pipe) s = .next s)) ∧
  (∀ (s u : State) (site core : Nat) (one : Bool) (p : PhaseRec) (m : MatOp), (s.core site core).phase = some p →
    (p.tg ≤ (s.core site core).clk → (s.core site core).matWait 0 one = some m → (s.core site core).matWait 0 (!one) = none →
      isMatrix m.ins = true → matMay s site core m = true → exec m.ins (actMat s m) = .next u →
      (∀ x, (u.core site core).matWait 1 x = none) →
      exec (.grantedStart site core) s =
        .next { (if u.wref m.w = s.wref m.w then u else noteStarted u (s.wref m.w).team) with cur := s.cur }) ∧
    ((s.core site core).clk < p.tg → exec (.grantedStart site core) s = .next s))

/-- R187 to R190, R508, R510: PRIMOUT, with its device-scope release, sends each active lane's packet to every die whose tiles its box touches, as
one operation of path STORE, and binds its team to the frame slot and draw. Each packet has the header of R187 and leaves for the mesh.
R195, R197, R511: a BINNEXT of a team without a tile answers 2 (FRAMEDONE) where its slot is IDLE; one of a team whose tile has no entry left
answers 1 (END) with the tile and its place; one of a team whose tile has an entry left, with fewer than 64 primitives handed out, gives
the tile, the user word, the key and the place of that primitive, which is the warp's current one and leaves the bin.
R198, R512: RASTQ returns the next batch of the warp's current primitive, or the word 0x20000000 where none is left. -/
def Obligations.PrimitivesReachTheirTiles : Prop :=
  (∀ (s : State) (h : Hdr) (f : L3) (low word : Nat), Renders s [f.a, f.b, f.c] → s.curW.canIssue 1 = true →
    let e := s.laneEnv h
    let slot := word % 16
    let draw := word / 2 ^ 16
    e.act.getLsbD low = true → Uniform s h f.c word → word / 64 % 2 ^ 10 = 0 →
    ((s.team s.curW.team).bound = none ∨ (s.team s.curW.team).bound = some (slot, draw)) → s.frameSt slot = 1 →
    s.regF (frstatA slot) 4 4 = (if (s.gridOf s.curW).sec then 1 else 0) →
    ∃ t msgs, exec (.primout h f) s = .next t ∧ PathNext s t h ∧ t.prims = s.prims ++ msgs ∧
      t.mesh = s.mesh ++ msgs.map (fun x => { router := s.cur.site, hdr := x.hdr, set := 0, slot := slot, data := 0 }) ∧
      (t.team s.curW.team).bound = some (slot, draw) ∧ t.curW.count 1 = s.curW.count 1 + 1 ∧ t.curW.tag = s.curW.tag + 1 ∧
      t.curW.inRgn = false ∧ SameOutside s t (fun _ => False) ∧
      ∀ x, x ∈ msgs ↔ ∃ l, l < 32 ∧ e.act.getLsbD l = true ∧ x.site < 48 ∧ x.team = s.curW.team ∧ x.src = s.curRef ∧ x.tag = s.curW.tag ∧
        x.lost = false ∧
        (let b := srcVal s e f.b l
         let key := BitVec.ofNat 48 (draw * 2 ^ 32 + (s.team s.curW.team).t * 2 ^ 12 + b / 2 ^ 192 % 2 ^ 12)
         let p := packetOf (s.frame slot) slot (word / 16 % 4) key (srcVal s e f.a l) b
         x.hdr = mkHdr x.site s.cur.site s.cur.core 2 (genOf s s.cur.site) 0 1 0 0 key.toNat 0 ∧ x.prim = p.1 ∧
           ∃ k ∈ p.2, ((s.frame slot).owner k).1 = x.site)) ∧
  (∀ (s : State) (h : Hdr) (f : L3) (low word : Nat), Renders s [f.d, f.a] → (s.laneEnv h).act.getLsbD low = true → Uniform s h f.a word →
    word < 16 → s.curW.batch = none → s.curW.binWait = none → s.curW.canIssue 0 = true → (∀ x ∈ s.curW.ops, x.op ≠ 8) →
    let answer (v : Nat) : Prop :=
      ∃ t o, exec (.binnext h f) s = .next t ∧ PathNext s t h ∧ SameMemory s t ∧ t.curW.ops = s.curW.ops ++ [o] ∧ o.path = 0 ∧
        o.dst = some (num f.d) ∧ o.width = 8 ∧ o.res.map (fun x => x.lane) = lanesOf (s.laneEnv h).act ∧ t.curW.binWait = none ∧
        t.curW.inRgn = false ∧ ∀ x ∈ o.res, x.val = BitVec.ofNat 256 v
    (claimOf s s.curRef = none → s.frameSt word = 0 → answer 2) ∧
    (∀ c, claimOf s s.curRef = some c → c.frame = word → c.flushing = false → c.ended = false →
      s.regF (frstatA word) 4 4 = (if (s.gridOf s.curW).sec then 1 else 0) → FMap.get [] (s.gate s.cur.site word).bins c.tile = [] →
      answer (1 + c.tile * 2 ^ 32 + 64 * (c.tile % c.fr.tw) * 2 ^ 192 + 64 * (c.tile / c.fr.tw) * 2 ^ 224)) ∧
    (∀ c p rest, claimOf s s.curRef = some c → c.frame = word → c.flushing = false → c.ended = false → c.handed.length < 64 →
      s.regF (frstatA word) 4 4 = (if (s.gridOf s.curW).sec then 1 else 0) → FMap.get [] (s.gate s.cur.site word).bins c.tile = p :: rest →
      let bs := batchesOf c.fr c.tile p
      ∃ t o, exec (.binnext h f) s = .next t ∧ PathNext s t h ∧ SameMemory s t ∧ t.curW.ops = s.curW.ops ++ [o] ∧ o.path = 0 ∧
        o.dst = some (num f.d) ∧ o.width = 8 ∧ o.res.map (fun x => x.lane) = lanesOf (s.laneEnv h).act ∧ t.curW.binWait = none ∧
        t.curW.inRgn = false ∧ t.curW.prim = some c.nextOrd ∧ FMap.get [] (t.gate s.cur.site word).bins c.tile = rest ∧
        (∀ x ∈ o.res, x.val = BitVec.ofNat 256 (c.tile * 2 ^ 32 + p.payload.toNat / 2 ^ (8 * 0x40) % 2 ^ 64 * 2 ^ 64 + p.key.toNat * 2 ^ 128 +
          64 * (c.tile % c.fr.tw) * 2 ^ 192 + 64 * (c.tile / c.fr.tw) * 2 ^ 224)) ∧
        (s.curW.prim = none → claimOf t s.curRef = some { c with
          nextOrd := c.nextOrd + 1
          handed := if bs = [] then c.handed else
            c.handed ++ [{ ord := c.nextOrd, prim := p, todo := bs, blocks := bs.map fun b => b.1 }] }))) ∧
  (∀ (s : State) (h : Hdr) (f : L3) (c : Claim), Renders s [f.d] → claimOf s s.curRef = some c → s.curW.batch = none → s.curW.canIssue 0 = true →
    let x := c.handed.find? fun x => some x.ord == s.curW.prim
    ∃ t o, exec (.rastq h f) s = .next t ∧ PathNext s t h ∧ SameMemory s t ∧ t.curW.ops = s.curW.ops ++ [o] ∧ o.path = 0 ∧
      o.dst = some (num f.d) ∧ o.width = 4 ∧ o.res.map (fun z => z.lane) = lanesOf (s.laneEnv h).act ∧
      (∀ y blk cov rest, x = some y → y.todo = (blk, cov) :: rest →
        t.curW.batch = some { blk := blk, cov := cov, opened := false } ∧
          ∀ z ∈ o.res, z.val = BitVec.ofNat 256 (fragment c.fr c.tile y.prim blk cov z.lane)) ∧
      ((x = none ∨ ∃ y, x = some y ∧ y.todo = []) → t.curW.batch = none ∧ ∀ z ∈ o.res, z.val = 0x20000000))

/-- R196, R199, R508, R509, R513: a ZTEST of a warp with a current batch whose ordered step may open opens it, writes its predicate in its active lanes,
and with ZWRITE the depth of the pixels that pass, and nothing else of memory.
R199, R514: such a TILEW writes the blended colour of its active, covered lanes in tile memory, and nothing else of memory, and its batch is over.
R515: TILERD reads colour or depth of the tile.
R201, R509, R518: TILEFL enters one operation of path COPY, and the claim is being flushed. -/
def Obligations.TilesAreReadAndWritten : Prop :=
  (∀ (s : State) (h : Hdr) (f : L3) (c : Claim) (b : Batch) (ord : Nat), Renders s [f.a] → wellFormed (.ztest h f) = true →
    claimOf s s.curRef = some c → TileFits s c → s.curW.batch = some b → b.blk < 128 → s.curW.prim = some ord →
    (b.opened = true ∨ stepFree c ord b.blk = true) →
    let e := s.laneEnv h
    let writes (l : Nat) : Prop := l < 32 ∧ e.act.getLsbD l = true ∧ depthPass s h f c b l = true ∧ f.m.getLsbD 10 = true
    let at_ (l : Nat) : Nat := depthAt s c (batchPixel b l).1 (batchPixel b l).2
    ∃ t, exec (.ztest h f) s = .next t ∧ PathNext s t h ∧ AccessFrame s t ∧ t.curW.inRgn = false ∧
      t.curW.batch = some { b with opened := true } ∧
      (∀ l, l < 32 → (FMap.get 0 t.curW.p (num f.d)).getLsbD l =
        if e.act.getLsbD l = true then depthPass s h f c b l else (FMap.get 0 s.curW.p (num f.d)).getLsbD l) ∧
      (∀ l, writes l → readBytes t.mem (at_ l) 4 = srcVal s e f.a l % 2 ^ 32) ∧
      SameOutside s t fun a => ∃ l, writes l ∧ at_ l ≤ a ∧ a < at_ l + 4) ∧
  (∀ (s : State) (h : Hdr) (f : L3) (c : Claim) (b : Batch) (ord : Nat), Renders s [f.a] → wellFormed (.tilew h f) = true →
    claimOf s s.curRef = some c → TileFits s c → s.curW.batch = some b → b.blk < 128 → s.curW.prim = some ord →
    (b.opened = true ∨ stepFree c ord b.blk = true) →
    let e := s.laneEnv h
    let writes (l : Nat) : Prop := l < 32 ∧ e.act.getLsbD l = true ∧ b.cov.getLsbD l = true
    let at_ (l : Nat) : Nat := colourAt s c (batchPixel b l).1 (batchPixel b l).2
    ∃ t, exec (.tilew h f) s = .next t ∧ PathNext s t h ∧ AccessFrame s t ∧ t.curW.batch = none ∧ t.curW.inRgn = false ∧
      t.curW.prim = some ord ∧
      (∀ l i, writes l → i < 4 → readBytes t.mem (at_ l) 8 / 2 ^ (16 * i) % 2 ^ 16 =
        blendedChannel (f.m.extractLsb' 7 2).toNat (srcVal s e f.a l) (readBytes s.mem (at_ l) 8) i % 2 ^ 16) ∧
      SameOutside s t fun a => ∃ l, writes l ∧ at_ l ≤ a ∧ a < at_ l + 8) ∧
  (∀ (s : State) (h : Hdr) (f : L3) (c : Claim), Renders s [f.d, f.a] → Pinned s [f.d, f.a] → wellFormed (.tilerd h f) = true →
    claimOf s s.curRef = some c →
    let e := s.laneEnv h
    ∃ t, exec (.tilerd h f) s = .next t ∧ PathNext s t h ∧ AccessFrame s t ∧ SameMemory s t ∧ t.curW.inRgn = false ∧
      Writes s t h (num f.d) (regCount f.d) fun l =>
        let px := srcVal s e f.a l % 64
        let py := srcVal s e f.a l / 64 % 64
        if f.m.getLsbD 7 = true then readBytes s.mem (depthAt s c px py) 4 else readBytes s.mem (colourAt s c px py) 8) ∧
  (∀ (s : State) (h : Hdr) (f : L3) (c : Claim), Renders s [] → claimOf s s.curRef = some c → c.flushing = false → s.curW.canIssue 3 = true →
    ∃ t o, exec (.tilefl h f) s = .next t ∧ PathNext s t h ∧ AccessFrame s t ∧ SameMemory s t ∧ t.curW.inRgn = false ∧
      (t.die s.cur.site).copies = (s.die s.cur.site).copies ++
        [{ command s .flush 0 0 5 s.curW.team none with tile := some (c.frame, c.tile) }] ∧
      claimOf t s.curRef = some { c with flushing := true } ∧ t.curW.ops = s.curW.ops ++ [o] ∧ o.path = 3 ∧ o.engine = true ∧ o.scope = 5 ∧
      t.curW.count 3 = s.curW.count 3 + 1 ∧ t.curW.tag = s.curW.tag + 1)

/-- R200, R508, R509, R516, R517: a TEX whose descriptor addresses pass their checks samples its active lanes in ascending order, as one operation
of path LOAD; a lane whose descriptor is out of range gets the canonical NaN in every component. It stores nothing: of memory only
bytes of earlier stores change, and the entry of a page whose gate is closed (R95). -/
def Obligations.TexturesAreSampled : Prop :=
  ∀ (s s1 : State) (h : Hdr) (f : L3) (ts : List (LaneAddr × Tr)), Renders s [f.d, f.a, f.b] → s.curW.canIssue 0 = true → MayRequest s 288 →
    laneChecks s h (fun l => BitVec.ofNat 64 (srcVal s (s.laneEnv h) f.b l)) 32 .load = (s1, .ok ts) →
    (∀ x ∈ ts, peerHeld s1 s.cur.site s.cur.core x.2 = false) →
    ∃ t o, exec (.tex h f) s = .next t ∧ PathNext s t h ∧ AccessFrame s t ∧ t.curW.ops = s.curW.ops ++ [o] ∧ o.path = 0 ∧
      o.dst = some (num f.d) ∧ o.width = 4 ∧ t.curW.count 0 = s.curW.count 0 + 1 ∧ t.curW.tag = s.curW.tag + 1 ∧ t.curW.inRgn = false ∧
      o.res.map (fun x => x.lane) = ts.map (fun x => x.1.lane) ∧ SameOutside s t (textureBytes s h f s1 ts) ∧
      (∀ (n : Nat) x y, ts[n]? = some x → o.res[n]? = some y →
        let z := (texturedLane s h f s1 (textureTurn s h f s1 ts n) x).2
        y.val = BitVec.ofNat 256 z.val ∧ y.status = z.status) ∧
      ∀ (n : Nat) x y d u, ts[n]? = some x → o.res[n]? = some y →
        doLoad (textureTurn s h f s1 ts n) (renderWho s1 s.curRef) x.2 32 0 = (u, d, stOk) → ¬ TextureAllowed d →
        y.val = 0x7FC000007FC000007FC000007FC00000 ∧ y.status = stOk

/-- R37 to R41: a write of PKGPWR.LIMIT is clamped to 12000 to 22000; the end of a power window notes its average, lowers the cap by one
where the average was above the limit in force, raises it by one where it was not, and takes the new limit. A supply event and a
hot die stop or halve issue; recovery ends that.
R219, R221: at the end of an activity window of 1024 clk the matrix activity above 128 for each step of the largest declared class
throttles the core for 8192 clk and counts a violation, at the core and at every warp that issued matrix work; the throttle ends
with its time. -/
def Obligations.PowerAndHeatGovernIssue : Prop :=
  (∀ (s : State) (val : BitVec 64), ∃ t, exec (.pkgpwrLimitWrite val) s = .next t ∧ OnlyRegisters s t ∧ OtherRegisters s t [pkgpwrA] ∧
    t.regF pkgpwrA 14 0 = max 12000 (min 22000 (val.toNat % 2 ^ 15))) ∧
  (∀ (s : State) (avg : BitVec 16), ∃ t, exec (.powerWindowEnd avg) s = .next t ∧ t.regF pkgpwrA 47 32 = avg.toNat ∧
    OtherRegisters s t [pkgpwrA] ∧ t.hub = { s.hub with cap := t.hub.cap, limit := s.regF pkgpwrA 14 0 } ∧
    (s.hub.limit < avg.toNat → s.hub.cap = none → t.hub.cap = some (max 1 (16 * s.hub.limit / avg.toNat))) ∧
    (∀ k, s.hub.limit < avg.toNat → s.hub.cap = some k → t.hub.cap = some (max 1 (k - 1))) ∧
    (avg.toNat ≤ s.hub.limit → s.hub.cap = none → t.hub.cap = none) ∧
    (∀ k, avg.toNat ≤ s.hub.limit → s.hub.cap = some k → t.hub.cap = if 15 ≤ k then none else some (k + 1))) ∧
  (∀ (s : State) (mv us : Nat), mv < 44000 → 10 < us → ∃ t, exec (.supplyEvent mv us) s = .next t ∧ t.hub.supply = true ∧
    RegistersAndMessages { s with hub := t.hub } t) ∧
  (∀ (s : State) (mv : Nat), 46000 < mv → exec (.supplyRestore mv) s = .next { s with hub := { s.hub with supply := false } }) ∧
  (∀ (s : State) (site temp : Nat), site < 48 → 105 ≤ temp → ∃ t, exec (.thermalWarning site temp) s = .next t ∧
    t.die site = { s.die site with half := true } ∧ ∀ x, x ≠ site → t.die x = s.die x) ∧
  (∀ (s : State) (site temp : Nat), site < 48 → 115 ≤ temp → ∃ t, exec (.thermalStop site temp) s = .next t ∧
    t.die site = { s.die site with stop := true } ∧ ∀ x, x ≠ site → t.die x = s.die x) ∧
  (∀ (s : State) (site temp : Nat), site < 48 → temp < 100 → ∃ t, exec (.thermalRestore site temp) s = .next t ∧
    t.die site = { s.die site with half := false, stop := false } ∧ ∀ x, x ≠ site → t.die x = s.die x) ∧
  (∀ (s : State) (site core : Nat), 1024 * ((s.core site core).win + 1) ≤ (s.core site core).clk → (s.core site core).phase = none →
    let c := s.core site core
    let limit := match c.winCls with | some k => 128 * (k + 1) | none => 128
    ∃ t, exec (.activityWindowEnd site core) s = .next t ∧ (t.core site core).win = c.win + 1 ∧ (t.core site core).matWarps = 0 ∧
      (t.core site core).busy = min (c.busyTo - 1024 * (c.win + 1)) 1024 ∧
      (min c.busy 1024 ≤ limit → (t.core site core).throttle = c.throttle ∧ (t.core site core).viol = c.viol ∧ t.warps = s.warps) ∧
      (limit < min c.busy 1024 → (t.core site core).throttle = 1024 * (c.win + 1) + 8192 ∧ (t.core site core).viol = min (c.viol + 1) 65535 ∧
        ∀ k < 64, (t.warp site core k).throt.toNat =
          if c.matWarps.getLsbD k = true then min ((s.warp site core k).throt.toNat + 1) (2 ^ 32 - 1) else (s.warp site core k).throt.toNat)) ∧
  (∀ (s : State) (site core : Nat), (s.core site core).throttle ≤ (s.core site core).clk →
    ∃ t, exec (.throttleEnd site core) s = .next t ∧ t.core site core = { s.core site core with throttle := 0 } ∧ t.warps = s.warps)

/-- R43, R44, R46, R50, R51, R56, R57, R58, R142, R250, R269, R320, R330: packets, requests and errors of the mesh. A replay is counted at the die's
working edge, or at its Dalec port; a disabled module leaves both ends of its edge, and the last one makes the hub report the edge and
route around it; a router delivers or forwards a packet and counts one with bad parity; a request without completion is issued again and,
after the third time, completes with TIMEOUT; a memory port and a window port answer a load with its bytes, write those of a store, and
write an atomic's result and answer with the old value, the memory port once for each tag: it answers a replayed atomic from its filter,
and a late copy not at all; an error in a register, and
a failed end-to-end check under redundancy, makes its warp restart; and a completion lowers its path's counter. That the end-to-end check
fails by an event is the model's form (log 13), the mark a port begins with its reading (log 19), and the codes of a completion's
header its choice (log 20, R46). -/
def Obligations.RequestsCrossTheMesh : Prop :=
  (∀ (s : State) (site dir x : Nat), site < 48 → dir < 4 → linkOf site dir = some x → edgeMask s site dir ≠ 0 → edgeFenced s site dir = false →
    ∃ t, exec (.flitReplay site dir) s = .next t ∧ OnlyRegisters s t ∧ OtherRegisters s t [mlinkA site, rascntA site] ∧
      t.regF (mlinkA site) (16 * dir + 11) (16 * dir) = min (s.regF (mlinkA site) (16 * dir + 11) (16 * dir) + 1) 4095 ∧
      t.regF (rascntA site) 63 48 = min (s.regF (rascntA site) 63 48 + 1) 65535) ∧
  (∀ (s : State) (site dir : Nat), site < 48 → dir = 4 ∨ dir = 5 → sitePort site < 24 → s.regF (dlstatA (sitePort site)) 1 0 = 2 →
    let d := dlstatA (sitePort site)
    ∃ t, exec (.flitReplay site dir) s = .next t ∧ OnlyRegisters s t ∧ OtherRegisters s t [d, rascntA site] ∧
      t.regF d 63 32 = min (s.regF d 63 32 + 1) (2 ^ 32 - 1) ∧
      t.regF d 31 16 = (if dir = 5 then min (s.regF d 31 16 + 1) 65535 else s.regF d 31 16) ∧
      t.regF (rascntA site) 63 48 = min (s.regF (rascntA site) 63 48 + 1) 65535) ∧
  (∀ (s : State) (site dir modl x : Nat), site < 48 → dir < 4 → modl < 4 → linkOf site dir = some x →
    ∃ t, exec (.moduleDisable site dir modl) s = .next t ∧
      (t.regF (mlinkA site) (16 * dir + 15) (16 * dir + 12)).testBit modl = false ∧
      (x < 48 → (t.regF (mlinkA x) (16 * backPort site dir + 15) (16 * backPort site dir + 12)).testBit modl = false) ∧
      ((edgeMask s site dir = 0 ∨ edgeMask t site dir ≠ 0) → OnlyRegisters s t) ∧
      (edgeMask s site dir ≠ 0 → edgeMask t site dir = 0 → t.outbox = s.outbox ++ [.edgeDown site dir] ∧
        if s.regF rtstatA 2 0 = 0 then t.regF rtstatA 2 0 = 1 ∧ t.hub.upd.isSome = true else t.hub.detour = true)) ∧
  (∀ (s : State) (router : Nat) (hdr : BitVec 128) (set : BitVec 48) (slot : Nat) (m : MeshMsg), router < 48 →
    hdrPar hdr ≠ hdrF hdr 7 0 → hdrF hdr 109 107 < 2 → m ∈ s.mesh → m.router = router → m.hdr = hdr →
    ∃ t, exec (.routerReceive router hdr set slot) s = .next t ∧ t.mesh.length + 1 = s.mesh.length ∧
      t = { s with mesh := t.mesh, regs := t.regs } ∧ OtherRegisters s t [merrA router] ∧
      t.regF (merrA router) 63 48 = min (s.regF (merrA router) 63 48 + 1) 65535) ∧
  (∀ (s : State) (router : Nat) (hdr : BitVec 128) (set : BitVec 48) (slot x : Nat), s.mesh = [] → s.regF rtstatA 2 0 = 0 →
    hdrPar hdr = hdrF hdr 7 0 → hdrF hdr 109 107 ≤ 5 → hdrF hdr 127 122 ≤ 48 → ¬ (hdrF hdr 115 110 = 63 ∧ hdrF hdr 105 100 = 31) →
    let port := ((FMap.get 0 s.rt (router * 64 + hdrF hdr 127 122)).extractLsb' 0 3).toNat
    (port = 4 → exec (.routerReceive router hdr set slot) s = .next s) ∧
    (port ≠ 4 → port ≠ 7 → linkOf router port = some x → edgeFenced s router port = false → edgeMask s router port ≠ 0 →
      exec (.routerReceive router hdr set slot) s =
        .next { s with mesh := [{ router := x, hdr := hdr, set := set, slot := slot, data := 0 }] })) ∧
  (∀ (s : State) (w : WRef) (o : AsyncOp) (rest : List AsyncOp), (s.wref w).ops = o :: rest → engineOp s w o.tag = none → o.done = false →
    o.held = false → o.engine = false → o.path < 2 → (∃ x ∈ o.res, x.tr.kind = .localMem) → o.retries < 3 →
    ∃ t, exec (.requestTimeout w o.tag) s = .next t ∧ ∃ x l, (t.wref w).ops = x :: l ∧ x.tag = o.tag ∧ x.retries = o.retries + 1) ∧
  (∀ (s : State) (w : WRef) (o : AsyncOp) (x : LaneRes), (s.wref w).ops = [o] → engineOp s w o.tag = none → o.done = false → o.held = false →
    o.engine = false → o.path < 2 → o.op ≤ 5 → o.dst = none → o.res = [x] → x.tr.kind = .localMem → o.retries = 3 →
    (s.wref w).recs.length < 16 →
    ∃ t, exec (.requestTimeout w o.tag) s = .next t ∧ (t.wref w).ops = [] ∧ t.mem = s.mem ∧
      ∃ y ∈ (t.wref w).recs, y.tag = o.tag ∧ y.cause.toNat / 2 ^ 16 = stTimeout ∧ y.cause.toNat % 128 = 8) ∧
  (∀ (s : State) (w : WRef) (o : AsyncOp) (rest : List AsyncOp) (e : EngOp), (s.wref w).ops = o :: rest → engineOp s w o.tag = some e →
    o.engine = true → o.retries < 3 →
    ∃ t, exec (.requestTimeout w o.tag) s = .next t ∧ t.mem = s.mem ∧
      ∃ x l, (t.wref w).ops = x :: l ∧ x = { o with retries := o.retries + 1 }) ∧
  (∀ (s : State) (site : Nat) (r : Req), site < 48 → s.dieUp site = true → region r.pa = .hbm site → r.pa % r.size = 0 →
    portSt s r.pa r.sec = stOk →
    let rq := reqKey r.srcSite r.srcCore
    let mark := portMark (s.die site) rq r.lwm
    let bad (t : State) : Bool := t.poison.contains (lineOf r.pa)
    let value (t : State) : Nat := readBytes t.mem r.pa r.size
    let own (b : Nat) : Prop := r.pa ≤ b ∧ b < r.pa + r.size
    let answers (t : State) (status v len : Nat) : Prop :=
      exec (.memoryPortRequest site r) s = .next t ∧ t.mesh = s.mesh ++ [rspMsg t site 51 r.srcSite r.seq status v len]
    (r.kind = .load → ∃ t, (if bad t then answers t stPoison 0 0 else answers t stOk (value t) 1) ∧ SameOutside s t fun _ => False) ∧
    (r.kind = .store → r.size ∈ [1, 2, 4, 8, 16, 32] → ∃ t, SameOutside s t own ∧
      if bad t then answers t stPoison 0 0 else answers t stOk 0 0 ∧ value t = r.data.toNat % 2 ^ (8 * r.size)) ∧
    (r.kind = .atomic ∨ r.kind = .cas → seqAbove r.seq mark = false →
      ∃ t, exec (.memoryPortRequest site r) s = .next t ∧ t.mesh = s.mesh ∧ t.mem = s.mem) ∧
    (∀ v, r.kind = .atomic ∨ r.kind = .cas → seqAbove r.seq mark = true → FMap.find (FMap.get [] (s.die site).filter rq) r.seq = some v →
      ∃ t, answers t stOk v.toNat 1 ∧ t.mem = s.mem) ∧
    (r.kind = .atomic ∨ r.kind = .cas → (r.size = 4 ∨ r.size = 8) → seqAbove r.seq mark = true →
      FMap.find (FMap.get [] (s.die site).filter rq) r.seq = none →
      ∃ t old, SameOutside s t own ∧ ((∀ b, own b → ¬ s.pending b) → old = value s) ∧
        if bad t then answers t stPoison 0 0
        else answers t stOk old 1 ∧ value t = atomicNew (r.kind == .cas) r.aop.toNat r.size old r.data.toNat % 2 ^ (8 * r.size) ∧
          FMap.find (FMap.get [] (t.die site).filter rq) r.seq = some (BitVec.ofNat 64 old))) ∧
  (∀ (s : State) (core site c off : Nat) (r : Req), region r.pa = .window site core off → c = core → windowSt s site site core r.sec = stOk →
    r.size ≠ 0 → r.pa % r.size = 0 →
    let value (t : State) : Nat := readBytes t.mem r.pa r.size
    let own (b : Nat) : Prop := r.pa ≤ b ∧ b < r.pa + r.size
    let answers (t : State) (status v len : Nat) : Prop :=
      exec (.windowAccess c r) s = .next t ∧ t.mesh = s.mesh ++ [rspMsg t site c r.srcSite r.seq status v len]
    (r.kind = .load → ∃ t, (t = { s with mesh := t.mesh }) ∧
      answers t (windowLoad s site core off r.size).2 (windowLoad s site core off r.size).1
        (if (windowLoad s site core off r.size).2 = stOk then 1 else 0)) ∧
    (0x100000 ≤ off → off < 0x180000 →
      (r.kind = .store → ∃ t, answers t stOk 0 0 ∧ value t = r.data.toNat % 2 ^ (8 * r.size) ∧ SameOutside s t own) ∧
      (r.kind = .atomic ∨ r.kind = .cas → ∃ t, answers t stOk (value s) 1 ∧
        value t = atomicNew (r.kind == .cas) r.aop.toNat r.size (value s) r.data.toNat % 2 ^ (8 * r.size) ∧ SameOutside s t own))) ∧
  (∀ (s : State) (site : Nat) (e : ErrAt), site < 48 → errSite e site < 48 → e.e2e = false → e.corrected = true →
    let a := rascntA (errSite e site)
    ∃ t, exec (.uncorrectableError site e) s = .next t ∧ OnlyRegisters s t ∧ OtherRegisters s t [a] ∧
      t.regF a 63 48 = min (s.regF a 63 48 + 1) 65535) ∧
  (∀ (s : State) (site : Nat) (e : ErrAt),
    let r : WRef := { site := site, core := e.core, slot := e.slot }
    site < 48 → errSite e site < 48 → Stands s r → (s.wref r).inRgn = true → (s.wref r).restarts < 3 →
    (s.wref r).restAt ≠ some (s.core site e.core).clk →
    (e.e2e = false ∧ e.corrected = false ∧ e.reader = true ∧ e.unit ∉ [3, 4, 7, 12, 14] ∨
      e.e2e = true ∧ e.tag = none ∧ (s.gridOf (s.wref r)).redun ≠ 0) →
    ∃ t, exec (.uncorrectableError site e) s = .next t ∧ (t.wref r).pc = (s.wref r).snapPc ∧ (t.wref r).restarts = (s.wref r).restarts + 1 ∧
      (t.wref r).queue = [] ∧ (t.wref r).running = none ∧ (t.wref r).s = (s.wref r).s ∧
      t.regF (rascntA (errSite e site)) 47 32 = min (s.regF (rascntA (errSite e site)) 47 32 + 1) 65535) ∧
  (∀ (s : State) (w : WRef) (o : AsyncOp) (rest : List AsyncOp), (s.wref w).ops = o :: rest → o.done = false → o.held = false →
    o.engine = false → o.op ≤ 5 → o.cause ≠ 8 → o.cause ≠ 11 → (∀ x ∈ o.res, x.status = stOk) →
    (∀ x ∈ rest, x.tag ≠ o.tag ∧ (x.path = o.path → x.done = false)) →
    ∃ t, exec (.memoryCompletion w o.tag) s = .next t ∧ (t.wref w).ops = rest ∧ (t.wref w).count o.path = (s.wref w).count o.path - 1 ∧
      (t.wref w).recs = (s.wref w).recs ∧ t.mem = s.mem ∧ (o.dst = none → ∀ a b, (t.core a b).words = (s.core a b).words) ∧
      (∀ d x, o.dst = some d → d < 1536 → o.res = [x] → x.lane < 32 → o.width = 1 → o.ext = false →
        (vaddr (s.core w.site w.core) w.slot d x.lane).isSome = true → vreg t w d x.lane = x.val.setWidth 32))

/-- R60 to R65, R68 to R70, R83, R84: a routing update goes from GO through signature, PREPARE and COMMIT to the end of DRAIN, or is refused; a write
of RTCMD while one runs answers BUSY; a die whose state changes in PREPARE aborts it for another try; markers are acknowledged behind
the packets of their class and sent again where they are lost. A die that resets or fails leaves UP, its neighbours fence their edges to
it, and a die that is told of it begins to sweep the lines that it may have held tokens of. Which routers take part in an update, and
which lines a sweep takes, are readings of the model (log 19); the form of a marker's acknowledgement, and that markers of a die that
is cut off are given up, are its choice (log 20, R46, R64). -/
def Obligations.RoutingUpdatesAndDieLoss : Prop :=
  (∀ (s : State) (val : BitVec 64) (sign : Bool), val.getLsbD 1 = sign →
    let i : Instr := if sign then .rtcmdGoSign val else .rtcmdGoUnsigned val
    (s.regF rtstatA 2 0 = 0 → val.getLsbD 0 = true → ∃ t u, exec i s = .next t ∧ t.hub.upd = some u ∧
      u.img = (hubRead32 s (getF val 47 12 * 4096) 121).2 ∧ u.made = [] ∧ u.answered = 0 ∧ u.changed = false ∧
      t.regF rtstatA 2 0 = if sign then 1 else 2) ∧
    (s.regF rtstatA 2 0 = 0 → val.getLsbD 0 = false → exec i s = .next s) ∧
    (s.regF rtstatA 2 0 ≠ 0 → ∃ t, exec i s = .next t ∧ t.regF rtstatA 15 8 = 5 ∧ OnlyRegisters s t ∧ OtherRegisters s t [rtstatA])) ∧
  (∀ (s : State) (u : Upd), s.regF rtstatA 2 0 = 1 → s.hub.upd = some u →
    (refusal s (imgTable u.img) = none →
      ∃ t v, exec .routeSignDone s = .next t ∧ t.regF rtstatA 2 0 = 2 ∧ t.hub.upd = some v ∧
        v.img = unsigned u.img ++ bytesLe 64 (Config.sign packageKey (unsigned u.img)).toNat) ∧
    (∀ reason site, refusal s (imgTable u.img) = some (reason, site) → s.hub.detour = false →
      ∃ t, exec .routeSignDone s = .next t ∧ t.hub.upd = none ∧ t.regF rtstatA 2 0 = 0 ∧ t.regF rtstatA 15 8 = 3 ∧
        t.regF rtstatA 55 48 = reason % 256 ∧ t.regF rtstatA 47 40 = site % 256 ∧ t.rt = s.rt)) ∧
  (∀ (s : State) (u : Upd) (router : Nat), s.regF rtstatA 2 0 = 2 → s.hub.upd = some u → takesPart s router = true →
    FMap.find u.made router = none →
    (∃ t v, exec (.routerPrepare router) s = .next t ∧ t.hub.upd = some v ∧ FMap.find v.made router = some (routerCheck s router u.img)) ∧
    (u.changed = false → s.hub.detour = false → ∃ t, exec (.prepareTimeout router) s = .next t ∧ t.hub.upd = none ∧
      t.regF rtstatA 2 0 = 0 ∧ t.regF rtstatA 15 8 = 2 ∧ t.regF rtstatA 55 48 = 6 ∧ t.regF rtstatA 47 40 = router ∧ t.rt = s.rt)) ∧
  (∀ (s : State) (u : Upd) (router reason : Nat), s.regF rtstatA 2 0 = 2 → s.hub.upd = some u → FMap.find u.made router = some reason →
    u.changed = false → u.answered.getLsbD router = false →
    (reason ≠ 0 → s.hub.detour = false → ∃ t, exec (.prepareAnswer router) s = .next t ∧ t.hub.upd = none ∧ t.regF rtstatA 2 0 = 0 ∧
      t.regF rtstatA 15 8 = 2 ∧ t.rt = s.rt) ∧
    (reason = 0 → router < 49 → (∀ r ∈ routers s, r = router ∨ u.answered.getLsbD r = true) →
      ∃ t, exec (.prepareAnswer router) s = .next t ∧ t.regF rtstatA 2 0 = 3 ∧ t.rt = rtOf (imgTable u.img) ∧ t.rtOld = s.rt)) ∧
  (∀ (s : State) (u : Upd) (i : Instr) (router : Nat), i = .routeAbortRetry ∨ i = .prepareTimeout router ∧ takesPart s router = true →
    s.regF rtstatA 2 0 = 2 → s.hub.upd = some u → u.changed = true →
    ∃ t, exec i s = .next t ∧ t.hub.upd = some { u with made := [], answered := 0, changed := false } ∧ t.regF rtstatA 15 8 = 4 ∧
      t.regF rtstatA 2 0 = 2) ∧
  (∀ (s : State) (src dst cls x : Nat), src < 49 → dst < 49 → src ≠ dst → cls < 6 → s.regF rtstatA 2 0 = 3 →
    s.markers.contains (src, dst, cls) = true →
    let port := ((FMap.get 0 s.rtOld (dst * 64 + src)).extractLsb' 0 3).toNat
    (s.mesh = [{ markerMsg s src dst cls with router := dst }] → port ≠ 4 → port ≠ 7 → linkOf dst port = some x →
      edgeFenced s dst port = false → edgeMask s dst port ≠ 0 → (cls = 3 → oldTokens s src dst = false) →
      exec (.drainMarkerReceive src dst cls) s = .next { s with mesh := [markerAck s x src dst cls] }) ∧
    (s.mesh = [] → exec (.drainMarkerResend src dst cls) s = .next { s with mesh := [markerMsg s src dst cls] }) ∧
    (∀ m ∈ s.mesh, m.hdr = (markerMsg s src dst cls).hdr → exec (.drainMarkerResend src dst cls) s = .next s)) ∧
  (∀ (s : State) (src dst cls : Nat), s.mesh = [markerAck s src src dst cls] →
    (∀ more, s.markers = [(src, dst, cls), more] →
      exec (.drainMarkerAck src dst cls) s = .next { s with mesh := [], markers := [more] }) ∧
    (∀ u, s.markers = [(src, dst, cls)] → s.regF rtstatA 2 0 = 3 → s.hub.upd = some u → s.hub.detour = false →
      ∃ t, exec (.drainMarkerAck src dst cls) s = .next t ∧ t.markers = [] ∧ t.mesh = [] ∧ t.rt = s.rt ∧ t.rtOld = [] ∧ t.hub.upd = none ∧
        t.hub.routeSeq = imgField u.img 8 8 ∧ t.regF rtstatA 2 0 = 0 ∧ t.regF rtstatA 15 8 = 1 ∧
        t.regF rtstatA 3 3 = 1 - s.regF rtstatA 3 3)) ∧
  (∀ (s : State) (site : Nat), site < 48 → s.dieUp site = true →
    (∃ t, exec (.dieResetStart site) s = .next t ∧ t.dieSt site = 4) ∧ (∃ t, exec (.dieFailure site) s = .next t ∧ t.dieSt site = 4)) ∧
  (∀ (s : State) (site dir x : Nat), site < 48 → linkOf site dir = some x → x < 48 → s.dieSt x = 4 →
    (FMap.get 0 s.tables (64 * site + x)).extractLsb' 0 3 = 7 → edgeFenced s site dir = false → s.mesh = [] →
    ∃ t, exec (.neighborFence site dir) s = .next t ∧ (t.die site).fenced = (s.die site).fenced ||| 1 <<< dir ∧
      ∀ m ∈ t.coh, m.dst ≠ some x) ∧
  (∀ (s : State) (site down : Nat), site < 48 → s.dieUp site = true → s.dieUp down = false → noticed s down = true →
    (FMap.get (0 : BitVec 48) s.hub.told down).getLsbD site = false →
    ∃ t, exec (.dieDownNotice site down) s = .next t ∧ (FMap.get (0 : BitVec 48) t.hub.told down).getLsbD site = true ∧
      ((t.die site).sweep = [] ∨ down ∈ (t.die site).sweep) ∧
      (s.warps = [] → (∀ x, x ≠ site → t.die x = s.die x) ∧
        ((∃ e ∈ s.tokens, homeOf e.1 = site ∧ (tokOf s e.1).home ≠ 64 ∧ (lineSet s e.1).getLsbD down = true) → down ∈ (t.die site).sweep)))

/-- R74, R78 to R81, R332: a die that lacks tokens of a line asks for them, holders send them, the die keeps them; a request that fails
twice becomes persistent, is queued at the line's arbiter, in one clock by rising site, is activated there in a later clock, is known to every die, and ends once it is satisfied;
a holder answers a broadcast once; bytes that a cluster holds go to the line after 64 microseconds, or once a release has started that.
That the events act on one coherent copy is the model's choice (log 7), and so is the slice that takes data (log 20, R76). -/
def Obligations.TokensFollowRequests : Prop :=
  (∀ (s : State) (site line : Nat) (write : Bool), s.dieUp site = true → (lineSet s line).getLsbD site = true →
    satisfied s line site write = false → requestOf s site line = none →
    ∃ t, exec (.transientRequest site line write) s = .next t ∧ requestOf t site line =
      some { line := line, write := write, tries := 1, persistent := false, born := s.ticks, sent := s.ticks, seen := [] }) ∧
  (∀ (s : State) (holder site line : Nat) (p : PendReq) (write : Bool), requestOf s site line = some p → p.write = write → write = true →
    holder < 64 → holder ≠ site → holder ∉ p.seen → (lineSet s line).getLsbD holder = true → s.dieUp holder = true →
    tableHas s holder line = none → censusOf s line = none → 0 < (dirOf s line holder).tokens →
    ∃ t m, exec (.transientRequestReceive holder site line write) s = .next t ∧ t.coh = s.coh ++ [m] ∧ m.line = line ∧ m.src = holder ∧
      m.dst = some site ∧ m.tokens = (dirOf s line holder).tokens ∧ m.owner = (dirOf s line holder).owner ∧ (dirOf t line holder).tokens = 0 ∧
      requestOf t site line = some { p with seen := holder :: p.seen } ∧
      exec (.transientRequestReceive holder site line write) t = .next t) ∧
  (∀ (s : State) (m : CohMsg) (rest : List CohMsg) (d : Nat), s.coh = m :: rest → s.regF rtstatA 2 0 ≠ 3 → m.serial = (tokOf s m.line).serial → m.dst = some d →
    s.dieUp d = true → censusOf s m.line = none → tableHas s d m.line = none → dirRoom s d m.line = true →
    (sliceLines s d (dirSlice s d m.line)).length < 65536 →
    ∃ t, exec (.tokenReceive 0) s = .next t ∧ t.coh = rest ∧ (dirOf t m.line d).tokens = (dirOf s m.line d).tokens + m.tokens ∧
      (dirOf t m.line d).owner = ((dirOf s m.line d).owner || m.owner) ∧ (tokOf t m.line).home = (tokOf s m.line).home) ∧
  (∀ (s : State) (site line : Nat) (p : PendReq), requestOf s site line = some p → p.persistent = false →
    satisfied s line site p.write = false →
    (p.tries = 1 → p.sent + 2850 ≤ s.ticks → ∃ t, exec (.transientRetry site line) s = .next t ∧
      requestOf t site line = some { p with tries := 2, sent := s.ticks, seen := [] }) ∧
    ((p.tries = 2 ∧ p.sent + 2850 ≤ s.ticks ∨ p.born + 7600 ≤ s.ticks) → ((s.die site).pend.filter fun x => x.persistent).length < 32 →
      ∃ t, exec (.persistentConvert site line) s = .next t ∧ requestOf t site line = some { p with persistent := true })) ∧
  (∀ (s : State) (site line : Nat) (p : PendReq), requestOf s site line = some p → p.persistent = true → s.dieUp (homeOf line) = true →
    (s.die (homeOf line)).arbQ = [] → activeAt s line = none → (s.die (homeOf line)).sweep = [] → tokTotal s line = 64 →
    ∃ t, exec (.persistentRequest (homeOf line) site line) s = .next t ∧ (t.die (homeOf line)).arbQ = [(site, line)]) ∧
  (∀ (s : State) (site other line line2 : Nat) (p : PendReq), requestOf s site line = some p → p.persistent = true →
    s.dieUp (homeOf line) = true → (s.die (homeOf line)).arbQ = [(other, line2)] → (s.die (homeOf line)).arbAt = s.ticks →
    (s.die (homeOf line)).arbNew = 1 → site < other → activeAt s line = none → (s.die (homeOf line)).sweep = [] → tokTotal s line = 64 →
    ∃ t, exec (.persistentRequest (homeOf line) site line) s = .next t ∧ (t.die (homeOf line)).arbQ = [(site, line), (other, line2)]) ∧
  (∀ (s : State) (site line : Nat) (rest : List (Nat × Nat)), s.dieUp (homeOf line) = true → (s.die (homeOf line)).arbQ = (site, line) :: rest →
    (s.die (homeOf line)).arbAct = [] → censusOf s line = none → (s.die (homeOf line)).sweep = [] →
    tokTotal s line = 64 → (s.die (homeOf line)).arbAt ≠ s.ticks →
    ∃ t, exec (.persistentActivate (homeOf line)) s = .next t ∧ (t.die (homeOf line)).arbQ = rest ∧ activeAt t line = some site ∧
      (tokOf t line).home = 0) ∧
  (∀ (s : State) (site line q : Nat), activeAt s line = some q → s.dieUp site = true → (lineSet s line).getLsbD site = true → site ≠ q → tableHas s site line = none →
    0 < (dirOf s line site).tokens →
    ∃ t m, exec (.activateReceive site line) s = .next t ∧ tableHas t site line = some q ∧ t.coh = s.coh ++ [m] ∧ m.dst = some q ∧
      m.tokens = (dirOf s line site).tokens) ∧
  (∀ (s : State) (site line : Nat) (p : PendReq), activeAt s line = some site → requestOf s site line = some p →
    satisfied s line site p.write = true →
    ∃ t, exec (.deactivate site line) s = .next t ∧ activeAt t line = none ∧ requestOf t site line = none ∧ ∀ x, tableHas t x line = none) ∧
  (∀ (s : State) (line q : Nat), activeAt s line = some q →
    ∃ t, exec (.persRebroadcast (homeOf line) line) s = .next t ∧
      ∀ x < 48, s.dieUp x = true → (lineSet s line).getLsbD x = true → tableHas s x line = none → tableHas t x line = some q) ∧
  (∀ (s : State) (site slice line : Nat) (h : Held) (rest : List Held), heldOf s site slice = h :: rest → h.line = line →
    (h.started = true ∨ h.born + 121600 ≤ s.ticks) → ∃ t, exec (.clusterHeldAge site slice line) s = .next t ∧ ∀ x ∈ heldOf t site slice, x.line ≠ line)

/-- R84 to R86, R94, R95, R97, R98: a census recreates the 64 tokens of a line whose tokens were lost; a page's replicas are recorded, and
demoted once every die has dropped them; home commands start, refuse and finish. That DONE reads 0 while a command runs is the model's
choice (log 20, R98), and the lines that a sweep takes its reading (log 19). -/
def Obligations.LinesPagesAndHomesRecover : Prop :=
  (∀ (s : State) (line : Nat), s.dieUp (homeOf line) = true → (tokOf s line).home ≠ 64 → line ∉ (s.die (homeOf line)).swept →
    (∃ x ∈ (s.die (homeOf line)).sweep, x = 63 ∨ (lineSet s line).getLsbD x = true) → censusOf s line = none →
    ∃ t c, exec (.recreationSweep (homeOf line) line) s = .next t ∧ censusOf t line = some c ∧ c.sites = lineSet s line &&& upSet s ∧ c.active = 0 ∧ c.acks = 0) ∧
  (∀ (s : State) (site line : Nat) (c : Census), censusOf s line = some c → c.sites.getLsbD site = true → c.active.getLsbD site = false →
    s.dieUp site = true →
    ∃ t d, exec (.censusActivate site line) s = .next t ∧ censusOf t line = some d ∧ d.active = c.active ||| 1 <<< site ∧
      (dirOf t line site).tokens = 0) ∧
  (∀ (s : State) (site src line : Nat) (c : Census), censusOf s line = some c → c.sites.getLsbD site = true → c.active.getLsbD src = true →
    site ≠ src → s.dieUp site = true → s.coh = [] →
    ∃ t d, exec (.censusMarkReceive site src line) s = .next t ∧ censusOf t line = some d ∧
      (FMap.get 0 d.marks site) = FMap.get 0 c.marks site ||| 1 <<< src) ∧
  (∀ (s : State) (line : Nat) (c : Census), s.census = [c] → c.line = line → activeAt s line = none → c.acks &&& (c.sites &&& upSet s) = c.sites &&& upSet s →
    ∃ t, exec (.censusComplete line) s = .next t ∧ t.census = [] ∧ (tokOf t line).home = 64 ∧ (tokOf t line).dies = [] ∧
      (tokOf t line).serial = (tokOf s line).serial + 1 ∧ ∀ m ∈ t.coh, m.line ≠ line) ∧
  (∀ (s : State) (site page entry : Nat), s.dieUp site = true → s.dieUp (pageHome page) = true → repOf s page = none →
    (s.die (pageHome page)).repDir.length < 4096 →
    ∃ t r, exec (.replicaRead site page entry) s = .next t ∧ repOf t page = some r ∧ r.sites = 1 <<< site ∧ r.entry = entry ∧
      page ∈ (t.die site).replicas) ∧
  (∀ (s : State) (page : Nat) (r : RepEnt), repOf s page = some r → r.page = page → r.demoted = false →
    (r.gate = false → ∃ t, exec (.replicaDemote (pageHome page) page) s = .next t ∧ repOf t page = some { r with gate := true, acks := 0 }) ∧
    (∀ site, r.gate = true → r.sites.getLsbD site = true → s.dieUp site = true →
      ∃ t, exec (.replicaInvalidate site page) s = .next t ∧ page ∉ (t.die site).replicas ∧
        (∀ x ∈ (t.die site).repLines, x.page ≠ page) ∧ repOf t page = some { r with acks := r.acks ||| 1 <<< site }) ∧
    (r.gate = true → (s.die (pageHome page)).repDir.length ≤ 4096 → r.acks &&& (r.sites &&& upSet s) = r.sites &&& upSet s →
      ∃ t x, exec (.replicaDemoteDone (pageHome page) page) s = .next t ∧ repOf t page = some x ∧ x.demoted = true ∧ x.gate = false ∧
        ∀ y < 48, r.sites.getLsbD y = true → page ∉ (t.die y).replicas)) ∧
  (∀ (s : State) (site : Nat) (val : BitVec 64) (flush : Bool), s.dieUp site = true → getF val 2 0 = (if flush then 1 else 2) →
    let i : Instr := if flush then .homeFlush site val else .homeReplclr site val
    let start := getF (s.reg (haddrA site)) 47 12 * 4096
    let n := getF val 27 8
    ((s.die site).home = none → 0 < n → start / 0x1000000000 = site → start % 0x1000000000 + n * 4096 ≤ 0x1000000000 →
      ∃ t, exec i s = .next t ∧ (t.die site).home = some { flush := flush, addr := start, count := n } ∧ t.reg (hstatA site) = 1) ∧
    ((s.die site).home ≠ none → ∃ t, exec i s = .next t ∧ t.regF (hstatA site) 15 8 = 4 ∧ t.dies = s.dies) ∧
    ((s.die site).home = none → (n = 0 ∨ start / 0x1000000000 ≠ site ∨ 0x1000000000 < start % 0x1000000000 + n * 4096) →
      ∃ t, exec i s = .next t ∧ t.regF (hstatA site) 15 8 = 2 ∧ t.dies = s.dies)) ∧
  (∀ (s : State) (site : Nat) (val : BitVec 64), s.dieUp site = true → getF val 2 0 ≠ 1 → getF val 2 0 ≠ 2 → (s.die site).home = none →
    ∃ t, exec (.homeBadop site val) s = .next t ∧ OnlyRegisters s t ∧ t.regF (hstatA site) 15 8 = 3) ∧
  (∀ (s : State) (site : Nat) (c : HomeCmd), (s.die site).home = some c →
    ∃ t, exec (.homeCmdDone site) s = .next t ∧ (t.die site).home = none ∧ t.reg (hstatA site) = BitVec.ofNat 64 (c.count * 2 ^ 32 + 0x100) ∧
      (c.flush = false → (∀ r ∈ (t.die site).repDir, r.page ≠ c.addr) ∧ t.mem = s.mem) ∧
      (c.flush = true → ∀ x, ∀ p ∈ (t.die x).repLines, 128 * p.line < c.addr ∨ c.addr + c.count * 4096 ≤ 128 * p.line))

/-- R102 to R108, R112, R114, R121, R54, R55: the boot goes from ROM to DONE, a phase at a time: firmware images are measured, with
no good copy the part stops; dies are loaded, tested, mapped out where a check fails, given their logical numbers, and read UP
at its end. A die that is held in reset is measured, loaded and tested again; a failure maps it out. That index 53 is measured without a
policy too is a reading (log 18), the bytes that the memory keys are derived from are presumed (log 13), and when links are trained is
the model's choice (log 20, R43). -/
def Obligations.BootRunsItsPhases : Prop :=
  (∀ (s : State) (a b : Bool) (digest : BitVec 256), s.phase = 0 → s.trust.bootFail = false →
    ((a || b) = true → ∃ t, exec (.bootRom a b digest) s = .next t ∧ t.phase = 1 ∧ FMap.get 0 t.trust.meas 1 = digest ∧
      OtherRegisters s t [bootstatA]) ∧
    ((a || b) = false → exec (.bootRom a b digest) s = .next { s with trust := { s.trust with bootFail := true } })) ∧
  (∀ (s : State) (a b : Bool) (digest : BitVec 256), s.phase = 1 →
    ((a || b) = true → ∃ t, exec (.bootHub a b digest) s = .next t ∧ t.phase = 2 ∧ FMap.get 0 t.trust.meas 2 = digest ∧
      OtherRegisters s t [bootstatA]) ∧
    ((a || b) = false → s.regF bootstatA 7 4 = 0 → ∃ t, exec (.bootHub a b digest) s = .next t ∧ t.phase = 15 ∧
      t.regF bootstatA 7 4 = 1 ∧ t.trust.bootFail = true)) ∧
  (∀ (s : State) (rs : List DieTest), s.phase = 2 →
    ∃ t, exec (.bootDies rs) s = .next t ∧ t.phase = 3 ∧ ∀ site < 48,
      let r := testOf rs site
      (r.sigOk = false ∨ r.loadOk = false → t.dieSt site = 3) ∧
      (r.sigOk = true → r.loadOk = true → t.dieSt site = 1 ∧ FMap.get 0 t.trust.meas (3 + site) = r.digest)) ∧
  (∀ (s : State) (rs : List DieTest), s.phase = 3 →
    ∃ t, exec (.bootSelftest rs) s = .next t ∧ t.phase = 4 ∧ (∀ x < 48, t.hub.bootOut.getLsbD x = decide (t.dieSt x = 3)) ∧
      ∀ site < 48, s.dieSt site = 1 →
        let r := testOf rs site
        let f := fusesOf s site
        let works (c : Nat) : Bool := coreWorks (~~~f.cores) (~~~f.slices) f r c
        (r.dieOk = false ∨ edgesDead r = true ∨ (∀ c < 48, works c = false) → t.dieSt site = 3) ∧
        (r.dieOk = true → edgesDead r = false → (∃ c < 48, works c = true) →
          t.dieSt site = 1 ∧ (∀ c < 48, t.coreOn site c = works c) ∧ t.regF (dsliceA site) 11 0 = (~~~f.slices &&& ~~~r.badSlices).toNat)) ∧
  (∀ s : State, s.phase = 4 →
    ∃ t, exec .bootRoute s = .next t ∧ t.phase = 5 ∧ t.hub.routeSeq = 1 ∧ t.regF rtstatA 31 16 = 1 ∧
      (FMap.find t.trust.meas 51).isSome = true ∧ (∀ x < 48, s.dieSt x ≠ 3 → (t.die x).pub = Config.publicOf packageKey) ∧
      ∀ l < 64, t.reg (nbrA l) = defaultNbr (bootLogical s) l) ∧
  (∀ (s : State) (p : Option Policy), s.phase = 5 → measured s 53 = false →
    ∃ t, exec (.bootKeys p) s = .next t ∧ measured t 53 = true ∧ t.phase = 5 ∧
      t.trust.key0 = memoryKey Config.rootSecret 0 t.trust.nonce ∧ t.trust.key1 = memoryKey Config.rootSecret 1 t.trust.nonce ∧
      (∀ x < 48, s.dieSt x = 1 → (t.die x).key0 = t.trust.key0 ∧ (t.die x).key1 = t.trust.key1) ∧
      (∀ q, p = some q → FMap.get 0 t.trust.meas 53 = q.digest ∧ t.reg worldcfgA = q.secSq.setWidth 64 ∧ t.trust.packet = q.packet) ∧
      (p = none → s.regF bootstatA 7 4 = 0 → t.regF bootstatA 7 4 = 5 ∧ OtherRegisters s t [bootstatA])) ∧
  (∀ s : State, s.phase = 5 → measured s 53 = true →
    ∃ t, exec .bootDone s = .next t ∧ t.phase = 6 ∧ measured t 52 = true ∧ ∀ x < 48, s.dieSt x = 1 →
      t.dieSt x = 2 ∧ t.logical x = ((List.range x).filter fun y => s.dieSt y == 1).length) ∧
  (∀ (s : State) (r : DieTest), r.site < 48 → s.dieSt r.site = 4 → allTold s r.site = true →
    let works (c : Nat) : Bool := coreWorks ((s.reg (dcoreA r.site)).setWidth 48) ((s.reg (dsliceA r.site)).setWidth 12) (fusesOf s r.site) r c
    (r.sigOk = false ∨ r.loadOk = false ∨ r.dieOk = false ∨ edgesDead r = true ∨ (∀ c < 48, works c = false) →
      ∃ t, exec (.dieRelease r) s = .next t ∧ t.dieSt r.site = 3) ∧
    (r.sigOk = true → r.loadOk = true → r.dieOk = true → edgesDead r = false → (∃ c < 48, works c = true) →
      ∃ t, exec (.dieRelease r) s = .next t ∧ t.dieSt r.site = 2 ∧ FMap.get 0 t.trust.meas (3 + r.site) = r.digest ∧
        (∀ c < 48, t.coreOn r.site c = works c ∧ t.core r.site c = Core.reset) ∧ (t.die r.site).key0 = s.trust.key0 ∧
        (t.die r.site).key1 = s.trust.key1 ∧ (t.die r.site).pub = Config.publicOf packageKey)) ∧
  (∀ (s : State) (r : DieTest), s.dieSt r.site = 4 → allTold s r.site = false → exec (.dieRelease r) s = .next s)

/-- R106, R109, R110, R115, R119 to R121: the SPDM responder answers once the hub is up, each request with its own response, which
stands in the DOE mailbox until the host takes it or aborts; while one stands there, no request has an effect, and the mailbox reads
busy; secure ranges take writes from secure requesters alone, and the units that change their world read zero when the fill is done;
a configuration request waits for the end of the boot. The fields of configuration space, the registers of the mailbox and the bits of
the algorithms are the model's choice (log 16), and so are the error code (log 4) and the phase from which requests are taken
(log 20, R110). -/
def Obligations.TrustDieAnswers : Prop :=
  (∀ s : State, 2 ≤ s.phase → s.phase ≠ 15 → s.trust.doe = none →
    exec .getVersion s = .next (inMailbox s (.version 0x12)) ∧
    exec .getCapabilities s = .next (inMailbox s (.capabilities true true true false)) ∧
    (∀ a h m : Nat, exec (.negotiateAlgorithms a h m) s =
      .next (inMailbox s (.algorithms (m &&& 1) (a &&& 0x10) (h &&& 1) (if m.testBit 0 then 2 else 0)))) ∧
    exec .getDigests s = .next (inMailbox s (.digests (sha256 (Config.certChain 0)))) ∧
    (∀ off len : Nat, off ≤ (Config.certChain 0).length → ∃ part left,
      exec (.getCertificate 0 off len) s = .next (inMailbox s (.certificate part left)) ∧
      part = ((Config.certChain 0).drop off).take len ∧ off + part.length + left = (Config.certChain 0).length) ∧
    (∀ nonce : BitVec 256, ∃ own sig k, exec (.challenge 0 nonce) s =
      .next { inMailbox s (.challengeAuth (sha256 (Config.certChain 0)) own sig) with free := k }) ∧
    (∀ (sign : Option Nat) (nonce : BitVec 256), (∀ slot, sign = some slot → slot = 0) →
      (∃ sig, exec (.getMeasurements 0 sign nonce) s = .next (inMailbox s (.measurements 54 [] sig)) ∧ sig.isSome = sign.isSome) ∧
      (∀ n, 1 ≤ n → n ≤ 54 → ∃ sig, exec (.getMeasurements n sign nonce) s =
        .next (inMailbox s (.measurements 1 [(n, if n = 54 then s.trust.chain else FMap.get 0 s.trust.meas n)] sig)) ∧
          sig.isSome = sign.isSome) ∧
      (∃ sig l, exec (.getMeasurements 0xFF sign nonce) s = .next (inMailbox s (.measurements 54 l sig)) ∧ sig.isSome = sign.isSome ∧
        l.length = 54)) ∧
    (∀ i : Instr, (∃ code, i = .spdmUnsupported code) ∨ (∃ slot off len, i = .getCertificate slot off len ∧ slot ≠ 0) ∨
        (∃ slot nonce, i = .challenge slot nonce ∧ slot ≠ 0) ∨
        (∃ op sign nonce, i = .getMeasurements op sign nonce ∧ ((∃ slot, sign = some slot ∧ slot ≠ 0) ∨ 54 < op ∧ op ≠ 0xFF)) →
      ∃ e k, exec i s = .next { inMailbox s (.error e) with free := k })) ∧
  (∀ (s : State) (i : Instr), s.trust.doe.isSome = true →
    (i = .getVersion ∨ i = .getCapabilities ∨ (∃ a h m, i = .negotiateAlgorithms a h m) ∨ i = .getDigests ∨
      (∃ slot off len, i = .getCertificate slot off len) ∨ (∃ slot nonce, i = .challenge slot nonce) ∨
      (∃ op sign nonce, i = .getMeasurements op sign nonce) ∨ (∃ code, i = .spdmUnsupported code)) → exec i s = .next s) ∧
  (∀ (s : State) (site i : Nat) (val : BitVec 64) (sec : Bool), site < 48 → i < 8 →
    (sec = true → rangeOk val = true → ∃ t, exec (.secrangeWrite site i val sec) s = .next t ∧
      (t.reg (secrangeA site i)).getLsbD 63 = val.getLsbD 63 ∧ t.regF (secrangeA site i) 49 32 = getF val 49 32 ∧
      t.regF (secrangeA site i) 16 0 = getF val 16 0 ∧ OtherRegisters s t [secrangeA site i] ∧ t.mem = s.mem) ∧
    (sec = true → rangeOk val = false → exec (.secrangeWrite site i val sec) s = .next s) ∧
    (sec = false → ∃ t, exec (.secrangeWrite site i val sec) s = .next t ∧ t.reg (secrangeA site i) = s.reg (secrangeA site i) ∧
      HostRefused s t (secrangeA site i))) ∧
  (∀ (s : State) (site i : Nat), (∃ f ∈ s.trust.fills, f.1 = site ∧ f.2.1 = i) →
    ∃ t, exec (.secrangeZerofillDone site i) s = .next t ∧ t.regF (secrangeA site i) 62 62 = 0 ∧
      (∀ f, f ∈ t.trust.fills ↔ f ∈ s.trust.fills ∧ ¬ (f.1 = site ∧ f.2.1 = i)) ∧
      ∀ a, let u := a % 0x1000000000 / 0x80000
        let filled := a / 0x1000000000 = site ∧ ∃ f ∈ s.trust.fills, f.1 = site ∧ f.2.1 = i ∧ f.2.2.1 ≤ u ∧ u < f.2.2.2
        (filled → byteAt t.mem a = 0) ∧ (¬ filled → byteAt t.mem a = byteAt s.mem a)) ∧
  (∀ (s : State) (write : Bool) (reg : Nat) (val : BitVec 32),
    (s.phase ≠ 6 → exec (.hostConfigurationRequest write reg val) s = .next { s with outbox := s.outbox ++ [.retryStatus] }) ∧
    (s.phase = 6 → write = false → ∃ v, exec (.hostConfigurationRequest write reg val) s =
        .next { s with outbox := s.outbox ++ [.configData v] } ∧
      (reg < 0x49 ∨ 0x4D < reg → v = pciWord s.trust.pci reg) ∧
      (reg = 0x4B → v.getLsbD 31 = s.trust.doe.isSome ∧ v.getLsbD 0 = s.trust.doe.isSome)) ∧
    (s.phase = 6 → write = true → ∃ t, exec (.hostConfigurationRequest write reg val) s = .next t ∧
      let out (r : SpdmRsp) : List OutMsg := if reg = 0x4D then [.spdm r] else []
      let taken : Bool := reg == 0x4D || (reg == 0x4A && val.getLsbD 0)
      t = { s with trust := { s.trust with pci := pciWrite s.trust.pci reg val, doe := if taken then none else s.trust.doe },
                   regs := t.regs, outbox := t.outbox } ∧
      (t.msixOn = false → t.regs = s.regs ∧ (s.trust.doe = none → t.outbox = s.outbox) ∧
        ∀ r, s.trust.doe = some r → t.outbox = s.outbox ++ out r)))

/-- R106, R124 to R136, R139, R141, R142: host accesses through BAR2 read and write HBM where an aperture maps it; a queue starts,
stops, takes its doorbells or enters ERROR; the GCP reads the entries, and completion entries go out as there is room, with
their messages; event bits are cleared by writing them; a port's change is reported and holds the new requests of who has some
outstanding; a peer's load is answered; and a register's writable bits take what is written. Where D3hot and the masks of MSI-X stand
is presumed (log 16); an access is performed whole in its step (log 5, log 7). -/
def Obligations.HostDrivesQueuesAndRegisters : Prop :=
  (∀ (s : State) (off size pa home : Nat), s.phase = 6 → s.asleep = false → 0 < size → off % 128 + size ≤ 128 → apAddr s off = some pa →
    region pa = .hbm home → siteSt s 48 home = stOk → portSt s pa false = stOk → LineWhole s (lineOf pa) →
    (∃ t, exec (.bar2Read off size) s = .next t ∧ t.outbox = s.outbox ++ [.read (bytesLe size (readBytes s.mem pa size))] ∧ t.mem = s.mem) ∧
    (∀ data : List Byte, data.length = size → ∃ t, exec (.bar2Write off data) s = .next t ∧
      (∀ a, byteAt t.mem a = if pa ≤ a ∧ a < pa + size then data.getD (a - pa) 0 else byteAt s.mem a) ∧ t.outbox = s.outbox)) ∧
  (∀ (s : State) (off size : Nat), s.phase = 6 → 0 < size → apAddr s off = none →
    exec (.bar2Read off size) s = .next { s with outbox := s.outbox ++ [.unsupported] }) ∧
  (∀ (s : State) (q : Nat) (val : BitVec 64) (low : Bool), s.asleep = true →
    exec (.sqStart q val false) s = .next s ∧ exec (.sqStop q val false) s = .next s ∧ exec (.sqDoorbell q val low false) s = .next s ∧
      exec (.cqDoorbell q val low false) s = .next s ∧ exec (.evtstatClear val) s = .next s) ∧
  (∀ (s : State) (q : Nat) (val : BitVec 64) (sec : Bool), q < 1024 → (secQueue s q && !sec) = false → (sec = true ∨ s.asleep = false) →
    (getF val 1 0 = 1 → s.qState q = 0 → 4 ≤ getF val 7 4 → 4 ≤ s.regF (cqcfgA q) 7 4 →
      baseBad (s.reg (sqbaseA q)) (128 * 2 ^ getF val 7 4) = false → baseBad (s.reg (cqbaseA q)) (32 * 2 ^ s.regF (cqcfgA q) 7 4) = false →
      ∃ t, exec (.sqStart q val sec) s = .next t ∧ t.qState q = 1 ∧ t.regF (sqcfgA q) 7 4 = getF val 7 4 ∧ t.regF (sqcfgA q) 47 32 = 0 ∧
        t.regF (cqcfgA q) 47 32 = 0 ∧ (t.qint q).tail = 0 ∧ (t.qint q).held = (s.qint q).held ∧ (t.qint q).unsig = (s.qint q).unsig) ∧
    (getF val 1 0 = 1 → s.qState q = 0 → getF val 7 4 < 4 →
      ∃ t, exec (.sqStart q val sec) s = .next t ∧ t.qState q = 2 ∧ t.regF (sqcfgA q) 31 28 = 3) ∧
    (getF val 1 0 = 0 → ∃ t, exec (.sqStop q val sec) s = .next t ∧ t.qState q = 0 ∧ OtherRegisters s t [sqcfgA q]) ∧
    (s.phase = 6 → s.qState q = 1 →
      (getF val 15 0 < 2 ^ s.regF (sqcfgA q) 7 4 → ∃ t, exec (.sqDoorbell q val true sec) s = .next t ∧ (t.qint q).tail = getF val 15 0 ∧
        t.regs = s.regs) ∧
      (2 ^ s.regF (sqcfgA q) 7 4 ≤ getF val 15 0 → ∃ t, exec (.sqDoorbell q val true sec) s = .next t ∧ t.qState q = 2 ∧
        t.regF (sqcfgA q) 31 28 = 1) ∧
      (let n := 2 ^ s.regF (cqcfgA q) 7 4
       getF val 15 0 < n → (getF val 15 0 + n - (s.qint q).cqHead) % n ≤ (s.regF (cqcfgA q) 47 32 + n - (s.qint q).cqHead) % n →
        ∃ t, exec (.cqDoorbell q val true sec) s = .next t ∧ (t.qint q).cqHead = getF val 15 0 ∧ t.regs = s.regs))) ∧
  (∀ (s : State) (q : Nat), q < 1024 → s.phase = 6 → s.qState q = 1 → s.regF (sqcfgA q) 47 32 ≠ (s.qint q).tail →
    (∀ e ∈ s.hub.grids, e.2.q = some q → e.2.isFallback = true ∨ (e.2.st ≠ .waiting ∧ e.2.st ≠ .resolved)) →
    (s.reg (sqbaseA q)).getLsbD 63 = true →
    ∃ t, exec (.gcpReadEntry q) s = .next t ∧ t.regF (sqcfgA q) 47 32 = (s.regF (sqcfgA q) 47 32 + 1) % 2 ^ s.regF (sqcfgA q) 7 4 ∧
      t.hub.nextGrid = s.hub.nextGrid + 1 ∧ t.hub.rr = q + 1 ∧
      let g := t.grid s.hub.nextGrid
      g.st = .waiting ∧ g.q = some q ∧ g.sec = secQueue s q ∧
        g.pkt = BitVec.ofNat 1024 (readBytes s.hostMem (getF (s.reg (sqbaseA q)) 56 7 * 128 + 128 * s.regF (sqcfgA q) 47 32) 128)) ∧
  (∀ (s : State) (q : Nat) (e : BitVec 256) (l : List (BitVec 256)), q < 1024 → (s.qint q).held = e :: l → cqFull s q = false →
    (s.reg (cqbaseA q)).getLsbD 63 = true →
    let tail := s.regF (cqcfgA q) 47 32
    ∃ t, exec (.completionEntryWrite q) s = .next t ∧ (t.qint q).held = l ∧ t.regF (cqcfgA q) 47 32 = (tail + 1) % 2 ^ s.regF (cqcfgA q) 7 4 ∧
      readBytes t.hostMem (getF (s.reg (cqbaseA q)) 56 5 * 32 + 32 * tail) 32 =
        (e.toNat + s.regF (sqcfgA q) 47 32 * 2 ^ 128 + (if (s.qint q).cqPhase then 2 ^ 144 else 0)) % 2 ^ 256) ∧
  (∀ (s : State) (q : Nat), (s.reg (cqcfgA q)).getLsbD 20 = true → 0 < (s.qint q).unsig → (s.qint q).oldest + 38000 ≤ s.ticks →
    let v := s.regF (cqcfgA q) 31 21
    ∃ t, exec (.msixCoalesceTimeout q) s = .next t ∧ (t.qint q).unsig = 0 ∧
      (s.regF (msixA v 1) 32 32 = 0 → s.msixOn = true → t.outbox = s.outbox ++ [.msix v (s.reg (msixA v 0)) (BitVec.ofNat 32 (s.reg (msixA v 1)).toNat)]) ∧
      (s.regF (msixA v 1) 32 32 = 1 ∨ s.msixOn = false → t.outbox = s.outbox ∧ (t.reg (pbaA (v / 64))).getLsbD (v % 64) = true)) ∧
  (∀ (s : State) (val : BitVec 64), s.asleep = false → ∃ t, exec (.evtstatClear val) s = .next t ∧ OnlyRegisters s t ∧ OtherRegisters s t [evtstatA] ∧
    t.reg evtstatA = s.reg evtstatA &&& ~~~val) ∧
  (∀ (s : State) (port state : Nat), port < 24 → state ≤ 2 → s.regF (dlstatA port) 1 0 ≠ state →
    ∃ t, exec (.dalecPortChange port state) s = .next t ∧ t.regF (dlstatA port) 1 0 = state ∧ (t.reg evtstatA).getLsbD 6 = true ∧
      t = { s with regs := t.regs, outbox := t.outbox, hub := { s.hub with peerHold := t.hub.peerHold } } ∧
      (s.regF (dlstatA port) 1 0 = 2 ∨ state = 2 → ∀ (w : WRef) (o : AsyncOp) (x : LaneRes), o ∈ (s.wref w).ops → o.done = false →
        o.held = false → x ∈ o.res → x.tr.kind = .peer → (s.reg (pkgrtA (peerOf x.tr.pa))).getLsbD port = true → w.site < 48 → w.core < 64 →
        w.slot < 64 → ∀ (tr : Tr), tr.kind = .peer → peerOf tr.pa = peerOf x.tr.pa → peerHeld t w.site w.core tr = true)) ∧
  (∀ (s : State) (port pkg home : Nat) (r : Req), port < 24 → s.dieUp (portSite port) = true → (s.reg pkgidA).getLsbD 63 = true →
    s.regF (dlstatA port) 1 0 = 2 → r.kind = .load → region r.pa = .hbm home → siteSt s (portSite port) home = stOk →
    portSt s r.pa false = stOk → LineWhole s (lineOf r.pa) →
    ∃ t, exec (.peerRequestReceive port pkg r) s = .next t ∧ t.mem = s.mem ∧
      t.outbox = s.outbox ++ [.peerRsp pkg r.srcSite r.srcCore r.seq stOk (BitVec.ofNat 256 (readBytes s.mem r.pa r.size))]) ∧
  (∀ (s : State) (w : WRef) (o : AsyncOp) (rest : List AsyncOp), (s.wref w).ops = o :: rest → engineOp s w o.tag = none → o.done = false →
    o.held = false → o.engine = false → o.path < 2 → (∃ x ∈ o.res, x.tr.kind = .peer) → o.retries < 3 →
    ∃ t, exec (.peerRequestTimeout w o.tag) s = .next t ∧ ∃ x l, (t.wref w).ops = x :: l ∧ x.tag = o.tag ∧ x.retries = o.retries + 1) ∧
  (∀ (s : State) (val : BitVec 64) (sec : Bool), (sec = true ∨ s.asleep = false) → ∃ t, exec (.registerWrite evtcfgA true val sec) s = .next t ∧ OtherRegisters s t [evtcfgA] ∧
    t.regF evtcfgA 47 32 = getF val 47 32 ∧ t.regF evtcfgA 10 0 = getF val 10 0) ∧
  (∀ (s : State) (val : BitVec 64),
    (∃ t, exec (.registerWrite worldcfgA true val true) s = .next t ∧ OtherRegisters s t [worldcfgA] ∧ t.regF worldcfgA 9 0 = getF val 9 0) ∧
    (s.asleep = false → ∃ t, exec (.registerWrite worldcfgA true val false) s = .next t ∧ t.reg worldcfgA = s.reg worldcfgA ∧
      HostRefused s t worldcfgA))

/-- R146 to R149: the servo takes the offset of a Sync or a Follow_Up of its master, or of a PPS edge, notes it in TSTAT, counts
the small ones in a row, steps device time over an offset of more than one millisecond where the device is behind or STEP allows
it, and slews it otherwise, at most 500 ppm toward its source, or by the frequency of the 10 MHz input and that slew under
PPS10; device time is set by TSET, which no write of the host in D3hot reaches and which releases the grids whose time has come, and its source by TCTL; a source that is lost
ends the lock. How fast a smaller offset slews is a free value (log 8); the rank that stands for a master and its loss are presumed
(log 16), and OFFSET keeps the low 32 bits (log 20, R148). -/
def Obligations.DeviceTimeFollowsItsSource : Prop :=
  (∀ (s : State) (offset : Int) (i : Instr),
    (∃ m, fromMaster s m = true ∧ m.value = offset + s.hub.ptp.delay ∧ (i = .ptpSync m false ∨
        i = .ptpFollowUp m ∧ s.hub.ptp.pendingSync.isSome = true)) ∨
      (∃ ref, i = .ppsEdge ref) ∧ offset = secondOff s ∧ (s.timeSrc = 2 ∨ s.timeSrc = 3) →
    let steps := 1000000 < offset.natAbs ∧ (offset < 0 ∨ (s.reg tctlA).getLsbD 3 = true)
    ∃ t, exec i s = .next t ∧ t.hub.ptp.good = (if offset.natAbs < 1000 then s.hub.ptp.good + 1 else 0) ∧
      t.regF tstatA 63 32 = (BitVec.ofInt 32 offset).toNat ∧ t.regF tstatA 1 1 = 0 ∧
      (offset.natAbs < 1000 → 15 ≤ s.hub.ptp.good → (t.reg tstatA).getLsbD 0 = true) ∧
      (steps → t.time = s.time - BitVec.ofInt 64 offset ∧ (s.timeSrc ≠ 3 → t.hub.ptp.rate = s.hub.ptp.rate)) ∧
      (¬ steps → t.time = s.time ∧ t.hub.ptp.rate.natAbs ≤ 500000 ∧
        (s.timeSrc ≠ 3 → (offset < 0 → 0 ≤ t.hub.ptp.rate) ∧ (0 < offset → t.hub.ptp.rate ≤ 0))) ∧
      (s.timeSrc = 3 → ∀ ref, i = .ppsEdge ref → steps ∨ offset = 0 → t.hub.ptp.rate = within500ppm ref)) ∧
  (∀ (s : State) (m : PtpMsg), fromMaster s m = true → ∃ t, exec (.ptpSync m true) s = .next t ∧
    t.hub.ptp.pendingSync = some m.value ∧ t.hub.ptp.lastSeen = s.ticks ∧ t.time = s.time) ∧
  (∀ (s : State) (ref : Int), (s.timeSrc = 0 ∨ s.timeSrc = 1) → ∃ t, exec (.ppsEdge ref) s = .next t ∧ (t.reg tstatA).getLsbD 2 = true ∧ t.time = s.time) ∧
  (∀ (s : State) (m : PtpMsg), fromMaster s m = true → ∃ t, exec (.ptpDelayResp m) s = .next t ∧
    t = { s with hub := { s.hub with ptp := { s.hub.ptp with delay := m.value } } }) ∧
  (∀ (s : State) (m : PtpMsg) (two : Bool), fromMaster s m = false → exec (.ptpSync m two) s = .next s ∧
    exec (.ptpFollowUp m) s = .next s ∧ exec (.ptpDelayResp m) s = .next s) ∧
  (∀ s : State, s.timeSrc = 1 → exec .ptpDelayReq s = .next { s with outbox := s.outbox ++ [.delayReq s.time] }) ∧
  (∀ (s : State) (rank : Nat), s.timeSrc = 1 → ∃ t, exec (.ptpAnnounce rank (s.regF tctlA 23 16)) s = .next t ∧
    t = { s with hub := { s.hub with ptp := { s.hub.ptp with
      master := some (match s.hub.ptp.master with | some k => min k rank | none => rank) } } }) ∧
  (∀ s : State, s.hub.ptp.lastPps + 2850000000 ≤ s.ticks → ∃ t, exec .ppsseenExpire s = .next t ∧ OtherRegisters s t [tstatA] ∧
    (t.reg tstatA).getLsbD 2 = false) ∧
  (∀ (s : State) (ip : BitVec 32), ip.toNat = s.regF tctlA 63 32 → exec (.arpReply ip) s = .next { s with outbox := s.outbox ++ [.arp ip] }) ∧
  (∀ s : State, s.timeSrc ≠ 0 → (if s.timeSrc = 1 then s.hub.ptp.lastSeen else s.hub.ptp.lastPps) + 3800000000 ≤ s.ticks →
    ∃ t, exec .timeSourceLoss s = .next t ∧ (t.reg tstatA).getLsbD 0 = false ∧ (t.reg tstatA).getLsbD 1 = true ∧ t.hub.ptp.good = 0 ∧
      t.hub.ptp.rate = s.hub.ptp.rate ∧ t.time = s.time) ∧
  (∀ (s : State) (val : BitVec 64), (s.asleep = false → ∃ t, exec (.tsetWrite val true) s = .next t ∧ t.time = val ∧
      t = { s with time := val, hub := { s.hub with grids := t.hub.grids } } ∧
      ∀ id site, site < 48 → (s.grid id).st = .running → (FMap.find (s.grid id).ranges site).isSome = true →
        (s.grid id).notBefore ≤ (t.timeAt site).toNat → (t.grid id).ready.getLsbD site = true) ∧
    exec (.tsetWrite val false) s = .next s) ∧
  (∀ (s : State) (val : BitVec 64) (wide : Bool), s.asleep = true → exec (.tsetWrite val wide) s = .next s ∧ exec (.tctlWrite val) s = .next s) ∧
  (∀ (s : State) (val : BitVec 64), s.asleep = false → ∃ t, exec (.tctlWrite val) s = .next t ∧
    t.timeSrc = (if getF val 2 0 < 4 then getF val 2 0 else s.timeSrc) ∧ t.regF tctlA 63 32 = getF val 63 32 ∧
    (t.reg tctlA).getLsbD 3 = val.getLsbD 3 ∧ t.regF tctlA 23 16 = (if getF val 23 16 < 128 then getF val 23 16 else s.regF tctlA 23 16) ∧
    (t.timeSrc ≠ s.timeSrc → (t.reg tstatA).getLsbD 0 = false ∧ t.hub.ptp.master = none) ∧ t.time = s.time)

/-- R152, R155 to R166, R168 to R173, R189, R230 to R234: a grid passes its checks and its wait list, is admitted with its ranges, and
released at its not-before time; its die's dispatcher places the next team in a core's slots; a run starts and ends; clocks
pass and instructions are selected; RBGET's queue is served; a team ends, its grid counts it, and a final status leaves the
table; a deadline withdraws what has not started. When R152 checks a packet and when the not-before time lets a grid's teams be placed
are readings (log 18), that the clocks pass with an event is the model's form (log 8), and what a deadline does for a grid in FAULT its
choice (log 20, R166). -/
def Obligations.GridsBecomeTeamsAndRuns : Prop :=
  (∀ (s : State) (g : Nat), (s.grid g).st = .waiting →
    ((s.grid g).checked = false → packetBad (s.grid g) = true → ∃ t, exec (.waitlistResolve g) s = .next t ∧ (t.grid g).st = .done ∧
      (t.grid g).status = 4) ∧
    ((s.grid g).checked = true → (∀ i < 4, (s.grid g).wait i = 0) → ∃ t, exec (.waitlistResolve g) s = .next t ∧
      t.grid g = { s.grid g with st := .resolved } ∧ t.mem = s.mem)) ∧
  (∀ (s : State) (g : Nat), (s.grid g).st = .resolved → launchedBefore s g = false →
    let x := s.grid g
    (unitTeams x = 0 → ∃ t, exec (.gridAdmit g) s = .next t ∧ (t.grid g).st = .done ∧ (t.grid g).status = 3) ∧
    (∀ site, unitTeams x ≠ 0 → upByLogical s = [site] → 0 < dieUnits s site x → x.redun ≠ 2 → 0 < x.total →
      (x.coop = true → x.total ≤ unitTeams x * dieUnits s site x) →
      ∃ t, exec (.gridAdmit g) s = .next t ∧ g ∈ (t.die site).grids ∧
        let late := x.notBefore != 0 && decide (x.notBefore < s.time.toNat)
        t.grid g = { x with st := .running, late := late, ranges := [(site, 0, x.total)],
                            ready := if x.notBefore = 0 ∨ late = true then BitVec.allOnes 48 else 0 })) ∧
  (∀ (s : State) (site g : Nat), site < 48 → (s.grid g).st = .running → (FMap.find (s.grid g).ranges site).isSome = true →
    (s.grid g).notBefore ≤ (s.timeAt site).toNat →
    ∃ t, exec (.notbeforeRelease site g) s = .next t ∧ t.grid g = { s.grid g with ready := (s.grid g).ready ||| 1 <<< site }) ∧
  (∀ (s s1 : State) (site g k e c first : Nat) (d : BitVec 2048), s.dieUp site = true → dispatchOrder s site = [g] →
    unplaced (s.grid g) site = some (k, e) → returnee s site g = none → (s.grid g).ready.getLsbD site = true → coopHolds s site g = false →
    bestCore s site (s.grid g) ((s.grid g).teamSize * (s.grid g).blocks) none (fun _ => true) = some (c, first) →
    readKd s site g = (s1, .ok d) → kdBad d = false →
    ∃ t, exec (.teamPlace site) s = .next t ∧ t.hub.nextTeam = s1.hub.nextTeam + 1 ∧
      let tm := t.team s1.hub.nextTeam
      tm.g = g ∧ tm.t = k ∧ tm.site = site ∧ tm.core = c ∧ tm.st = .running ∧ tm.kd = d ∧ tm.gran = first + 1 ∧
        FMap.find (t.grid g).ranges site = some (k + 1, match FMap.find (s1.grid g).ranges site with | some x => x.2 | none => 0) ∧
        ∀ j ∈ tm.slots, (t.warp site c j).resident = true ∧ (t.warp site c j).team = s1.hub.nextTeam) ∧
  (∀ (s : State) (w : WRef) (e : RunEnt) (q : List RunEnt), (s.wref w).resident = true → (s.core w.site w.core).pipe (w.slot % 2) = some w.slot →
    (s.wref w).running = none → (s.wref w).queue = e :: q →
    let x := s.wref w
    (e.resume = false → x.lane.s0.st = .empty → x.lane.s1.st = .empty → x.lane.stack = [] → x.exited ≠ BitVec.allOnes 32 →
      ∃ t, exec (.runStart w) s = .next t ∧ (t.wref w).running = some e ∧ (t.wref w).queue = q ∧ (t.wref w).lane.s0.st = .live ∧
        (t.wref w).lane.s0.pc = e.pc ∧ (t.wref w).lane.s0.mask = ~~~x.exited ∧ (t.wref w).lane.s0.cnt = 0) ∧
    (e.resume = true → ∃ t, exec (.runStart w) s = .next t ∧ (t.wref w).running = some e ∧ (t.wref w).queue = q ∧
      ∀ one, ((t.wref w).lane.slot one).st = (if (x.lane.slot one).st = .held then .live else (x.lane.slot one).st) ∧
        ((t.wref w).lane.slot one).pc = (x.lane.slot one).pc ∧ ((t.wref w).lane.slot one).mask = (x.lane.slot one).mask)) ∧
  (∀ (s : State) (w : WRef), Stands s w → (s.wref w).running.isSome = true → (s.wref w).lane.s0.st ≠ .live → (s.wref w).lane.s1.st ≠ .live →
    (s.wref w).recs = [] →
    let x := s.wref w
    ∃ t, exec (.runEnd w) s = .next t ∧ (t.wref w).running = none ∧ (t.wref w).queue = x.queue ∧ (t.wref w).haz = [] ∧
      (t.core w.site w.core).pipe (w.slot % 2) ≠ some w.slot ∧
      (x.lane.stack = [] → x.lane.s0.st = .held → x.lane.s0.mask = ~~~x.exited → x.lane.s1.st = .empty → (t.wref w).lane.s0 = Path.none) ∧
      (x.lane.stack ≠ [] → (t.wref w).lane = x.lane)) ∧
  (∀ (s : State) (site core dt : Nat), s.dieUp site = true → s.coreOn site core = true →
    let c := s.core site core
    ∃ t more, exec (.issueSelect site core dt) s = .next t ∧ (t.core site core).clk = c.clk + min dt (1024 * (c.win + 1) - c.clk) ∧
      t.turns = s.turns ++ more ∧ (s.hub.supply = true ∨ (s.die site).stop = true → more = []) ∧ t.mem = s.mem ∧
      ∀ x ∈ more, x.site = site ∧ x.core = core) ∧
  (∀ (s : State) (w : WRef),
    let x := s.wref w
    let lane := laneReady x && decide (x.readySince + 4096 ≤ (s.core w.site w.core).clk)
    let port := portReady x && decide (x.sSince + 4096 ≤ (s.core w.site w.core).clk)
    (lane || port) = true → ∃ t, exec (.starvationPromote w) s = .next t ∧
      t.wref w = { x with oldest := x.oldest || lane, sOldest := x.sOldest || port }) ∧
  (∀ (s : State) (site core slot first count clk : Nat) (rest : List (Nat × Nat × Nat × Nat)),
    let r : WRef := { site := site, core := core, slot := slot }
    let c := s.core site core
    c.rbWait = (slot, first, count, clk) :: rest → Stands s r → first + count ≤ 48 →
    (needed (s.wref r) first count ≤ poolFree c ∨ (c.loan = none ∧ needed (s.wref r) first count ≤ (freePlaces c.places).length)) →
    ∃ t, exec (.rbgetServe site core) s = .next t ∧ (t.core site core).rbWait = rest ∧ (t.wref r).pc = (s.wref r).pc + 1 ∧
      (t.wref r).park = .none ∧
      ∀ b, (t.wref r).pinned.getLsbD b = ((s.wref r).pinned.getLsbD b || (decide (first ≤ b) && decide (b < first + count)))) ∧
  (∀ (s : State) (id : Nat) (x : Team), FMap.find s.hub.teams id = some x → x.slots = [] → x.shSlots = [] →
    (x.st = .running → x.bound = none → ∃ t, exec (.teamEnd id) s = .next t ∧ FMap.find t.hub.teams id = none ∧
      (t.grid x.g).ran = if x.fatal = true then (s.grid x.g).ran else (s.grid x.g).ran + 1) ∧
    (∀ f draw, x.st = .running → x.bound = some (f, draw) → s.frameSt f ≠ 0 → (s.frame f).sites ≠ 0 → x.gone = false →
      ∃ t, exec (.teamEnd id) s = .next t ∧ t.team id = { x with st := .ended, marks := (s.frame f).sites, acked := 0 } ∧
        ∀ site < 48, (s.frame f).sites.getLsbD site = true → ∃ m ∈ t.prims, m.marker = true ∧ m.site = site ∧ m.team = id ∧
          m.prim.frame = f ∧ m.prim.key = teamKey draw x.t ∧ m.lost = false) ∧
    (∀ site, x.st = .ended → x.acked.getLsbD site = true → x.marks.getLsbD site = true →
      ∃ t, exec (.endOfTeamMarkerAck id site) s = .next t ∧
        let m := x.marks &&& ~~~((1 : BitVec 48) <<< site)
        (m = 0 → FMap.find t.hub.teams id = none) ∧ (m ≠ 0 → t.team id = { x with marks := m }))) ∧
  (∀ (s : State) (g st : Nat), (FMap.find s.hub.grids g).isSome = true → finalStatus s g = some st → fieldAt (s.grid g).pkt 0x30 8 = 0 →
    ((s.grid g).q = none → ∃ t, exec (.gridFinalStatus g) s = .next t ∧ FMap.find t.hub.grids g = none ∧ t.mem = s.mem) ∧
    (∀ q, (s.grid g).q = some q → (s.grid g).throt < 2 ^ 32 → cqFull s q = true →
      ∃ t e, exec (.gridFinalStatus g) s = .next t ∧ FMap.find t.hub.grids g = none ∧ (t.qint q).held = (s.qint q).held ++ [e] ∧
        e.toNat / 2 ^ 96 % 2 ^ 16 = st % 2 ^ 16)) ∧
  (∀ (s : State) (g : Nat), (FMap.find s.hub.grids g).isSome = true → (s.grid g).deadline ≠ 0 → (s.grid g).deadline ≤ s.time.toNat →
    (s.grid g).missed = false → (s.grid g).fault = false → (s.grid g).fallback = 0 →
    (((s.grid g).st = .waiting ∨ (s.grid g).st = .resolved) →
      ((s.grid g).checked = true → ∃ t, exec (.deadlineExpire g) s = .next t ∧
        t.grid g = { s.grid g with missed := true, st := .done, status := 2 }) ∧
      ((s.grid g).checked = false → packetBad (s.grid g) = true → ∃ t, exec (.deadlineExpire g) s = .next t ∧
        t.grid g = { s.grid g with st := .done, status := 4 })) ∧
    ((s.grid g).st = .running → s.hub.teams = [] → (∃ e ∈ (s.grid g).ranges, (unplaced (s.grid g) e.1).isSome = true) →
      ∃ t, exec (.deadlineExpire g) s = .next t ∧ t.grid g = { s.grid g with missed := true }))

/-- R179 to R202: a frame opens once its descriptor passes its checks and every owner die has its gate; an abort ends it; a gate
stages a packet whose turn has not come, holds it while it is full, discards it without a frame, and ends the frame for one
that comes too late; it acknowledges markers, closes with its tiles ready, and goes on after a partial render; the latch is
written once its time has come. What a marker out of range, or one of a frame that is over, does is the model's choice (log 20, R189),
and so are the order of the errors of an OPEN and the writes of a slot that is being opened (log 20, R180, R183); the lists of bin memory
are log 17's. -/
def Obligations.FramesOpenBinAndFinish : Prop :=
  (∀ (s : State) (f : Nat) (val : BitVec 64) (sec : Bool), f < 16 → getF val 2 0 = 1 → s.frameSt f = 0 → (s.frame f).opening = false →
    (∀ s2 fr err, checkFrame (s.setReg (frctlA f) (setF 0 47 8 (getF val 47 8))) (getF val 47 8 * 256) = (s2, some fr, err) →
      ∃ t, exec (.frameOpen f val sec) s = .next t ∧ t.frame f = fr ∧ t.frameSt f = 0 ∧ t.regF (frstatA f) 31 24 = 0xFF ∧
        t.regF (frstatA f) 4 4 = sec.toNat ∧ ∀ x, FMap.find (t.die x).gates f = none) ∧
    (∀ s2 err, checkFrame (s.setReg (frctlA f) (setF 0 47 8 (getF val 47 8))) (getF val 47 8 * 256) = (s2, none, err) →
      ∃ t, exec (.frameOpen f val sec) s = .next t ∧ t.regF (frstatA f) 23 16 = err % 256 ∧ t.regF (frstatA f) 31 24 = 48 ∧
        t.frame f = s2.frame f)) ∧
  (∀ (s : State) (f : Nat) (val : BitVec 64) (sec : Bool), f < 16 → getF val 2 0 = 2 → (s.frameSt f ≠ 0 ∨ (s.frame f).opening = true) →
    s.regF (frstatA f) 4 4 = sec.toNat →
    ∃ t, exec (.frameAbort ⟨f, val⟩ sec) s = .next t ∧ t.regF (frctlA f) 47 8 = getF val 47 8 ∧ t.frameSt f = 0 ∧ (t.frame f).opening = false ∧ t.regF (frstatA f) 23 16 = 5 ∧
      t.regF (frstatA f) 31 24 = 48 ∧ (∀ x, FMap.find (t.die x).gates f = none) ∧ ∀ m ∈ t.prims, m.prim.frame ≠ f) ∧
  (∀ (s : State) (site f : Nat), (s.frame f).opening = true → (s.frame f).sites.getLsbD site = true →
    (FMap.find (s.die site).gates f = none → ∃ t, exec (.frameOpenReceive site f) s = .next t ∧
      FMap.find (t.die site).gates f = some Gate.reset ∧ t.hub = s.hub) ∧
    ((FMap.find (s.die site).gates f).isSome = true →
      let acks := (s.frame f).acks ||| (1 : BitVec 48) <<< site
      ∃ t, exec (.frameOpenAck site f) s = .next t ∧ (t.frame f).acks = acks ∧
        (acks = (s.frame f).sites → t.frameSt f = 1 ∧ (t.frame f).opening = false) ∧
        (acks ≠ (s.frame f).sites → t.frameSt f = s.frameSt f ∧ (t.frame f).opening = true))) ∧
  (∀ (s : State) (site f i : Nat) (m : PrimMsg),
    (s.prims.filter fun x => x.site == site && x.prim.frame == f && !x.lost && !x.marker)[i]? = some m →
    let g := s.gate site f
    let d := m.prim.key.toNat / 2 ^ 32
    let n := m.prim.key.toNat / 2 ^ 12 % 2 ^ 20
    (¬ Arrived s m → exec (.gatePrimReceive site f i) s = .next s) ∧
    (Arrived s m →
      (s.frameSt f = 0 → ∃ t, exec (.gatePrimReceive site f i) s = .next t ∧ t.prims = s.prims.erase m ∧ t.dies = s.dies) ∧
      (s.frameSt f ≠ 0 → (FMap.find (s.die site).gates f).isSome = true →
        (g.full = true → exec (.gatePrimReceive site f i) s = .next s) ∧
        (f < 16 → site < 256 → g.full = false →
          ((s.frame f).ndraws ≤ d ∨ g.closed = true ∨ d < g.d ∨ (d = g.d ∧ n < g.t) ∨ (drawTeams s site f d).2 ≤ n) →
          ∃ t, exec (.gatePrimReceive site f i) s = .next t ∧ t.frameSt f = 0 ∧ t.regF (frstatA f) 23 16 = 3 ∧ t.regF (frstatA f) 31 24 = site) ∧
        (∀ s1 s2 u1 u2 g1 obj teams teams2, s.frameSt f = 1 → g.full = false → g.closed = false → g.work = [] → g.marks = [] →
          d < (s.frame f).ndraws → (g.d < d ∨ (d = g.d ∧ g.t ≤ n)) → g.d < (s.frame f).ndraws →
          drawTeams s site f d = (s1, teams) → n < teams →
          let held := g.staged.filter fun p => p.key.toNat / 2 ^ 12 == m.prim.key.toNat / 2 ^ 12
          g.room (s.frame f).pool held.length = true →
          binPut (primTaken s1 m) site f (s.frame f) (s1.gate site f) (stageList m.prim) held.length m.prim = (s2, g1) →
          curDraw (s2.setGate site f { g1 with staged := g1.staged ++ [m.prim] }) site f = (u1, obj, teams2) → g.t < teams2 →
          readPa u1 (gateWho s site f) obj 2 1 = (u2, some 0) →
          ∃ t, exec (.gatePrimReceive site f i) s = .next t ∧ (t.gate site f).staged = g.staged ++ [m.prim] ∧ (t.gate site f).d = g.d ∧
            (t.gate site f).t = g.t ∧ (t.gate site f).bins = g.bins ∧ t.prims = s.prims.erase m)))) ∧
  (∀ (s : State) (site f draw team : Nat) (m : PrimMsg) (tm : Team), FMap.find s.hub.teams m.team = some tm → site < 48 →
    (s.prims.filter fun x => x.marker && x.site == site && x.prim.frame == f && !x.lost && x.prim.key == teamKey draw team) = [m] →
    (¬ Arrived s m → exec (.gateMarkerReceive site f draw team) s = .next s) ∧
    (Arrived s m →
      (s.frameSt f = 0 → ∃ t, exec (.gateMarkerReceive site f draw team) s = .next t ∧ t.prims = s.prims.erase m ∧ t.dies = s.dies ∧
        t.team m.team = { tm with acked := tm.acked ||| (1 : BitVec 48) <<< site }) ∧
      (s.frameSt f ≠ 0 → (FMap.find (s.die site).gates f).isSome = true →
        ((s.gate site f).full = true → exec (.gateMarkerReceive site f draw team) s = .next s) ∧
        ((s.gate site f).full = false → ∃ t, exec (.gateMarkerReceive site f draw team) s = .next t ∧
          (t.team m.team).acked.getLsbD site = true ∧ (t.team m.team).marks = tm.marks ∧
          (f < 16 → (s.frame f).ndraws ≤ draw ∨ (drawTeams s site f draw).2 ≤ team →
            t.frameSt f = 0 ∧ t.regF (frstatA f) 23 16 = 3 ∧ t.regF (frstatA f) 31 24 = site))))) ∧
  (∀ (s : State) (site f : Nat), s.frameSt f = 1 → f < 16 → (FMap.find (s.die site).gates f).isSome = true → (s.gate site f).closed = false →
    (s.gate site f).work = [] → (s.frame f).ndraws ≤ (s.gate site f).d →
    let closed := (s.frame f).closed ||| (1 : BitVec 48) <<< site
    let done (t : State) : Prop := (t.gate site f).closed = true ∧
      (∀ i < (s.frame f).tiles, ((s.frame f).owner i).1 = site → (t.gate site f).tile i = .ready) ∧ (t.frame f).closed = closed ∧
      t.frameSt f = if closed &&& (s.frame f).sites = (s.frame f).sites then 2 else 1
    ((s.gate site f).full = false → ∃ t, exec (.gateObjectCheck site f) s = .next t ∧ done t) ∧
    ((s.gate site f).full = true → (s.gate site f).part = [] → ∃ t, exec (.partialRenderDone site f) s = .next t ∧ done t ∧
      (t.gate site f).bins = [] ∧ t.regF (frstatA f) 63 49 = min (s.regF (frstatA f) 63 49 + 1) 32767)) ∧
  (∀ (s : State) (f : Nat), f < 16 → s.frameSt f = 3 → (s.frame f).rel ≤ s.time.toNat →
    ∃ t, exec (.frameLatchWrite f) s = .next t ∧ t.frameSt f = 0 ∧ (∀ x, FMap.find (t.die x).gates f = none) ∧
      let pa := fieldAt (s.frame f).desc 0x38 8
      (∀ home, region pa = .hbm home → pa % 32 = 0 → siteSt s 48 home = stOk → portSt s pa true = stOk →
        LineWhole s (lineOf pa) →
        readBytes t.mem pa 8 = 1 ∧ readBytes t.mem (pa + 8) 8 = (s.frame f).tiles % 2 ^ 64))

/-- R247, R248, R260 to R268, R279, R280, R301, R307, R316, R349, R498 to R504: translations are invalidated, the accesses that used
one and are not performed are noted, and the command reads done once they are; a fault queue is enabled, and its records are replayed or killed; operand queues take rows from software and from
feeders; a promotion request promotes up to the newest entry of its line; watches and their limits wake their warps; engines
complete; the SSCB compares; and the watchdog traps a warp that waits too long. Which accesses an invalidation waits for (log 5), what
enabling a fault queue sets (log 18), and how pairs compare and a watch wakes its warp (log 15) are readings of the model. -/
def Obligations.TranslationFaultsAndWaits : Prop :=
  (∀ (s : State) (val : BitVec 64) (sec : Bool), (val.getLsbD 61 = true → sec = true) → s.regF tlbistatA 0 0 = 0 →
    let r := getF val 47 15 * 2 ^ 15
    let va := (s.reg tlbivaA).toNat % 2 ^ 55
    let owes (t : State) (root : Option Nat) : Prop := ∀ (w : WRef) (o : AsyncOp), w.core < 64 → w.slot < 64 → o ∈ (s.wref w).ops →
      o.unwritten = true → o.res ≠ [] → (s.gridOf (s.wref w)).sec = val.getLsbD 61 → (∀ x, root = some x → x = (s.gridOf (s.wref w)).root) →
      (w, o.tag) ∈ t.hub.inval
    (getF val 63 62 = 1 → ∃ t, exec (.tlbiAll val sec) s = .next t ∧ t.regF tlbistatA 0 0 = 1 ∧ owes t none ∧
      ∀ a b, ∀ x ∈ (t.core a b).tlb, x.sec ≠ val.getLsbD 61) ∧
    (getF val 63 62 = 2 → ∃ t, exec (.tlbiRoot val sec) s = .next t ∧ t.regF tlbistatA 0 0 = 1 ∧ owes t (some r) ∧
      ∀ a b, ∀ x ∈ (t.core a b).tlb, x.sec = val.getLsbD 61 → x.root ≠ r) ∧
    (getF val 63 62 = 3 → ∃ t, exec (.tlbiPage val sec) s = .next t ∧ t.regF tlbistatA 0 0 = 1 ∧
      ∀ a b, ∀ x ∈ (t.core a b).tlb, x.sec = val.getLsbD 61 → x.root = r → x.vpage ≠ if x.big then va / 2 ^ 31 else va / 2 ^ 19)) ∧
  (∀ (s : State) (val : BitVec 64) (sec : Bool) (i : Instr),
    (getF val 63 62 = 1 ∧ i = .tlbiAll val sec ∨ getF val 63 62 = 2 ∧ i = .tlbiRoot val sec ∨ getF val 63 62 = 3 ∧ i = .tlbiPage val sec) →
    (val.getLsbD 61 = true → sec = false → ∃ t, exec i s = .next t ∧ HostRefused s t tlbicmdA) ∧
    ((val.getLsbD 61 = true → sec = true) → s.regF tlbistatA 0 0 = 1 → ∃ t, exec i s = .next t ∧ OnlyRegisters s t ∧
      OtherRegisters s t [tlbistatA] ∧ t.regF tlbistatA 0 0 = 1 ∧ t.regF tlbistatA 15 8 = 2)) ∧
  (∀ s : State, s.regF tlbistatA 0 0 = 1 →
    (s.hub.inval.any (stillOwed s) = true → exec .tlbiDone s = .next s) ∧
    (s.hub.inval.any (stillOwed s) = false → ∃ t, exec .tlbiDone s = .next t ∧
      t = { s with regs := t.regs, hub := { s.hub with inval := [] } } ∧ OtherRegisters s t [tlbistatA] ∧
      t.regF tlbistatA 0 0 = 0 ∧ t.regF tlbistatA 15 8 = 1)) ∧
  (∀ (s : State) (site world : Nat) (val : BitVec 64) (sec : Bool), world < 2 → (world = 1 → sec = true) → val.getLsbD 0 = true →
    (s.reg (fqbaseA site world)).getLsbD 0 = false →
    ∃ t, exec (.fqbaseEnable site world val sec) s = .next t ∧ t.regF (fqbaseA site world) 47 17 = getF val 47 17 ∧
      (t.reg (fqbaseA site world)).getLsbD 0 = true ∧ t.reg (fqheadA site world) = 0 ∧ t.reg (fqtailA site world) = 0) ∧
  (∀ (s : State) (site world : Nat) (val : BitVec 64) (sec : Bool) (f : FRec) (r : WRef) (lanes : Word) (va : DWord) (lane : Option Bool),
    world < 2 → (world = 1 → sec = true) → ((s.die site).fq world).recs = [f] → f.seq = getF val 31 0 → f.waiters = [r] →
    (s.wref r).park = .fault [(f.seq, lanes, va)] false lane → (s.wref r).shadow = false →
    (getF val 63 62 = 1 → ∃ t, exec (.fqcmdReplay site world val sec) s = .next t ∧ (t.wref r).park = .none ∧
      (t.wref r).pc = (s.wref r).pc ∧ ((t.die site).fq world).recs = []) ∧
    (getF val 63 62 = 2 → Stands s r → (s.wref r).hflag = false → (s.team (s.wref r).team).trapvec ≠ 0 →
      ∃ t, exec (.fqcmdKill site world val sec) s = .next t ∧ (t.wref r).park = .none ∧ (t.wref r).hflag = true ∧
        (t.wref r).pc = BitVec.ofNat 32 (s.team (s.wref r).team).trapvec ∧ (t.wref r).tcause.toNat % 128 = 4 ∧ (t.wref r).taddr = va ∧
        (t.wref r).tfmask = lanes ∧ ((t.die site).fq world).recs = [])) ∧
  (∀ (s u v : State) (site world : Nat) (x : Stall) (l : List Stall) (lane : Option Bool) (p : Option Walked), world < 2 →
    ((s.die site).fq world).stalled = x :: l → canRecord s site world = true → x.kd = none → (s.wref x.who).park = .fault [] true lane →
    (∀ y ∈ l, y.who ≠ x.who) →
    findPage (s.setDie site ((s.die site).setFq world { (s.die site).fq world with stalled := l })) site (some x.who.core) x.root (world == 1) x.va =
      (u, p) →
    ((∀ reason level, p ≠ some (.fault reason level)) →
      ∃ t, exec (.faultStallRetry site world) s = .next t ∧ (t.wref x.who).park = .none ∧ ((t.die site).fq world).stalled = l) ∧
    (∀ reason level n, p = some (.fault reason level) →
      reportFault u site (world == 1) x.va x.root reason level x.flags x.who.core x.who x.lanes = (v, some n) →
      ∃ t, exec (.faultStallRetry site world) s = .next t ∧
        (t.wref x.who).park = .fault [(n, x.lanes, BitVec.ofNat 64 x.va)] false lane)) ∧
  (∀ (s u : State) (site world gid : Nat) (x : Stall) (l : List Stall) (y : KdWait) (p : Option Walked), world < 2 →
    ((s.die site).fq world).stalled = x :: l → canRecord s site world = true → x.kd = some gid → (s.die site).kdWait = [y] → y.g = gid →
    y.seq = 0 → findPage (s.setDie site ((s.die site).setFq world { (s.die site).fq world with stalled := l })) site none x.root (world == 1) x.va =
      (u, p) → (∀ reason level, p ≠ some (.fault reason level)) →
    ∃ t, exec (.faultStallRetry site world) s = .next t ∧ (t.die site).kdWait = [] ∧ ((t.die site).fq world).stalled = l) ∧
  (∀ (s : State) (site core k : Nat) (val : BitVec 64), s.dieUp site = true → s.coreOn site core = true → k < 8 →
    let q := FMap.get OpQueue.none (s.core site core).queues k
    (getF val 8 8 = 0 → q.count + getF val 7 0 ≤ 128 → ∃ t, exec (.qctlWrite site core k val) s = .next t ∧
      FMap.get OpQueue.none (t.core site core).queues k =
        { q with left := q.left + getF val 7 0, left2 := q.left2 + getF val 7 0, tail := (q.tail + getF val 7 0) % 128 }) ∧
    (getF val 8 8 = 0 → 128 < q.count + getF val 7 0 → ∃ t, exec (.qctlWrite site core k val) s = .next t ∧
      FMap.get OpQueue.none (t.core site core).queues k = { q with err := true }) ∧
    (∃ t, exec (.qstatClear site core k val) s = .next t ∧
      FMap.get OpQueue.none (t.core site core).queues k = { q with err := q.err && !val.getLsbD 32 })) ∧
  (∀ (s : State) (site core line : Nat) (e : PlogEnt) (pre post : List PlogEnt), s.dieUp site = true → s.coreOn site core = true →
    (s.core site core).plog = pre ++ e :: post → e.line = some line → (∀ x ∈ post, x.line ≠ some line) →
    ∃ t, exec (.promotionRequest site core line) s = .next t ∧ (t.core site core).plog = post ∧
      (t.core site core).asked = min ((s.core site core).asked + 1) 65535) ∧
  (∀ (s : State) (w : WRef) (x : Watch) (d : BitVec 6) (left : Option Nat), Stands s w → (s.wref w).watch = some x →
    (s.wref w).park = .smwait d left →
    (x.fired = true → ∃ t, exec (.watchFire w) s = .next t ∧ (t.wref w).rd d = 0 ∧ (t.wref w).pc = (s.wref w).pc + 1 ∧
      (t.wref w).park = .none ∧ (t.wref w).watch = none ∧ t.mem = s.mem) ∧
    (∀ limit, left = some limit → x.fired = false → (s.wref w).parkAt + limit ≤ (s.core w.site w.core).clk + (s.wref w).parkPast →
      ∃ t, exec (.smwaitTimeout w) s = .next t ∧ (t.wref w).rd d = (if d = 63 then 0 else 1) ∧ (t.wref w).pc = (s.wref w).pc + 1 ∧
        (t.wref w).park = .none ∧ (t.wref w).watch = none ∧ t.mem = s.mem)) ∧
  (∀ (s s1 : State) (site core k row : Nat) (e : EngOp), feedFor (s.core site core) k = some e → e.held = false →
    (FMap.get OpQueue.none (s.core site core).queues k).count < 128 →
    seqRoom s site core false (2 * feedPerRow e.desc.toNat e.fb) = true →
    feedRow (if e.pos = 0 then acquireAct s site core e.scope else s) e (feedSize e.desc.toNat e.fb) (feedPerRow e.desc.toNat e.fb) (e.pos * feedPerRow e.desc.toNat e.fb) = (s1, row, none) →
    let q := FMap.get OpQueue.none (s1.core site core).queues k
    ∃ t, exec (.feedRowAppend site core k) s = .next t ∧ FMap.get OpQueue.none (t.core site core).queues k =
      { q with tail := (q.tail + 1) % 128, left := q.left + 1, left2 := q.left2 + 1 }) ∧
  (∀ (s s1 : State) (e : EngOp) (x : EngEnd), (s.core e.w.site e.w.core).feeds = [] → (s.die e.w.site).copies = [e] → e.held = false →
    engObject e = 0 → (∀ o ∈ (s.wref e.w).ops, o.tag = e.tag → o.engine = true ∧ o.held = false) →
    let d := e.desc.toNat
    let src := descField d 0 8
    let dst := descField d 8 8
    let len := descField d 0x10 8
    (e.kind = .copy ∧ copyChunks s (dieWho e.w.site (engCode e) e.sec) e.root src dst len (copyPiece src dst len) (len / 4096 + 2) e.pos = (s1, x) ∨
      e.kind = .nbr ∧ performNbr s (dieWho e.w.site (engCode e) e.sec) e = (s1, x, false)) → x.fail = none →
    ∃ t, exec (.engineComplete e.w e.tag) s = .next t ∧ t.mem = s1.mem ∧ (t.die e.w.site).copies = []) ∧
  (∀ (s : State) (w ld : WRef) (e : SscbEnt) (g : BitVec 64), (s.wref w).mate = some ld → (s.wref w).shadow = true →
    (s.wref w).sscb = [e] → e.lane = false → e.matched = false → e.ready = true → (s.wref w).sigs = [(false, some g)] → e.sig = g →
    warpKey w.site w.core w.slot ≠ warpKey ld.site ld.core ld.slot →
    (e.path = 4 → ∃ t, exec (.sscbCompare w) s = .next t ∧ (t.wref w).sscb = [{ e with matched := true }] ∧ (t.wref w).sigs = [] ∧
      t.wref ld = s.wref ld) ∧
    (∀ o, e.path ≠ 4 → (s.wref ld).ops = [o] → o.tag = e.tag → o.held = true → o.engine = false →
      seqRoom s ld.site ld.core (o.op == 2 || decide (16 ≤ o.op)) 32 = true → (∀ x ∈ o.res, peerHeld s ld.site ld.core x.tr = false) →
      ∃ t x, exec (.sscbCompare w) s = .next t ∧ (t.wref w).sscb = [] ∧ (t.wref w).sigs = [] ∧ (t.wref ld).ops = [x] ∧ x.tag = o.tag ∧
        x.held = false)) ∧
  (∀ (s : State) (w : WRef), Stands s w → (s.wref w).hflag = false → (s.team (s.wref w).team).trapvec ≠ 0 →
    let limit := s.regF (ctlAddr w.site w.core 0x30) 15 0 * 65536
    limit ≠ 0 → (s.wref w).parkAt + limit < (s.core w.site w.core).clk + (s.wref w).parkPast →
    (∀ waits stalled lane, (s.wref w).park ≠ .fault waits stalled lane) → (s.wref w).park ≠ .none →
    ∃ t, exec (.watchdogExpire w) s = .next t ∧ (t.wref w).pc = BitVec.ofNat 32 (s.team (s.wref w).team).trapvec ∧
      (t.wref w).hflag = true ∧ (t.wref w).park = .none ∧ (t.wref w).tcause.toNat % 128 = 12 ∧ t.mem = s.mem)

/-- R350 to R356: a pre-emption command names running teams and reads busy until they are saved; a resume returns held teams to their
die; and a die restores a team whose save area it can read on a core that fits it. PESTAT.COUNT at a command's start and end, and that a
save area which cannot be read leaves its team off, are readings of the model (log 17). -/
def Obligations.TeamsAreSavedAndRestored : Prop :=
  (∀ (s : State) (val : BitVec 64) (sec : Bool),
    let named := peNamed s val
    (getF val 63 62 = 1 ∨ getF val 63 62 = 2) →
    let i : Instr := if getF val 63 62 = 1 then .preempt val sec else .resume val sec
    (s.regF pestatA 0 0 = 1 → ∃ t, exec i s = .next t ∧ OnlyRegisters s t ∧ OtherRegisters s t [pestatA] ∧ t.regF pestatA 15 8 = 3) ∧
    (s.regF pestatA 0 0 = 0 → named = [] → ∃ t, exec i s = .next t ∧ OnlyRegisters s t ∧ t.regF pestatA 15 8 = 2 ∧ t.regF pestatA 47 32 = 0) ∧
    (s.regF pestatA 0 0 = 0 → named ≠ [] → (∀ n ∈ named, (s.grid n.1).sec = true → sec = true) →
      (getF val 63 62 = 1 →
        let ids := peTeams s named fun t => t.st == .running
        ∃ t, exec i s = .next t ∧ t.hub.pe = some { teams := ids } ∧ t.regF pestatA 0 0 = 1 ∧ t.regF pestatA 47 32 = ids.length % 2 ^ 16 ∧
          ∀ id ∈ ids, (t.team id).hold = val.getLsbD 60) ∧
      (getF val 63 62 = 2 → getF val 11 6 = 63 →
        let ids := peTeams s named fun t => t.st == .saved && t.hold
        ∃ t, exec i s = .next t ∧ t.regF pestatA 15 8 = (if ids = [] then 5 else 1) ∧ t.regF pestatA 47 32 = ids.length % 2 ^ 16 ∧
          ∀ id ∈ ids, (t.team id).st = .returning ∧ (t.team id).hold = false))) ∧
  (∀ (s : State) (id : Nat), s.hub.pe = some { teams := [id] } → (FMap.find s.hub.teams id).isSome = true → (s.team id).st = .running →
    teamWarps s (s.team id) ≠ [] → (∀ r ∈ teamWarps s (s.team id), atRest s r = true) →
    ∃ t, exec .preemptComplete s = .next t ∧ t.hub.pe = none ∧ t.regF pestatA 0 0 = 0 ∧ t.regF pestatA 15 8 = 1 ∧ t.regF pestatA 47 32 = 1 ∧
      (t.team id).st = (if (s.team id).hold = true then .saved else .returning) ∧ (t.team id).slots = [] ∧ (t.team id).shSlots = []) ∧
  (∀ (s s0 : State) (site g id c first data : Nat), s.dieUp site = true → dispatchOrder s site = [g] → returnee s site g = some id →
    returnCore s site id = some (c, first) → (s.team id).site = site →
    let tm := s.team id
    let x := s.grid tm.g
    vmLoads s (dieWho site 48 x.sec) x.root (x.ctx tm.t + 4096 + x.wc * 200704) 32 (32 * tm.ngran) = (s0, .ok data) →
    (∀ w ∈ tm.kept, ∃ v, (vmLoads s0 (dieWho site 52 x.sec) x.root (imageVa x tm w.wid w.shadow) 32 128).2 = .ok v) →
    ∃ t, exec (.teamRestore site) s = .next t ∧ (t.team id).st = .running ∧ (t.team id).core = c ∧ (t.team id).gran = first + 1 ∧
      (t.team id).kept = [])

/-- R379 to R391, R394: every well-formed instruction of a stream is read back from its own bytes, with every operand at every value
it may have, 4 bytes for a scalar word and 12 for a lane word; and bytes that decode to an instruction are the bytes that encode
it, but for RACQ.ALL.device, whose field b is not read (R424). -/
def Obligations.DecodeInvertsEncode : Prop :=
  (∀ i : Instr, wellFormed i = true → (instrBytes i = 4 ∨ instrBytes i = 12) →
    decode (encode i) = .ok i ∧ (encode i).length = instrBytes i) ∧
  (∀ (bs : List Byte) (i : Instr), decode bs = .ok i → (∀ a, i ≠ .racqAllDevice a) → encode i = bs)

/-- R392, R393, R394: words written out from the formats and the opcode tables, of several scalar formats and lane classes, decode to
the instructions they stand for. -/
def Obligations.WordsDecodeAsWritten : Prop :=
  let h : Hdr := { s := false, pred := 7 }
  let hs : Hdr := { s := true, pred := 7 }
  decodeScalar 0x085FC064 = .ok (.saddi 5 63 100) ∧ decodeScalar 0x24541800 = .ok (.slui 5 0x41800) ∧
  decodeScalar 0x5087FFFE = .ok (.loop 2 7 0xFFFE) ∧ decodeScalar 0x60000000 = .ok (.vrun 0) ∧
  decodeScalar 0x68600000 = .ok (.syncl 6) ∧ decodeScalar 0x98048800 = .ok (.racq 18 8) ∧
  decodeScalar 0xC0800021 = .ok (.sread 8 0x21) ∧ decodeScalar 0xC4020021 = .ok (.swrite 8 0x21) ∧
  decodeScalar 0xB4028804 = .ok (.feed 10 8 4) ∧ decodeScalar 0xE0000042 = .ok (.trap 0x42) ∧ decodeScalar 0xE8000000 = .ok .exit ∧
  decodeLane 0x000E000C2264500000000000 = .ok (.iadd h { d := 0, a := 0x1844, b := 0x1914, c := 0, m := 0 }) ∧
  decodeLane 0x208E00800264500000000000 = .ok (.fmul h { d := 8, a := 4, b := 0x1914, c := 0, m := 0 }) ∧
  decodeLane 0x500E004C2200000000008000 = .ok (.cvt h { d := 4, a := 0x1844, b := 0, c := 0, m := 0x8000 }) ∧
  decodeLane 0x066E0040001FC00000000000 = .ok (.movi hs { d := 4, a := 0, imm := 0x3F800000, m := 0 }) ∧
  decodeLane 0x802E01000480000000000002 = .ok (.ld hs { d := 16, a := 9, b := 0, off := 0, m := 2 }) ∧
  decodeLane 0xA24E00000000000000000000 = .ok (.nop h { d := 0, a := 0, b := 0, c := 0, m := 0 }) ∧
  decodeScalar 0 = .err .zeroWord ∧ decodeLane 0 = .err .zeroWord

/-- R226, R236, R392 to R394: one step runs the instruction that its turn fetched, where the words decode to a legal one: what the instruction
leaves is what the step leaves, with the team counted as started and a scalar port used (R166, R169) where it has issued, and its
warp not ready for the port where it must wait (R168).
R392, R393: a fetched word that is no legal instruction traps with cause ILLEGAL at its PC, its words in the handler registers, and at
the 24th place of a path's count without the S bit as an illegal run. Of two LIVE slots the one that issued last goes second.
The events of the model's agenda run as steps of their own (log 1): that clause is the model's choice. -/
def Obligations.StepRunsTheDecodedInstruction : Prop :=
  (∀ (s s1 : State) (t : Turn) (l : List Turn) (v : Nat), s.trust.bootFail = false → s.agenda = [] → s.turns = t :: l →
    let u := { s with turns := l, cur := t }
    let runs (x : State) : Prop :=
      (hasIssued s1 x (.word v) = true → (fatalIn u x = true → ∀ y ∈ l, ({ u with cur := y } : State).curW.team ≠ u.curW.team) →
        step s = .next (issued u x)) ∧
      (hasIssued s1 x (.word v) = false → step s = .next (notReady u x))
    outOfTurn u = false → turnOpen u = true → trapDue u = none → u.pairReady = true → fetch u = (s1, .word v) →
    (t.lane = none → u.curCore.ports ≠ 0) →
    (∀ (i : Instr) (x : State), t.lane = none → decodeScalar (BitVec.ofNat 32 v) = .ok i → wellFormed i = true → exec i s1 = .next x →
      runs x) ∧
    (∀ (i : Instr) (one : Bool) (x : State), t.lane = some one → decodeLane (BitVec.ofNat 96 v) = .ok i → wellFormed i = true →
      ((s1.curW.lane.slot one).cnt ≠ 23 ∨ (BitVec.ofNat 96 v).getLsbD 85 = true) → exec i s1 = .next x → runs x) ∧
    (t.lane = none → s1.role = .alone → (∀ i, decodeScalar (BitVec.ofNat 32 v) = .ok i → wellFormed i = false) →
      runs (trapAt s1 s1.curRef (scalarTrap 1 0 0 [BitVec.ofNat 32 v]))) ∧
    (∀ one : Bool, t.lane = some one → s1.role = .alone →
      ((s1.curW.lane.slot one).cnt = 23 → (BitVec.ofNat 96 v).getLsbD 85 = false →
        runs (trapAt s1 s1.curRef { scalarTrap 2 0 0 [] with lane := true, slot1 := one })) ∧
      ((s1.curW.lane.slot one).cnt ≠ 23 → (∀ i, decodeLane (BitVec.ofNat 96 v) = .ok i → wellFormed i = false) →
        runs (trapAt s1 s1.curRef { scalarTrap 1 0 0 (word3 (BitVec.ofNat 96 v)) with lane := true, slot1 := one })))) ∧
  (∀ (s u x : State) (t : Turn) (l : List Turn) (one : Bool), s.trust.bootFail = false → s.agenda = [] → s.turns = t :: l → t.lane = some one →
    u = { s with turns := l, cur := t } → u.curW.lane.s0.st = .live → u.curW.lane.s1.st = .live → u.curW.lastOne = one →
    issueOne { u with cur := { t with lane := some !one } } = .next x →
    (x.curW ≠ u.curW → step s = .next x) ∧ (x.curW = u.curW → step s = issueOne { x with cur := t })) ∧
  (∀ (s : State) (i : Instr) (l : List Instr), s.trust.bootFail = false → s.agenda = i :: l → instrBytes i = 0 → wellFormed i = true →
    step s = exec i { s with agenda := l })

/-- Memory has one form (log 3): every step, of an instruction, of an event or of the part itself, keeps the bytes of package, host and
peer memory in canonical form, addresses rising and no listed byte zero. The form is the model's choice. -/
def Obligations.StepsKeepMemoryCanonical : Prop :=
  ∀ s t : State, s.Canonical → step s = .next t → t.Canonical

/-- R10, R30, R38, R55, R60, R75, R77, R102, R121, R136, R179: after package reset no memory byte is listed, every site is OFF with the
logical number 0xFFFF and no core or slice enabled, every line has its 64 tokens at home with the owner token, the boot has not begun, and the
registers with a reset value in their tables hold it. That no byte is listed is the model's choice of what memory holds (log 3). -/
def Obligations.ResetHoldsTheResetValues : Prop :=
  State.reset.Canonical ∧ State.reset.mem = [] ∧ State.reset.phase = 0 ∧ State.reset.trust.bootFail = false ∧ State.reset.time = 0 ∧
  (∀ site : Nat, site < 48 → State.reset.logical site = 0xFFFF ∧ State.reset.dieSt site = 0 ∧ State.reset.reg (dcoreA site) = 0 ∧
    State.reset.reg (dsliceA site) = 0) ∧
  (∀ n : Nat, n < 64 → State.reset.reg (nbrA n) = BitVec.allOnes 64) ∧
  (∀ line : Nat, tokOf State.reset line = { serial := 0, home := 64, homeOwner := true, dies := [], set := 0, sec := false }) ∧
  State.reset.reg pkgpwrA = 0x55F0 ∧ State.reset.regF rtstatA 47 40 = 0xFF ∧ State.reset.regF bootstatA 23 16 = 0xFF ∧
  State.reset.reg worldcfgA = 0x3FF ∧ State.reset.regF evtcfgA 47 32 = 0xFFFF ∧ State.reset.reg evtstatA = 0
end

