-- ==== Sys2Proof/Laws/Memory.lean ====
section
/-! SUPPORT. What the sparse maps and the memory operations do: a read after a write, every other place left alone, and the
canonical form kept. -/
namespace Sys2Proof

@[simp] theorem FMap.get_nil {α : Type} (d : α) (a : Nat) : FMap.get d [] a = d := rfl
@[simp] theorem FMap.find_nil {α : Type} (a : Nat) : FMap.find ([] : FMap α) a = none := rfl

/-- A map that has been set at `a` reads the new value there and the old one elsewhere. -/
@[simp] theorem FMap.get_set {α : Type} (d : α) (m : FMap α) (a : Nat) (x : α) (b : Nat) :
    FMap.get d (FMap.set m a x) b = if b = a then x else FMap.get d m b := by
  induction m with
  | nil => simp [FMap.set, FMap.get]
  | cons e m ih =>
    obtain ⟨k, v⟩ := e
    simp only [FMap.set]
    split
    · simp [FMap.get]
    · split
      · rename_i h; subst h; by_cases hb : b = a <;> simp [FMap.get, hb]
      · rename_i h; simp only [FMap.get, ih]
        by_cases hk : b = k
        · subst hk; simp [Ne.symm h]
        · simp [hk]

@[simp] theorem FMap.find_set {α : Type} (m : FMap α) (a : Nat) (x : α) (b : Nat) :
    FMap.find (FMap.set m a x) b = if b = a then some x else FMap.find m b := by
  induction m with
  | nil => simp [FMap.set, FMap.find]
  | cons e m ih =>
    obtain ⟨k, v⟩ := e
    simp only [FMap.set]
    split
    · simp [FMap.find]
    · split
      · rename_i h; subst h; by_cases hb : b = a <;> simp [FMap.find, hb]
      · rename_i h; simp only [FMap.find, ih]
        by_cases hk : b = k
        · subst hk; simp [Ne.symm h]
        · simp [hk]

@[simp] theorem FMap.get_del {α : Type} (d : α) (m : FMap α) (a b : Nat) :
    FMap.get d (FMap.del m a) b = if b = a then d else FMap.get d m b := by
  induction m with
  | nil => simp [FMap.del, FMap.get]
  | cons e m ih =>
    obtain ⟨k, v⟩ := e
    simp only [FMap.del]
    split
    · rename_i h; subst h; by_cases hb : b = a
      · subst hb; simpa using ih
      · simp [FMap.get, ih, hb]
    · rename_i h; simp only [FMap.get, ih]
      by_cases hk : b = k
      · subst hk; simp [Ne.symm h]
      · simp [hk]

@[simp] theorem FMap.find_del {α : Type} (m : FMap α) (a b : Nat) :
    FMap.find (FMap.del m a) b = if b = a then none else FMap.find m b := by
  induction m with
  | nil => simp [FMap.del, FMap.find]
  | cons e m ih =>
    obtain ⟨k, v⟩ := e
    simp only [FMap.del]
    split
    · rename_i h; subst h; by_cases hb : b = a
      · subst hb; simpa using ih
      · simp [FMap.find, ih, hb]
    · rename_i h; simp only [FMap.find, ih]
      by_cases hk : b = k
      · subst hk; simp [Ne.symm h]
      · simp [hk]

/-- Setting a key twice is setting it once. -/
@[simp] theorem FMap.set_set {α : Type} (m : FMap α) (a : Nat) (x y : α) : FMap.set (FMap.set m a x) a y = FMap.set m a y := by
  induction m with
  | nil => simp [FMap.set]
  | cons e m ih =>
    obtain ⟨k, v⟩ := e
    simp only [FMap.set]
    by_cases h : a < k
    · simp [h, FMap.set]
    · by_cases h2 : a = k
      · simp [h2, FMap.set]
      · simp [h, h2, FMap.set, ih]

@[simp] theorem FMap.get_put {α : Type} [DecidableEq α] (d : α) (m : FMap α) (a : Nat) (x : α) (b : Nat) :
    FMap.get d (FMap.put d m a x) b = if b = a then x else FMap.get d m b := by
  unfold FMap.put; split
  · rename_i h; simp [h]
  · simp

theorem FMap.get_of_find {α : Type} (d : α) (m : FMap α) (a : Nat) :
    FMap.get d m a = match FMap.find m a with | some x => x | none => d := by
  induction m with
  | nil => rfl
  | cons e m ih => obtain ⟨k, v⟩ := e; simp only [FMap.get, FMap.find]; split <;> simp_all

/-! The keys of a map keep rising. -/

theorem FMap.above_mono {α : Type} {a b : Nat} (h : a ≤ b) (m : FMap α) (hm : FMap.above b m = true) : FMap.above a m = true := by
  cases m with
  | nil => rfl
  | cons e m => obtain ⟨k, v⟩ := e; simp only [FMap.above, Bool.and_eq_true, decide_eq_true_eq] at *; exact ⟨by omega, hm.2⟩

theorem FMap.wf_of_above {α : Type} {b : Nat} {m : FMap α} (h : FMap.above b m = true) : FMap.wf m = true := by
  cases m with
  | nil => rfl
  | cons e m => obtain ⟨k, v⟩ := e; simp only [FMap.above, Bool.and_eq_true] at h; exact h.2

theorem FMap.above_set {α : Type} {b : Nat} {m : FMap α} {a : Nat} {x : α} (hb : b < a) (h : FMap.above b m = true) :
    FMap.above b (FMap.set m a x) = true := by
  induction m generalizing b with
  | nil => simp [FMap.set, FMap.above, hb]
  | cons e m ih =>
    obtain ⟨k, v⟩ := e
    simp only [FMap.above, Bool.and_eq_true, decide_eq_true_eq] at h
    simp only [FMap.set]
    split
    · simp [FMap.above, *]
    · split
      · rename_i h1; subst h1; simp [FMap.above, *]
      · simp only [FMap.above, Bool.and_eq_true, decide_eq_true_eq]; exact ⟨h.1, ih (by omega) h.2⟩

theorem FMap.wf_set {α : Type} {m : FMap α} {a : Nat} {x : α} (h : FMap.wf m = true) : FMap.wf (FMap.set m a x) = true := by
  cases m with
  | nil => rfl
  | cons e m =>
    obtain ⟨k, v⟩ := e
    simp only [FMap.wf] at h
    simp only [FMap.set]
    split
    · simp [FMap.wf, FMap.above, *]
    · split
      · rename_i h1; subst h1; simpa [FMap.wf] using h
      · simp only [FMap.wf]; exact FMap.above_set (by omega) h

theorem FMap.above_del {α : Type} {b : Nat} {m : FMap α} {a : Nat} (h : FMap.above b m = true) :
    FMap.above b (FMap.del m a) = true := by
  induction m generalizing b with
  | nil => rfl
  | cons e m ih =>
    obtain ⟨k, v⟩ := e
    simp only [FMap.above, Bool.and_eq_true, decide_eq_true_eq] at h
    simp only [FMap.del]
    split
    · exact ih (FMap.above_mono (by omega) m h.2)
    · simp only [FMap.above, Bool.and_eq_true, decide_eq_true_eq]; exact ⟨h.1, ih h.2⟩

theorem FMap.wf_del {α : Type} {m : FMap α} {a : Nat} (h : FMap.wf m = true) : FMap.wf (FMap.del m a) = true := by
  cases m with
  | nil => rfl
  | cons e m =>
    obtain ⟨k, v⟩ := e
    simp only [FMap.wf] at h
    simp only [FMap.del]
    split
    · exact FMap.wf_of_above (FMap.above_del h)
    · exact FMap.above_del h

theorem FMap.wf_put {α : Type} [DecidableEq α] {d : α} {m : FMap α} {a : Nat} {x : α} (h : FMap.wf m = true) :
    FMap.wf (FMap.put d m a x) = true := by
  unfold FMap.put; split
  · exact FMap.wf_del h
  · exact FMap.wf_set h

namespace Machine

/-! Bytes of memory. -/

/-- A written byte reads back, every other byte is as before. -/
@[simp] theorem byteAt_putByte (m : List Host.Cell) (a b : Nat) (x : Byte) :
    byteAt (putByte m a x) b = if b = a then x else byteAt m b := by simp [byteAt, putByte]

/-- Writing a byte keeps memory in its canonical form. -/
theorem wf_putByte {m : List Host.Cell} {a : Nat} {x : Byte} (h : Memory.wf m = true) : Memory.wf (putByte m a x) = true := by
  simp only [Memory.wf, Bool.and_eq_true, List.all_eq_true] at *
  refine ⟨FMap.wf_put h.1, ?_⟩
  intro c hc
  unfold putByte FMap.put at hc
  have hdel : ∀ (m : List Host.Cell), c ∈ FMap.del m a → c ∈ m := by
    intro m; induction m with
    | nil => simp [FMap.del]
    | cons e m ih =>
      obtain ⟨k, v⟩ := e; simp only [FMap.del]; split
      · intro q; exact List.mem_cons_of_mem _ (ih q)
      · intro q; rcases List.mem_cons.mp q with q | q
        · exact q ▸ List.mem_cons_self
        · exact List.mem_cons_of_mem _ (ih q)
  have hset : ∀ (m : List Host.Cell), c ∈ FMap.set m a x → c = (a, x) ∨ c ∈ m := by
    intro m; induction m with
    | nil => simp [FMap.set]
    | cons e m ih =>
      obtain ⟨k, v⟩ := e; simp only [FMap.set]; split
      · intro q; simpa using q
      · split
        · intro q; rcases List.mem_cons.mp q with q | q
          · exact .inl q
          · exact .inr (List.mem_cons_of_mem _ q)
        · intro q; rcases List.mem_cons.mp q with q | q
          · exact .inr (q ▸ List.mem_cons_self)
          · rcases ih q with q | q
            · exact .inl q
            · exact .inr (List.mem_cons_of_mem _ q)
  split at hc
  · exact h.2 c (hdel m hc)
  · rename_i hx
    rcases hset m hc with q | q
    · subst q; simpa using hx
    · exact h.2 c q

theorem wf_writeBytes {m : List Host.Cell} (a n v : Nat) (h : Memory.wf m = true) : Memory.wf (writeBytes m a n v) = true := by
  induction n generalizing m a v with
  | zero => exact h
  | succ n ih => exact ih _ _ (wf_putByte h)

theorem wf_writeMasked {m : List Host.Cell} (a n v k : Nat) (h : Memory.wf m = true) :
    Memory.wf (writeMasked m a n v k) = true := by
  induction n generalizing m a v k with
  | zero => exact h
  | succ n ih => simp only [writeMasked]; apply ih; split; exact wf_putByte h; exact h

theorem wf_writeList {m : List Host.Cell} (a : Nat) (l : List Byte) (h : Memory.wf m = true) : Memory.wf (writeList m a l) = true := by
  induction l generalizing m a with
  | nil => exact h
  | cons b l ih => exact ih _ (wf_putByte h)

/-- A byte outside the range that was written is as before. -/
theorem byteAt_writeBytes_out (m : List Host.Cell) (a n v b : Nat) (h : b < a ∨ a + n ≤ b) :
    byteAt (writeBytes m a n v) b = byteAt m b := by
  induction n generalizing m a v with
  | zero => rfl
  | succ n ih => simp only [writeBytes]; rw [ih _ _ _ (by omega)]; simp; omega

/-- Byte `i` of the range that was written is byte `i` of the value. -/
theorem byteAt_writeBytes_in (m : List Host.Cell) (a n v i : Nat) (h : i < n) :
    byteAt (writeBytes m a n v) (a + i) = BitVec.ofNat 8 (v / 256 ^ i) := by
  induction n generalizing m a v i with
  | zero => omega
  | succ n ih =>
    simp only [writeBytes]
    cases i with
    | zero => rw [byteAt_writeBytes_out _ _ _ _ _ (by omega)]; simp
    | succ i =>
      have := ih (putByte m a (BitVec.ofNat 8 v)) (a + 1) (v / 256) i (by omega)
      rw [show a + (i + 1) = a + 1 + i by omega, this, Nat.div_div_eq_div_mul, ← Nat.pow_succ']

/-- What was written reads back, cut to its bytes. -/
theorem readBytes_writeBytes (m : List Host.Cell) (a n v : Nat) : readBytes (writeBytes m a n v) a n = v % 256 ^ n := by
  have key : ∀ (k i : Nat), i + k ≤ n → readBytes (writeBytes m a n v) (a + i) k = v / 256 ^ i % 256 ^ k := by
    intro k
    induction k with
    | zero => intro i _; simp [readBytes, Nat.mod_one]
    | succ k ih =>
      intro i hi
      simp only [readBytes]
      rw [byteAt_writeBytes_in _ _ _ _ _ (by omega), show a + i + 1 = a + (i + 1) by omega, ih (i + 1) (by omega)]
      have e := Nat.mod_mul (x := v / 256 ^ i) (a := 256) (b := 256 ^ k)
      have e1 : v / 256 ^ (i + 1) = v / 256 ^ i / 256 := by rw [Nat.pow_succ, ← Nat.div_div_eq_div_mul]
      have e2 : (256 : Nat) ^ (k + 1) = 256 * 256 ^ k := Nat.pow_succ'
      rw [BitVec.toNat_ofNat, e1, e2, e]
  simpa using key n 0 (by omega)

/-- A range of bytes apart from the written range reads as before. -/
theorem readBytes_writeBytes_apart (m : List Host.Cell) (a n v b k : Nat) (h : b + k ≤ a ∨ a + n ≤ b) :
    readBytes (writeBytes m a n v) b k = readBytes m b k := by
  induction k generalizing b with
  | zero => rfl
  | succ k ih => simp only [readBytes]; rw [byteAt_writeBytes_out _ _ _ _ _ (by omega), ih _ (by omega)]

/-- A masked write changes the bytes whose bit of the mask is set. -/
theorem byteAt_writeMasked (m : List Host.Cell) (a n v k b : Nat) :
    byteAt (writeMasked m a n v k) b =
      if a ≤ b ∧ b < a + n ∧ k / 2 ^ (b - a) % 2 = 1 then BitVec.ofNat 8 (v / 256 ^ (b - a)) else byteAt m b := by
  induction n generalizing m a v k with
  | zero => simp only [writeMasked]; rw [if_neg (by omega)]
  | succ n ih =>
    simp only [writeMasked]; rw [ih]
    by_cases hb : b = a
    · subst hb
      rw [if_neg (by omega)]
      by_cases hk : k % 2 = 1 <;> simp [hk]
    · have hpow (h : a + 1 ≤ b) : k / 2 / 2 ^ (b - (a + 1)) = k / 2 ^ (b - a) ∧ v / 256 / 256 ^ (b - (a + 1)) = v / 256 ^ (b - a) := by
        rw [Nat.div_div_eq_div_mul, Nat.div_div_eq_div_mul, ← Nat.pow_succ', ← Nat.pow_succ', show (b - (a + 1)).succ = b - a by omega]
        exact ⟨rfl, rfl⟩
      by_cases hr : a + 1 ≤ b
      · rw [(hpow hr).1, (hpow hr).2]
        have e : (a + 1 ≤ b ∧ b < a + 1 + n ∧ k / 2 ^ (b - a) % 2 = 1) ↔ (a ≤ b ∧ b < a + (n + 1) ∧ k / 2 ^ (b - a) % 2 = 1) := by omega
        simp only [e]; split
        · rfl
        · split <;> simp [hb]
      · rw [if_neg (c := _ ∧ _) fun h => hr h.1, if_neg (c := _ ∧ _) fun h => by have := h.1; omega]
        split
        · simp [hb]
        · rfl

end Machine
end Sys2Proof
end

