-- ==== Sys2Proof/Laws/State.lean ====
section
/-! SUPPORT. What every named update of State leaves in every field: one lemma per field per update, so that no later
proof unfolds a record update; then what the accessors read after an update. -/
namespace Sys2Proof.Machine

@[simp] theorem State.setCore_agenda (s : State) (a b : Nat) (c : Core) : (s.setCore a b c).agenda = s.agenda := rfl
@[simp] theorem State.setCore_turns (s : State) (a b : Nat) (c : Core) : (s.setCore a b c).turns = s.turns := rfl
@[simp] theorem State.setCore_cur (s : State) (a b : Nat) (c : Core) : (s.setCore a b c).cur = s.cur := rfl
@[simp] theorem State.setCore_rot (s : State) (a b : Nat) (c : Core) : (s.setCore a b c).rot = s.rot := rfl
@[simp] theorem State.setCore_free (s : State) (a b : Nat) (c : Core) : (s.setCore a b c).free = s.free := rfl
@[simp] theorem State.setCore_outbox (s : State) (a b : Nat) (c : Core) : (s.setCore a b c).outbox = s.outbox := rfl
@[simp] theorem State.setCore_mem (s : State) (a b : Nat) (c : Core) : (s.setCore a b c).mem = s.mem := rfl
@[simp] theorem State.setCore_hostMem (s : State) (a b : Nat) (c : Core) : (s.setCore a b c).hostMem = s.hostMem := rfl
@[simp] theorem State.setCore_peerMem (s : State) (a b : Nat) (c : Core) : (s.setCore a b c).peerMem = s.peerMem := rfl
@[simp] theorem State.setCore_poison (s : State) (a b : Nat) (c : Core) : (s.setCore a b c).poison = s.poison := rfl
@[simp] theorem State.setCore_regs (s : State) (a b : Nat) (c : Core) : (s.setCore a b c).regs = s.regs := rfl
@[simp] theorem State.setCore_time (s : State) (a b : Nat) (c : Core) : (s.setCore a b c).time = s.time := rfl
@[simp] theorem State.setCore_ticks (s : State) (a b : Nat) (c : Core) : (s.setCore a b c).ticks = s.ticks := rfl
@[simp] theorem State.setCore_rt (s : State) (a b : Nat) (c : Core) : (s.setCore a b c).rt = s.rt := rfl
@[simp] theorem State.setCore_rtOld (s : State) (a b : Nat) (c : Core) : (s.setCore a b c).rtOld = s.rtOld := rfl
@[simp] theorem State.setCore_gens (s : State) (a b : Nat) (c : Core) : (s.setCore a b c).gens = s.gens := rfl
@[simp] theorem State.setCore_markers (s : State) (a b : Nat) (c : Core) : (s.setCore a b c).markers = s.markers := rfl
@[simp] theorem State.setCore_mesh (s : State) (a b : Nat) (c : Core) : (s.setCore a b c).mesh = s.mesh := rfl
@[simp] theorem State.setCore_prims (s : State) (a b : Nat) (c : Core) : (s.setCore a b c).prims = s.prims := rfl
@[simp] theorem State.setCore_tokens (s : State) (a b : Nat) (c : Core) : (s.setCore a b c).tokens = s.tokens := rfl
@[simp] theorem State.setCore_coh (s : State) (a b : Nat) (c : Core) : (s.setCore a b c).coh = s.coh := rfl
@[simp] theorem State.setCore_census (s : State) (a b : Nat) (c : Core) : (s.setCore a b c).census = s.census := rfl
@[simp] theorem State.setCore_dies (s : State) (a b : Nat) (c : Core) : (s.setCore a b c).dies = s.dies := rfl
@[simp] theorem State.setCore_cores (s : State) (a b : Nat) (c : Core) : (s.setCore a b c).cores = FMap.set s.cores (coreKey a b) c := rfl
@[simp] theorem State.setCore_warps (s : State) (a b : Nat) (c : Core) : (s.setCore a b c).warps = s.warps := rfl
@[simp] theorem State.setCore_hub (s : State) (a b : Nat) (c : Core) : (s.setCore a b c).hub = s.hub := rfl
@[simp] theorem State.setCore_trust (s : State) (a b : Nat) (c : Core) : (s.setCore a b c).trust = s.trust := rfl
@[simp] theorem State.setCore_breach (s : State) (a b : Nat) (c : Core) : (s.setCore a b c).breach = s.breach := rfl
@[simp] theorem State.setCore_wlog (s : State) (a b : Nat) (c : Core) : (s.setCore a b c).wlog = s.wlog := rfl
@[simp] theorem State.setCore_reds (s : State) (a b : Nat) (c : Core) : (s.setCore a b c).reds = s.reds := rfl

@[simp] theorem State.setC_agenda (s : State) (c : Core) : (s.setC c).agenda = s.agenda := rfl
@[simp] theorem State.setC_turns (s : State) (c : Core) : (s.setC c).turns = s.turns := rfl
@[simp] theorem State.setC_cur (s : State) (c : Core) : (s.setC c).cur = s.cur := rfl
@[simp] theorem State.setC_rot (s : State) (c : Core) : (s.setC c).rot = s.rot := rfl
@[simp] theorem State.setC_free (s : State) (c : Core) : (s.setC c).free = s.free := rfl
@[simp] theorem State.setC_outbox (s : State) (c : Core) : (s.setC c).outbox = s.outbox := rfl
@[simp] theorem State.setC_mem (s : State) (c : Core) : (s.setC c).mem = s.mem := rfl
@[simp] theorem State.setC_hostMem (s : State) (c : Core) : (s.setC c).hostMem = s.hostMem := rfl
@[simp] theorem State.setC_peerMem (s : State) (c : Core) : (s.setC c).peerMem = s.peerMem := rfl
@[simp] theorem State.setC_poison (s : State) (c : Core) : (s.setC c).poison = s.poison := rfl
@[simp] theorem State.setC_regs (s : State) (c : Core) : (s.setC c).regs = s.regs := rfl
@[simp] theorem State.setC_time (s : State) (c : Core) : (s.setC c).time = s.time := rfl
@[simp] theorem State.setC_ticks (s : State) (c : Core) : (s.setC c).ticks = s.ticks := rfl
@[simp] theorem State.setC_rt (s : State) (c : Core) : (s.setC c).rt = s.rt := rfl
@[simp] theorem State.setC_rtOld (s : State) (c : Core) : (s.setC c).rtOld = s.rtOld := rfl
@[simp] theorem State.setC_gens (s : State) (c : Core) : (s.setC c).gens = s.gens := rfl
@[simp] theorem State.setC_markers (s : State) (c : Core) : (s.setC c).markers = s.markers := rfl
@[simp] theorem State.setC_mesh (s : State) (c : Core) : (s.setC c).mesh = s.mesh := rfl
@[simp] theorem State.setC_prims (s : State) (c : Core) : (s.setC c).prims = s.prims := rfl
@[simp] theorem State.setC_tokens (s : State) (c : Core) : (s.setC c).tokens = s.tokens := rfl
@[simp] theorem State.setC_coh (s : State) (c : Core) : (s.setC c).coh = s.coh := rfl
@[simp] theorem State.setC_census (s : State) (c : Core) : (s.setC c).census = s.census := rfl
@[simp] theorem State.setC_dies (s : State) (c : Core) : (s.setC c).dies = s.dies := rfl
@[simp] theorem State.setC_cores (s : State) (c : Core) : (s.setC c).cores = FMap.set s.cores (coreKey s.cur.site s.cur.core) c := rfl
@[simp] theorem State.setC_warps (s : State) (c : Core) : (s.setC c).warps = s.warps := rfl
@[simp] theorem State.setC_hub (s : State) (c : Core) : (s.setC c).hub = s.hub := rfl
@[simp] theorem State.setC_trust (s : State) (c : Core) : (s.setC c).trust = s.trust := rfl
@[simp] theorem State.setC_breach (s : State) (c : Core) : (s.setC c).breach = s.breach := rfl
@[simp] theorem State.setC_wlog (s : State) (c : Core) : (s.setC c).wlog = s.wlog := rfl
@[simp] theorem State.setC_reds (s : State) (c : Core) : (s.setC c).reds = s.reds := rfl

@[simp] theorem State.setWarp_agenda (s : State) (a b c : Nat) (w : Warp) : (s.setWarp a b c w).agenda = s.agenda := rfl
@[simp] theorem State.setWarp_turns (s : State) (a b c : Nat) (w : Warp) : (s.setWarp a b c w).turns = s.turns := rfl
@[simp] theorem State.setWarp_cur (s : State) (a b c : Nat) (w : Warp) : (s.setWarp a b c w).cur = s.cur := rfl
@[simp] theorem State.setWarp_rot (s : State) (a b c : Nat) (w : Warp) : (s.setWarp a b c w).rot = s.rot := rfl
@[simp] theorem State.setWarp_free (s : State) (a b c : Nat) (w : Warp) : (s.setWarp a b c w).free = s.free := rfl
@[simp] theorem State.setWarp_outbox (s : State) (a b c : Nat) (w : Warp) : (s.setWarp a b c w).outbox = s.outbox := rfl
@[simp] theorem State.setWarp_mem (s : State) (a b c : Nat) (w : Warp) : (s.setWarp a b c w).mem = s.mem := rfl
@[simp] theorem State.setWarp_hostMem (s : State) (a b c : Nat) (w : Warp) : (s.setWarp a b c w).hostMem = s.hostMem := rfl
@[simp] theorem State.setWarp_peerMem (s : State) (a b c : Nat) (w : Warp) : (s.setWarp a b c w).peerMem = s.peerMem := rfl
@[simp] theorem State.setWarp_poison (s : State) (a b c : Nat) (w : Warp) : (s.setWarp a b c w).poison = s.poison := rfl
@[simp] theorem State.setWarp_regs (s : State) (a b c : Nat) (w : Warp) : (s.setWarp a b c w).regs = s.regs := rfl
@[simp] theorem State.setWarp_time (s : State) (a b c : Nat) (w : Warp) : (s.setWarp a b c w).time = s.time := rfl
@[simp] theorem State.setWarp_ticks (s : State) (a b c : Nat) (w : Warp) : (s.setWarp a b c w).ticks = s.ticks := rfl
@[simp] theorem State.setWarp_rt (s : State) (a b c : Nat) (w : Warp) : (s.setWarp a b c w).rt = s.rt := rfl
@[simp] theorem State.setWarp_rtOld (s : State) (a b c : Nat) (w : Warp) : (s.setWarp a b c w).rtOld = s.rtOld := rfl
@[simp] theorem State.setWarp_gens (s : State) (a b c : Nat) (w : Warp) : (s.setWarp a b c w).gens = s.gens := rfl
@[simp] theorem State.setWarp_markers (s : State) (a b c : Nat) (w : Warp) : (s.setWarp a b c w).markers = s.markers := rfl
@[simp] theorem State.setWarp_mesh (s : State) (a b c : Nat) (w : Warp) : (s.setWarp a b c w).mesh = s.mesh := rfl
@[simp] theorem State.setWarp_prims (s : State) (a b c : Nat) (w : Warp) : (s.setWarp a b c w).prims = s.prims := rfl
@[simp] theorem State.setWarp_tokens (s : State) (a b c : Nat) (w : Warp) : (s.setWarp a b c w).tokens = s.tokens := rfl
@[simp] theorem State.setWarp_coh (s : State) (a b c : Nat) (w : Warp) : (s.setWarp a b c w).coh = s.coh := rfl
@[simp] theorem State.setWarp_census (s : State) (a b c : Nat) (w : Warp) : (s.setWarp a b c w).census = s.census := rfl
@[simp] theorem State.setWarp_dies (s : State) (a b c : Nat) (w : Warp) : (s.setWarp a b c w).dies = s.dies := rfl
@[simp] theorem State.setWarp_cores (s : State) (a b c : Nat) (w : Warp) : (s.setWarp a b c w).cores = s.cores := rfl
@[simp] theorem State.setWarp_warps (s : State) (a b c : Nat) (w : Warp) : (s.setWarp a b c w).warps = FMap.set s.warps (warpKey a b c) w := rfl
@[simp] theorem State.setWarp_hub (s : State) (a b c : Nat) (w : Warp) : (s.setWarp a b c w).hub = s.hub := rfl
@[simp] theorem State.setWarp_trust (s : State) (a b c : Nat) (w : Warp) : (s.setWarp a b c w).trust = s.trust := rfl
@[simp] theorem State.setWarp_breach (s : State) (a b c : Nat) (w : Warp) : (s.setWarp a b c w).breach = s.breach := rfl
@[simp] theorem State.setWarp_wlog (s : State) (a b c : Nat) (w : Warp) : (s.setWarp a b c w).wlog = s.wlog := rfl
@[simp] theorem State.setWarp_reds (s : State) (a b c : Nat) (w : Warp) : (s.setWarp a b c w).reds = s.reds := rfl

@[simp] theorem State.setWref_agenda (s : State) (r : WRef) (w : Warp) : (s.setWref r w).agenda = s.agenda := rfl
@[simp] theorem State.setWref_turns (s : State) (r : WRef) (w : Warp) : (s.setWref r w).turns = s.turns := rfl
@[simp] theorem State.setWref_cur (s : State) (r : WRef) (w : Warp) : (s.setWref r w).cur = s.cur := rfl
@[simp] theorem State.setWref_rot (s : State) (r : WRef) (w : Warp) : (s.setWref r w).rot = s.rot := rfl
@[simp] theorem State.setWref_free (s : State) (r : WRef) (w : Warp) : (s.setWref r w).free = s.free := rfl
@[simp] theorem State.setWref_outbox (s : State) (r : WRef) (w : Warp) : (s.setWref r w).outbox = s.outbox := rfl
@[simp] theorem State.setWref_mem (s : State) (r : WRef) (w : Warp) : (s.setWref r w).mem = s.mem := rfl
@[simp] theorem State.setWref_hostMem (s : State) (r : WRef) (w : Warp) : (s.setWref r w).hostMem = s.hostMem := rfl
@[simp] theorem State.setWref_peerMem (s : State) (r : WRef) (w : Warp) : (s.setWref r w).peerMem = s.peerMem := rfl
@[simp] theorem State.setWref_poison (s : State) (r : WRef) (w : Warp) : (s.setWref r w).poison = s.poison := rfl
@[simp] theorem State.setWref_regs (s : State) (r : WRef) (w : Warp) : (s.setWref r w).regs = s.regs := rfl
@[simp] theorem State.setWref_time (s : State) (r : WRef) (w : Warp) : (s.setWref r w).time = s.time := rfl
@[simp] theorem State.setWref_ticks (s : State) (r : WRef) (w : Warp) : (s.setWref r w).ticks = s.ticks := rfl
@[simp] theorem State.setWref_rt (s : State) (r : WRef) (w : Warp) : (s.setWref r w).rt = s.rt := rfl
@[simp] theorem State.setWref_rtOld (s : State) (r : WRef) (w : Warp) : (s.setWref r w).rtOld = s.rtOld := rfl
@[simp] theorem State.setWref_gens (s : State) (r : WRef) (w : Warp) : (s.setWref r w).gens = s.gens := rfl
@[simp] theorem State.setWref_markers (s : State) (r : WRef) (w : Warp) : (s.setWref r w).markers = s.markers := rfl
@[simp] theorem State.setWref_mesh (s : State) (r : WRef) (w : Warp) : (s.setWref r w).mesh = s.mesh := rfl
@[simp] theorem State.setWref_prims (s : State) (r : WRef) (w : Warp) : (s.setWref r w).prims = s.prims := rfl
@[simp] theorem State.setWref_tokens (s : State) (r : WRef) (w : Warp) : (s.setWref r w).tokens = s.tokens := rfl
@[simp] theorem State.setWref_coh (s : State) (r : WRef) (w : Warp) : (s.setWref r w).coh = s.coh := rfl
@[simp] theorem State.setWref_census (s : State) (r : WRef) (w : Warp) : (s.setWref r w).census = s.census := rfl
@[simp] theorem State.setWref_dies (s : State) (r : WRef) (w : Warp) : (s.setWref r w).dies = s.dies := rfl
@[simp] theorem State.setWref_cores (s : State) (r : WRef) (w : Warp) : (s.setWref r w).cores = s.cores := rfl
@[simp] theorem State.setWref_warps (s : State) (r : WRef) (w : Warp) : (s.setWref r w).warps = FMap.set s.warps (warpKey r.site r.core r.slot) w := rfl
@[simp] theorem State.setWref_hub (s : State) (r : WRef) (w : Warp) : (s.setWref r w).hub = s.hub := rfl
@[simp] theorem State.setWref_trust (s : State) (r : WRef) (w : Warp) : (s.setWref r w).trust = s.trust := rfl
@[simp] theorem State.setWref_breach (s : State) (r : WRef) (w : Warp) : (s.setWref r w).breach = s.breach := rfl
@[simp] theorem State.setWref_wlog (s : State) (r : WRef) (w : Warp) : (s.setWref r w).wlog = s.wlog := rfl
@[simp] theorem State.setWref_reds (s : State) (r : WRef) (w : Warp) : (s.setWref r w).reds = s.reds := rfl

@[simp] theorem State.setW_agenda (s : State) (w : Warp) : (s.setW w).agenda = s.agenda := rfl
@[simp] theorem State.setW_turns (s : State) (w : Warp) : (s.setW w).turns = s.turns := rfl
@[simp] theorem State.setW_cur (s : State) (w : Warp) : (s.setW w).cur = s.cur := rfl
@[simp] theorem State.setW_rot (s : State) (w : Warp) : (s.setW w).rot = s.rot := rfl
@[simp] theorem State.setW_free (s : State) (w : Warp) : (s.setW w).free = s.free := rfl
@[simp] theorem State.setW_outbox (s : State) (w : Warp) : (s.setW w).outbox = s.outbox := rfl
@[simp] theorem State.setW_mem (s : State) (w : Warp) : (s.setW w).mem = s.mem := rfl
@[simp] theorem State.setW_hostMem (s : State) (w : Warp) : (s.setW w).hostMem = s.hostMem := rfl
@[simp] theorem State.setW_peerMem (s : State) (w : Warp) : (s.setW w).peerMem = s.peerMem := rfl
@[simp] theorem State.setW_poison (s : State) (w : Warp) : (s.setW w).poison = s.poison := rfl
@[simp] theorem State.setW_regs (s : State) (w : Warp) : (s.setW w).regs = s.regs := rfl
@[simp] theorem State.setW_time (s : State) (w : Warp) : (s.setW w).time = s.time := rfl
@[simp] theorem State.setW_ticks (s : State) (w : Warp) : (s.setW w).ticks = s.ticks := rfl
@[simp] theorem State.setW_rt (s : State) (w : Warp) : (s.setW w).rt = s.rt := rfl
@[simp] theorem State.setW_rtOld (s : State) (w : Warp) : (s.setW w).rtOld = s.rtOld := rfl
@[simp] theorem State.setW_gens (s : State) (w : Warp) : (s.setW w).gens = s.gens := rfl
@[simp] theorem State.setW_markers (s : State) (w : Warp) : (s.setW w).markers = s.markers := rfl
@[simp] theorem State.setW_mesh (s : State) (w : Warp) : (s.setW w).mesh = s.mesh := rfl
@[simp] theorem State.setW_prims (s : State) (w : Warp) : (s.setW w).prims = s.prims := rfl
@[simp] theorem State.setW_tokens (s : State) (w : Warp) : (s.setW w).tokens = s.tokens := rfl
@[simp] theorem State.setW_coh (s : State) (w : Warp) : (s.setW w).coh = s.coh := rfl
@[simp] theorem State.setW_census (s : State) (w : Warp) : (s.setW w).census = s.census := rfl
@[simp] theorem State.setW_dies (s : State) (w : Warp) : (s.setW w).dies = s.dies := rfl
@[simp] theorem State.setW_cores (s : State) (w : Warp) : (s.setW w).cores = s.cores := rfl
@[simp] theorem State.setW_warps (s : State) (w : Warp) : (s.setW w).warps = FMap.set s.warps (warpKey s.cur.site s.cur.core s.cur.slot) w := rfl
@[simp] theorem State.setW_hub (s : State) (w : Warp) : (s.setW w).hub = s.hub := rfl
@[simp] theorem State.setW_trust (s : State) (w : Warp) : (s.setW w).trust = s.trust := rfl
@[simp] theorem State.setW_breach (s : State) (w : Warp) : (s.setW w).breach = s.breach := rfl
@[simp] theorem State.setW_wlog (s : State) (w : Warp) : (s.setW w).wlog = s.wlog := rfl
@[simp] theorem State.setW_reds (s : State) (w : Warp) : (s.setW w).reds = s.reds := rfl

@[simp] theorem State.setDie_agenda (s : State) (a : Nat) (d : Die) : (s.setDie a d).agenda = s.agenda := rfl
@[simp] theorem State.setDie_turns (s : State) (a : Nat) (d : Die) : (s.setDie a d).turns = s.turns := rfl
@[simp] theorem State.setDie_cur (s : State) (a : Nat) (d : Die) : (s.setDie a d).cur = s.cur := rfl
@[simp] theorem State.setDie_rot (s : State) (a : Nat) (d : Die) : (s.setDie a d).rot = s.rot := rfl
@[simp] theorem State.setDie_free (s : State) (a : Nat) (d : Die) : (s.setDie a d).free = s.free := rfl
@[simp] theorem State.setDie_outbox (s : State) (a : Nat) (d : Die) : (s.setDie a d).outbox = s.outbox := rfl
@[simp] theorem State.setDie_mem (s : State) (a : Nat) (d : Die) : (s.setDie a d).mem = s.mem := rfl
@[simp] theorem State.setDie_hostMem (s : State) (a : Nat) (d : Die) : (s.setDie a d).hostMem = s.hostMem := rfl
@[simp] theorem State.setDie_peerMem (s : State) (a : Nat) (d : Die) : (s.setDie a d).peerMem = s.peerMem := rfl
@[simp] theorem State.setDie_poison (s : State) (a : Nat) (d : Die) : (s.setDie a d).poison = s.poison := rfl
@[simp] theorem State.setDie_regs (s : State) (a : Nat) (d : Die) : (s.setDie a d).regs = s.regs := rfl
@[simp] theorem State.setDie_time (s : State) (a : Nat) (d : Die) : (s.setDie a d).time = s.time := rfl
@[simp] theorem State.setDie_ticks (s : State) (a : Nat) (d : Die) : (s.setDie a d).ticks = s.ticks := rfl
@[simp] theorem State.setDie_rt (s : State) (a : Nat) (d : Die) : (s.setDie a d).rt = s.rt := rfl
@[simp] theorem State.setDie_rtOld (s : State) (a : Nat) (d : Die) : (s.setDie a d).rtOld = s.rtOld := rfl
@[simp] theorem State.setDie_gens (s : State) (a : Nat) (d : Die) : (s.setDie a d).gens = s.gens := rfl
@[simp] theorem State.setDie_markers (s : State) (a : Nat) (d : Die) : (s.setDie a d).markers = s.markers := rfl
@[simp] theorem State.setDie_mesh (s : State) (a : Nat) (d : Die) : (s.setDie a d).mesh = s.mesh := rfl
@[simp] theorem State.setDie_prims (s : State) (a : Nat) (d : Die) : (s.setDie a d).prims = s.prims := rfl
@[simp] theorem State.setDie_tokens (s : State) (a : Nat) (d : Die) : (s.setDie a d).tokens = s.tokens := rfl
@[simp] theorem State.setDie_coh (s : State) (a : Nat) (d : Die) : (s.setDie a d).coh = s.coh := rfl
@[simp] theorem State.setDie_census (s : State) (a : Nat) (d : Die) : (s.setDie a d).census = s.census := rfl
@[simp] theorem State.setDie_dies (s : State) (a : Nat) (d : Die) : (s.setDie a d).dies = FMap.set s.dies a d := rfl
@[simp] theorem State.setDie_cores (s : State) (a : Nat) (d : Die) : (s.setDie a d).cores = s.cores := rfl
@[simp] theorem State.setDie_warps (s : State) (a : Nat) (d : Die) : (s.setDie a d).warps = s.warps := rfl
@[simp] theorem State.setDie_hub (s : State) (a : Nat) (d : Die) : (s.setDie a d).hub = s.hub := rfl
@[simp] theorem State.setDie_trust (s : State) (a : Nat) (d : Die) : (s.setDie a d).trust = s.trust := rfl
@[simp] theorem State.setDie_breach (s : State) (a : Nat) (d : Die) : (s.setDie a d).breach = s.breach := rfl
@[simp] theorem State.setDie_wlog (s : State) (a : Nat) (d : Die) : (s.setDie a d).wlog = s.wlog := rfl
@[simp] theorem State.setDie_reds (s : State) (a : Nat) (d : Die) : (s.setDie a d).reds = s.reds := rfl

@[simp] theorem State.setTeam_agenda (s : State) (a : Nat) (x : Team) : (s.setTeam a x).agenda = s.agenda := rfl
@[simp] theorem State.setTeam_turns (s : State) (a : Nat) (x : Team) : (s.setTeam a x).turns = s.turns := rfl
@[simp] theorem State.setTeam_cur (s : State) (a : Nat) (x : Team) : (s.setTeam a x).cur = s.cur := rfl
@[simp] theorem State.setTeam_rot (s : State) (a : Nat) (x : Team) : (s.setTeam a x).rot = s.rot := rfl
@[simp] theorem State.setTeam_free (s : State) (a : Nat) (x : Team) : (s.setTeam a x).free = s.free := rfl
@[simp] theorem State.setTeam_outbox (s : State) (a : Nat) (x : Team) : (s.setTeam a x).outbox = s.outbox := rfl
@[simp] theorem State.setTeam_mem (s : State) (a : Nat) (x : Team) : (s.setTeam a x).mem = s.mem := rfl
@[simp] theorem State.setTeam_hostMem (s : State) (a : Nat) (x : Team) : (s.setTeam a x).hostMem = s.hostMem := rfl
@[simp] theorem State.setTeam_peerMem (s : State) (a : Nat) (x : Team) : (s.setTeam a x).peerMem = s.peerMem := rfl
@[simp] theorem State.setTeam_poison (s : State) (a : Nat) (x : Team) : (s.setTeam a x).poison = s.poison := rfl
@[simp] theorem State.setTeam_regs (s : State) (a : Nat) (x : Team) : (s.setTeam a x).regs = s.regs := rfl
@[simp] theorem State.setTeam_time (s : State) (a : Nat) (x : Team) : (s.setTeam a x).time = s.time := rfl
@[simp] theorem State.setTeam_ticks (s : State) (a : Nat) (x : Team) : (s.setTeam a x).ticks = s.ticks := rfl
@[simp] theorem State.setTeam_rt (s : State) (a : Nat) (x : Team) : (s.setTeam a x).rt = s.rt := rfl
@[simp] theorem State.setTeam_rtOld (s : State) (a : Nat) (x : Team) : (s.setTeam a x).rtOld = s.rtOld := rfl
@[simp] theorem State.setTeam_gens (s : State) (a : Nat) (x : Team) : (s.setTeam a x).gens = s.gens := rfl
@[simp] theorem State.setTeam_markers (s : State) (a : Nat) (x : Team) : (s.setTeam a x).markers = s.markers := rfl
@[simp] theorem State.setTeam_mesh (s : State) (a : Nat) (x : Team) : (s.setTeam a x).mesh = s.mesh := rfl
@[simp] theorem State.setTeam_prims (s : State) (a : Nat) (x : Team) : (s.setTeam a x).prims = s.prims := rfl
@[simp] theorem State.setTeam_tokens (s : State) (a : Nat) (x : Team) : (s.setTeam a x).tokens = s.tokens := rfl
@[simp] theorem State.setTeam_coh (s : State) (a : Nat) (x : Team) : (s.setTeam a x).coh = s.coh := rfl
@[simp] theorem State.setTeam_census (s : State) (a : Nat) (x : Team) : (s.setTeam a x).census = s.census := rfl
@[simp] theorem State.setTeam_dies (s : State) (a : Nat) (x : Team) : (s.setTeam a x).dies = s.dies := rfl
@[simp] theorem State.setTeam_cores (s : State) (a : Nat) (x : Team) : (s.setTeam a x).cores = s.cores := rfl
@[simp] theorem State.setTeam_warps (s : State) (a : Nat) (x : Team) : (s.setTeam a x).warps = s.warps := rfl
@[simp] theorem State.setTeam_hub (s : State) (a : Nat) (x : Team) : (s.setTeam a x).hub = { s.hub with teams := FMap.set s.hub.teams a x } := rfl
@[simp] theorem State.setTeam_trust (s : State) (a : Nat) (x : Team) : (s.setTeam a x).trust = s.trust := rfl
@[simp] theorem State.setTeam_breach (s : State) (a : Nat) (x : Team) : (s.setTeam a x).breach = s.breach := rfl
@[simp] theorem State.setTeam_wlog (s : State) (a : Nat) (x : Team) : (s.setTeam a x).wlog = s.wlog := rfl
@[simp] theorem State.setTeam_reds (s : State) (a : Nat) (x : Team) : (s.setTeam a x).reds = s.reds := rfl

@[simp] theorem State.setGrid_agenda (s : State) (a : Nat) (x : Grid) : (s.setGrid a x).agenda = s.agenda := rfl
@[simp] theorem State.setGrid_turns (s : State) (a : Nat) (x : Grid) : (s.setGrid a x).turns = s.turns := rfl
@[simp] theorem State.setGrid_cur (s : State) (a : Nat) (x : Grid) : (s.setGrid a x).cur = s.cur := rfl
@[simp] theorem State.setGrid_rot (s : State) (a : Nat) (x : Grid) : (s.setGrid a x).rot = s.rot := rfl
@[simp] theorem State.setGrid_free (s : State) (a : Nat) (x : Grid) : (s.setGrid a x).free = s.free := rfl
@[simp] theorem State.setGrid_outbox (s : State) (a : Nat) (x : Grid) : (s.setGrid a x).outbox = s.outbox := rfl
@[simp] theorem State.setGrid_mem (s : State) (a : Nat) (x : Grid) : (s.setGrid a x).mem = s.mem := rfl
@[simp] theorem State.setGrid_hostMem (s : State) (a : Nat) (x : Grid) : (s.setGrid a x).hostMem = s.hostMem := rfl
@[simp] theorem State.setGrid_peerMem (s : State) (a : Nat) (x : Grid) : (s.setGrid a x).peerMem = s.peerMem := rfl
@[simp] theorem State.setGrid_poison (s : State) (a : Nat) (x : Grid) : (s.setGrid a x).poison = s.poison := rfl
@[simp] theorem State.setGrid_regs (s : State) (a : Nat) (x : Grid) : (s.setGrid a x).regs = s.regs := rfl
@[simp] theorem State.setGrid_time (s : State) (a : Nat) (x : Grid) : (s.setGrid a x).time = s.time := rfl
@[simp] theorem State.setGrid_ticks (s : State) (a : Nat) (x : Grid) : (s.setGrid a x).ticks = s.ticks := rfl
@[simp] theorem State.setGrid_rt (s : State) (a : Nat) (x : Grid) : (s.setGrid a x).rt = s.rt := rfl
@[simp] theorem State.setGrid_rtOld (s : State) (a : Nat) (x : Grid) : (s.setGrid a x).rtOld = s.rtOld := rfl
@[simp] theorem State.setGrid_gens (s : State) (a : Nat) (x : Grid) : (s.setGrid a x).gens = s.gens := rfl
@[simp] theorem State.setGrid_markers (s : State) (a : Nat) (x : Grid) : (s.setGrid a x).markers = s.markers := rfl
@[simp] theorem State.setGrid_mesh (s : State) (a : Nat) (x : Grid) : (s.setGrid a x).mesh = s.mesh := rfl
@[simp] theorem State.setGrid_prims (s : State) (a : Nat) (x : Grid) : (s.setGrid a x).prims = s.prims := rfl
@[simp] theorem State.setGrid_tokens (s : State) (a : Nat) (x : Grid) : (s.setGrid a x).tokens = s.tokens := rfl
@[simp] theorem State.setGrid_coh (s : State) (a : Nat) (x : Grid) : (s.setGrid a x).coh = s.coh := rfl
@[simp] theorem State.setGrid_census (s : State) (a : Nat) (x : Grid) : (s.setGrid a x).census = s.census := rfl
@[simp] theorem State.setGrid_dies (s : State) (a : Nat) (x : Grid) : (s.setGrid a x).dies = s.dies := rfl
@[simp] theorem State.setGrid_cores (s : State) (a : Nat) (x : Grid) : (s.setGrid a x).cores = s.cores := rfl
@[simp] theorem State.setGrid_warps (s : State) (a : Nat) (x : Grid) : (s.setGrid a x).warps = s.warps := rfl
@[simp] theorem State.setGrid_hub (s : State) (a : Nat) (x : Grid) : (s.setGrid a x).hub = { s.hub with grids := FMap.set s.hub.grids a x } := rfl
@[simp] theorem State.setGrid_trust (s : State) (a : Nat) (x : Grid) : (s.setGrid a x).trust = s.trust := rfl
@[simp] theorem State.setGrid_breach (s : State) (a : Nat) (x : Grid) : (s.setGrid a x).breach = s.breach := rfl
@[simp] theorem State.setGrid_wlog (s : State) (a : Nat) (x : Grid) : (s.setGrid a x).wlog = s.wlog := rfl
@[simp] theorem State.setGrid_reds (s : State) (a : Nat) (x : Grid) : (s.setGrid a x).reds = s.reds := rfl

@[simp] theorem State.setReg_agenda (s : State) (a : Nat) (v : DWord) : (s.setReg a v).agenda = s.agenda := rfl
@[simp] theorem State.setReg_turns (s : State) (a : Nat) (v : DWord) : (s.setReg a v).turns = s.turns := rfl
@[simp] theorem State.setReg_cur (s : State) (a : Nat) (v : DWord) : (s.setReg a v).cur = s.cur := rfl
@[simp] theorem State.setReg_rot (s : State) (a : Nat) (v : DWord) : (s.setReg a v).rot = s.rot := rfl
@[simp] theorem State.setReg_free (s : State) (a : Nat) (v : DWord) : (s.setReg a v).free = s.free := rfl
@[simp] theorem State.setReg_outbox (s : State) (a : Nat) (v : DWord) : (s.setReg a v).outbox = s.outbox := rfl
@[simp] theorem State.setReg_mem (s : State) (a : Nat) (v : DWord) : (s.setReg a v).mem = s.mem := rfl
@[simp] theorem State.setReg_hostMem (s : State) (a : Nat) (v : DWord) : (s.setReg a v).hostMem = s.hostMem := rfl
@[simp] theorem State.setReg_peerMem (s : State) (a : Nat) (v : DWord) : (s.setReg a v).peerMem = s.peerMem := rfl
@[simp] theorem State.setReg_poison (s : State) (a : Nat) (v : DWord) : (s.setReg a v).poison = s.poison := rfl
@[simp] theorem State.setReg_regs (s : State) (a : Nat) (v : DWord) : (s.setReg a v).regs = FMap.set s.regs a v := rfl
@[simp] theorem State.setReg_time (s : State) (a : Nat) (v : DWord) : (s.setReg a v).time = s.time := rfl
@[simp] theorem State.setReg_ticks (s : State) (a : Nat) (v : DWord) : (s.setReg a v).ticks = s.ticks := rfl
@[simp] theorem State.setReg_rt (s : State) (a : Nat) (v : DWord) : (s.setReg a v).rt = s.rt := rfl
@[simp] theorem State.setReg_rtOld (s : State) (a : Nat) (v : DWord) : (s.setReg a v).rtOld = s.rtOld := rfl
@[simp] theorem State.setReg_gens (s : State) (a : Nat) (v : DWord) : (s.setReg a v).gens = s.gens := rfl
@[simp] theorem State.setReg_markers (s : State) (a : Nat) (v : DWord) : (s.setReg a v).markers = s.markers := rfl
@[simp] theorem State.setReg_mesh (s : State) (a : Nat) (v : DWord) : (s.setReg a v).mesh = s.mesh := rfl
@[simp] theorem State.setReg_prims (s : State) (a : Nat) (v : DWord) : (s.setReg a v).prims = s.prims := rfl
@[simp] theorem State.setReg_tokens (s : State) (a : Nat) (v : DWord) : (s.setReg a v).tokens = s.tokens := rfl
@[simp] theorem State.setReg_coh (s : State) (a : Nat) (v : DWord) : (s.setReg a v).coh = s.coh := rfl
@[simp] theorem State.setReg_census (s : State) (a : Nat) (v : DWord) : (s.setReg a v).census = s.census := rfl
@[simp] theorem State.setReg_dies (s : State) (a : Nat) (v : DWord) : (s.setReg a v).dies = s.dies := rfl
@[simp] theorem State.setReg_cores (s : State) (a : Nat) (v : DWord) : (s.setReg a v).cores = s.cores := rfl
@[simp] theorem State.setReg_warps (s : State) (a : Nat) (v : DWord) : (s.setReg a v).warps = s.warps := rfl
@[simp] theorem State.setReg_hub (s : State) (a : Nat) (v : DWord) : (s.setReg a v).hub = s.hub := rfl
@[simp] theorem State.setReg_trust (s : State) (a : Nat) (v : DWord) : (s.setReg a v).trust = s.trust := rfl
@[simp] theorem State.setReg_breach (s : State) (a : Nat) (v : DWord) : (s.setReg a v).breach = s.breach := rfl
@[simp] theorem State.setReg_wlog (s : State) (a : Nat) (v : DWord) : (s.setReg a v).wlog = s.wlog := rfl
@[simp] theorem State.setReg_reds (s : State) (a : Nat) (v : DWord) : (s.setReg a v).reds = s.reds := rfl

@[simp] theorem State.setRegF_agenda (s : State) (a h l x : Nat) : (s.setRegF a h l x).agenda = s.agenda := rfl
@[simp] theorem State.setRegF_turns (s : State) (a h l x : Nat) : (s.setRegF a h l x).turns = s.turns := rfl
@[simp] theorem State.setRegF_cur (s : State) (a h l x : Nat) : (s.setRegF a h l x).cur = s.cur := rfl
@[simp] theorem State.setRegF_rot (s : State) (a h l x : Nat) : (s.setRegF a h l x).rot = s.rot := rfl
@[simp] theorem State.setRegF_free (s : State) (a h l x : Nat) : (s.setRegF a h l x).free = s.free := rfl
@[simp] theorem State.setRegF_outbox (s : State) (a h l x : Nat) : (s.setRegF a h l x).outbox = s.outbox := rfl
@[simp] theorem State.setRegF_mem (s : State) (a h l x : Nat) : (s.setRegF a h l x).mem = s.mem := rfl
@[simp] theorem State.setRegF_hostMem (s : State) (a h l x : Nat) : (s.setRegF a h l x).hostMem = s.hostMem := rfl
@[simp] theorem State.setRegF_peerMem (s : State) (a h l x : Nat) : (s.setRegF a h l x).peerMem = s.peerMem := rfl
@[simp] theorem State.setRegF_poison (s : State) (a h l x : Nat) : (s.setRegF a h l x).poison = s.poison := rfl
@[simp] theorem State.setRegF_regs (s : State) (a h l x : Nat) : (s.setRegF a h l x).regs = FMap.set s.regs a (setF (s.reg a) h l x) := rfl
@[simp] theorem State.setRegF_time (s : State) (a h l x : Nat) : (s.setRegF a h l x).time = s.time := rfl
@[simp] theorem State.setRegF_ticks (s : State) (a h l x : Nat) : (s.setRegF a h l x).ticks = s.ticks := rfl
@[simp] theorem State.setRegF_rt (s : State) (a h l x : Nat) : (s.setRegF a h l x).rt = s.rt := rfl
@[simp] theorem State.setRegF_rtOld (s : State) (a h l x : Nat) : (s.setRegF a h l x).rtOld = s.rtOld := rfl
@[simp] theorem State.setRegF_gens (s : State) (a h l x : Nat) : (s.setRegF a h l x).gens = s.gens := rfl
@[simp] theorem State.setRegF_markers (s : State) (a h l x : Nat) : (s.setRegF a h l x).markers = s.markers := rfl
@[simp] theorem State.setRegF_mesh (s : State) (a h l x : Nat) : (s.setRegF a h l x).mesh = s.mesh := rfl
@[simp] theorem State.setRegF_prims (s : State) (a h l x : Nat) : (s.setRegF a h l x).prims = s.prims := rfl
@[simp] theorem State.setRegF_tokens (s : State) (a h l x : Nat) : (s.setRegF a h l x).tokens = s.tokens := rfl
@[simp] theorem State.setRegF_coh (s : State) (a h l x : Nat) : (s.setRegF a h l x).coh = s.coh := rfl
@[simp] theorem State.setRegF_census (s : State) (a h l x : Nat) : (s.setRegF a h l x).census = s.census := rfl
@[simp] theorem State.setRegF_dies (s : State) (a h l x : Nat) : (s.setRegF a h l x).dies = s.dies := rfl
@[simp] theorem State.setRegF_cores (s : State) (a h l x : Nat) : (s.setRegF a h l x).cores = s.cores := rfl
@[simp] theorem State.setRegF_warps (s : State) (a h l x : Nat) : (s.setRegF a h l x).warps = s.warps := rfl
@[simp] theorem State.setRegF_hub (s : State) (a h l x : Nat) : (s.setRegF a h l x).hub = s.hub := rfl
@[simp] theorem State.setRegF_trust (s : State) (a h l x : Nat) : (s.setRegF a h l x).trust = s.trust := rfl
@[simp] theorem State.setRegF_breach (s : State) (a h l x : Nat) : (s.setRegF a h l x).breach = s.breach := rfl
@[simp] theorem State.setRegF_wlog (s : State) (a h l x : Nat) : (s.setRegF a h l x).wlog = s.wlog := rfl
@[simp] theorem State.setRegF_reds (s : State) (a h l x : Nat) : (s.setRegF a h l x).reds = s.reds := rfl

@[simp] theorem State.bumpReg_agenda (s : State) (a h l k : Nat) : (s.bumpReg a h l k).agenda = s.agenda := rfl
@[simp] theorem State.bumpReg_turns (s : State) (a h l k : Nat) : (s.bumpReg a h l k).turns = s.turns := rfl
@[simp] theorem State.bumpReg_cur (s : State) (a h l k : Nat) : (s.bumpReg a h l k).cur = s.cur := rfl
@[simp] theorem State.bumpReg_rot (s : State) (a h l k : Nat) : (s.bumpReg a h l k).rot = s.rot := rfl
@[simp] theorem State.bumpReg_free (s : State) (a h l k : Nat) : (s.bumpReg a h l k).free = s.free := rfl
@[simp] theorem State.bumpReg_outbox (s : State) (a h l k : Nat) : (s.bumpReg a h l k).outbox = s.outbox := rfl
@[simp] theorem State.bumpReg_mem (s : State) (a h l k : Nat) : (s.bumpReg a h l k).mem = s.mem := rfl
@[simp] theorem State.bumpReg_hostMem (s : State) (a h l k : Nat) : (s.bumpReg a h l k).hostMem = s.hostMem := rfl
@[simp] theorem State.bumpReg_peerMem (s : State) (a h l k : Nat) : (s.bumpReg a h l k).peerMem = s.peerMem := rfl
@[simp] theorem State.bumpReg_poison (s : State) (a h l k : Nat) : (s.bumpReg a h l k).poison = s.poison := rfl
@[simp] theorem State.bumpReg_regs (s : State) (a h l k : Nat) : (s.bumpReg a h l k).regs = FMap.set s.regs a (bumpF (s.reg a) h l k) := rfl
@[simp] theorem State.bumpReg_time (s : State) (a h l k : Nat) : (s.bumpReg a h l k).time = s.time := rfl
@[simp] theorem State.bumpReg_ticks (s : State) (a h l k : Nat) : (s.bumpReg a h l k).ticks = s.ticks := rfl
@[simp] theorem State.bumpReg_rt (s : State) (a h l k : Nat) : (s.bumpReg a h l k).rt = s.rt := rfl
@[simp] theorem State.bumpReg_rtOld (s : State) (a h l k : Nat) : (s.bumpReg a h l k).rtOld = s.rtOld := rfl
@[simp] theorem State.bumpReg_gens (s : State) (a h l k : Nat) : (s.bumpReg a h l k).gens = s.gens := rfl
@[simp] theorem State.bumpReg_markers (s : State) (a h l k : Nat) : (s.bumpReg a h l k).markers = s.markers := rfl
@[simp] theorem State.bumpReg_mesh (s : State) (a h l k : Nat) : (s.bumpReg a h l k).mesh = s.mesh := rfl
@[simp] theorem State.bumpReg_prims (s : State) (a h l k : Nat) : (s.bumpReg a h l k).prims = s.prims := rfl
@[simp] theorem State.bumpReg_tokens (s : State) (a h l k : Nat) : (s.bumpReg a h l k).tokens = s.tokens := rfl
@[simp] theorem State.bumpReg_coh (s : State) (a h l k : Nat) : (s.bumpReg a h l k).coh = s.coh := rfl
@[simp] theorem State.bumpReg_census (s : State) (a h l k : Nat) : (s.bumpReg a h l k).census = s.census := rfl
@[simp] theorem State.bumpReg_dies (s : State) (a h l k : Nat) : (s.bumpReg a h l k).dies = s.dies := rfl
@[simp] theorem State.bumpReg_cores (s : State) (a h l k : Nat) : (s.bumpReg a h l k).cores = s.cores := rfl
@[simp] theorem State.bumpReg_warps (s : State) (a h l k : Nat) : (s.bumpReg a h l k).warps = s.warps := rfl
@[simp] theorem State.bumpReg_hub (s : State) (a h l k : Nat) : (s.bumpReg a h l k).hub = s.hub := rfl
@[simp] theorem State.bumpReg_trust (s : State) (a h l k : Nat) : (s.bumpReg a h l k).trust = s.trust := rfl
@[simp] theorem State.bumpReg_breach (s : State) (a h l k : Nat) : (s.bumpReg a h l k).breach = s.breach := rfl
@[simp] theorem State.bumpReg_wlog (s : State) (a h l k : Nat) : (s.bumpReg a h l k).wlog = s.wlog := rfl
@[simp] theorem State.bumpReg_reds (s : State) (a h l k : Nat) : (s.bumpReg a h l k).reds = s.reds := rfl

@[simp] theorem State.fresh_agenda (s : State) : s.fresh.agenda = s.agenda := rfl
@[simp] theorem State.fresh_turns (s : State) : s.fresh.turns = s.turns := rfl
@[simp] theorem State.fresh_cur (s : State) : s.fresh.cur = s.cur := rfl
@[simp] theorem State.fresh_rot (s : State) : s.fresh.rot = s.rot := rfl
@[simp] theorem State.fresh_free (s : State) : s.fresh.free = s.free + 1 := rfl
@[simp] theorem State.fresh_outbox (s : State) : s.fresh.outbox = s.outbox := rfl
@[simp] theorem State.fresh_mem (s : State) : s.fresh.mem = s.mem := rfl
@[simp] theorem State.fresh_hostMem (s : State) : s.fresh.hostMem = s.hostMem := rfl
@[simp] theorem State.fresh_peerMem (s : State) : s.fresh.peerMem = s.peerMem := rfl
@[simp] theorem State.fresh_poison (s : State) : s.fresh.poison = s.poison := rfl
@[simp] theorem State.fresh_regs (s : State) : s.fresh.regs = s.regs := rfl
@[simp] theorem State.fresh_time (s : State) : s.fresh.time = s.time := rfl
@[simp] theorem State.fresh_ticks (s : State) : s.fresh.ticks = s.ticks := rfl
@[simp] theorem State.fresh_rt (s : State) : s.fresh.rt = s.rt := rfl
@[simp] theorem State.fresh_rtOld (s : State) : s.fresh.rtOld = s.rtOld := rfl
@[simp] theorem State.fresh_gens (s : State) : s.fresh.gens = s.gens := rfl
@[simp] theorem State.fresh_markers (s : State) : s.fresh.markers = s.markers := rfl
@[simp] theorem State.fresh_mesh (s : State) : s.fresh.mesh = s.mesh := rfl
@[simp] theorem State.fresh_prims (s : State) : s.fresh.prims = s.prims := rfl
@[simp] theorem State.fresh_tokens (s : State) : s.fresh.tokens = s.tokens := rfl
@[simp] theorem State.fresh_coh (s : State) : s.fresh.coh = s.coh := rfl
@[simp] theorem State.fresh_census (s : State) : s.fresh.census = s.census := rfl
@[simp] theorem State.fresh_dies (s : State) : s.fresh.dies = s.dies := rfl
@[simp] theorem State.fresh_cores (s : State) : s.fresh.cores = s.cores := rfl
@[simp] theorem State.fresh_warps (s : State) : s.fresh.warps = s.warps := rfl
@[simp] theorem State.fresh_hub (s : State) : s.fresh.hub = s.hub := rfl
@[simp] theorem State.fresh_trust (s : State) : s.fresh.trust = s.trust := rfl
@[simp] theorem State.fresh_breach (s : State) : s.fresh.breach = s.breach := rfl
@[simp] theorem State.fresh_wlog (s : State) : s.fresh.wlog = s.wlog := rfl
@[simp] theorem State.fresh_reds (s : State) : s.fresh.reds = s.reds := rfl

@[simp] theorem State.setCore_warp (s : State) (a b : Nat) (c : Core) (i j q : Nat) : (s.setCore a b c).warp i j q = s.warp i j q := rfl
@[simp] theorem State.setCore_wref (s : State) (a b : Nat) (c : Core) (q : WRef) : (s.setCore a b c).wref q = s.wref q := rfl
@[simp] theorem State.setCore_die (s : State) (a b : Nat) (c : Core) (i : Nat) : (s.setCore a b c).die i = s.die i := rfl
@[simp] theorem State.setCore_team (s : State) (a b : Nat) (c : Core) (i : Nat) : (s.setCore a b c).team i = s.team i := rfl
@[simp] theorem State.setCore_grid (s : State) (a b : Nat) (c : Core) (i : Nat) : (s.setCore a b c).grid i = s.grid i := rfl
@[simp] theorem State.setCore_reg (s : State) (a b : Nat) (c : Core) (i : Nat) : (s.setCore a b c).reg i = s.reg i := rfl
@[simp] theorem State.setCore_regF (s : State) (a b : Nat) (c : Core) (i j q : Nat) : (s.setCore a b c).regF i j q = s.regF i j q := rfl
@[simp] theorem State.setCore_curRef (s : State) (a b : Nat) (c : Core) : (s.setCore a b c).curRef = s.curRef := rfl
@[simp] theorem State.setCore_curW (s : State) (a b : Nat) (c : Core) : (s.setCore a b c).curW = s.curW := rfl

@[simp] theorem State.setC_warp (s : State) (c : Core) (i j q : Nat) : (s.setC c).warp i j q = s.warp i j q := rfl
@[simp] theorem State.setC_wref (s : State) (c : Core) (q : WRef) : (s.setC c).wref q = s.wref q := rfl
@[simp] theorem State.setC_die (s : State) (c : Core) (i : Nat) : (s.setC c).die i = s.die i := rfl
@[simp] theorem State.setC_team (s : State) (c : Core) (i : Nat) : (s.setC c).team i = s.team i := rfl
@[simp] theorem State.setC_grid (s : State) (c : Core) (i : Nat) : (s.setC c).grid i = s.grid i := rfl
@[simp] theorem State.setC_reg (s : State) (c : Core) (i : Nat) : (s.setC c).reg i = s.reg i := rfl
@[simp] theorem State.setC_regF (s : State) (c : Core) (i j q : Nat) : (s.setC c).regF i j q = s.regF i j q := rfl
@[simp] theorem State.setC_curRef (s : State) (c : Core) : (s.setC c).curRef = s.curRef := rfl
@[simp] theorem State.setC_curW (s : State) (c : Core) : (s.setC c).curW = s.curW := rfl

@[simp] theorem State.setWarp_core (s : State) (a b c : Nat) (w : Warp) (i j : Nat) : (s.setWarp a b c w).core i j = s.core i j := rfl
@[simp] theorem State.setWarp_die (s : State) (a b c : Nat) (w : Warp) (i : Nat) : (s.setWarp a b c w).die i = s.die i := rfl
@[simp] theorem State.setWarp_team (s : State) (a b c : Nat) (w : Warp) (i : Nat) : (s.setWarp a b c w).team i = s.team i := rfl
@[simp] theorem State.setWarp_grid (s : State) (a b c : Nat) (w : Warp) (i : Nat) : (s.setWarp a b c w).grid i = s.grid i := rfl
@[simp] theorem State.setWarp_reg (s : State) (a b c : Nat) (w : Warp) (i : Nat) : (s.setWarp a b c w).reg i = s.reg i := rfl
@[simp] theorem State.setWarp_regF (s : State) (a b c : Nat) (w : Warp) (i j q : Nat) : (s.setWarp a b c w).regF i j q = s.regF i j q := rfl
@[simp] theorem State.setWarp_curRef (s : State) (a b c : Nat) (w : Warp) : (s.setWarp a b c w).curRef = s.curRef := rfl
@[simp] theorem State.setWarp_curCore (s : State) (a b c : Nat) (w : Warp) : (s.setWarp a b c w).curCore = s.curCore := rfl

@[simp] theorem State.setWref_core (s : State) (r : WRef) (w : Warp) (i j : Nat) : (s.setWref r w).core i j = s.core i j := rfl
@[simp] theorem State.setWref_die (s : State) (r : WRef) (w : Warp) (i : Nat) : (s.setWref r w).die i = s.die i := rfl
@[simp] theorem State.setWref_team (s : State) (r : WRef) (w : Warp) (i : Nat) : (s.setWref r w).team i = s.team i := rfl
@[simp] theorem State.setWref_grid (s : State) (r : WRef) (w : Warp) (i : Nat) : (s.setWref r w).grid i = s.grid i := rfl
@[simp] theorem State.setWref_reg (s : State) (r : WRef) (w : Warp) (i : Nat) : (s.setWref r w).reg i = s.reg i := rfl
@[simp] theorem State.setWref_regF (s : State) (r : WRef) (w : Warp) (i j q : Nat) : (s.setWref r w).regF i j q = s.regF i j q := rfl
@[simp] theorem State.setWref_curRef (s : State) (r : WRef) (w : Warp) : (s.setWref r w).curRef = s.curRef := rfl
@[simp] theorem State.setWref_curCore (s : State) (r : WRef) (w : Warp) : (s.setWref r w).curCore = s.curCore := rfl

@[simp] theorem State.setW_core (s : State) (w : Warp) (i j : Nat) : (s.setW w).core i j = s.core i j := rfl
@[simp] theorem State.setW_die (s : State) (w : Warp) (i : Nat) : (s.setW w).die i = s.die i := rfl
@[simp] theorem State.setW_team (s : State) (w : Warp) (i : Nat) : (s.setW w).team i = s.team i := rfl
@[simp] theorem State.setW_grid (s : State) (w : Warp) (i : Nat) : (s.setW w).grid i = s.grid i := rfl
@[simp] theorem State.setW_reg (s : State) (w : Warp) (i : Nat) : (s.setW w).reg i = s.reg i := rfl
@[simp] theorem State.setW_regF (s : State) (w : Warp) (i j q : Nat) : (s.setW w).regF i j q = s.regF i j q := rfl
@[simp] theorem State.setW_curRef (s : State) (w : Warp) : (s.setW w).curRef = s.curRef := rfl
@[simp] theorem State.setW_curCore (s : State) (w : Warp) : (s.setW w).curCore = s.curCore := rfl

@[simp] theorem State.setDie_core (s : State) (a : Nat) (d : Die) (i j : Nat) : (s.setDie a d).core i j = s.core i j := rfl
@[simp] theorem State.setDie_warp (s : State) (a : Nat) (d : Die) (i j q : Nat) : (s.setDie a d).warp i j q = s.warp i j q := rfl
@[simp] theorem State.setDie_wref (s : State) (a : Nat) (d : Die) (q : WRef) : (s.setDie a d).wref q = s.wref q := rfl
@[simp] theorem State.setDie_team (s : State) (a : Nat) (d : Die) (i : Nat) : (s.setDie a d).team i = s.team i := rfl
@[simp] theorem State.setDie_grid (s : State) (a : Nat) (d : Die) (i : Nat) : (s.setDie a d).grid i = s.grid i := rfl
@[simp] theorem State.setDie_reg (s : State) (a : Nat) (d : Die) (i : Nat) : (s.setDie a d).reg i = s.reg i := rfl
@[simp] theorem State.setDie_regF (s : State) (a : Nat) (d : Die) (i j q : Nat) : (s.setDie a d).regF i j q = s.regF i j q := rfl
@[simp] theorem State.setDie_curRef (s : State) (a : Nat) (d : Die) : (s.setDie a d).curRef = s.curRef := rfl
@[simp] theorem State.setDie_curW (s : State) (a : Nat) (d : Die) : (s.setDie a d).curW = s.curW := rfl
@[simp] theorem State.setDie_curCore (s : State) (a : Nat) (d : Die) : (s.setDie a d).curCore = s.curCore := rfl

@[simp] theorem State.setTeam_core (s : State) (a : Nat) (x : Team) (i j : Nat) : (s.setTeam a x).core i j = s.core i j := rfl
@[simp] theorem State.setTeam_warp (s : State) (a : Nat) (x : Team) (i j q : Nat) : (s.setTeam a x).warp i j q = s.warp i j q := rfl
@[simp] theorem State.setTeam_wref (s : State) (a : Nat) (x : Team) (q : WRef) : (s.setTeam a x).wref q = s.wref q := rfl
@[simp] theorem State.setTeam_die (s : State) (a : Nat) (x : Team) (i : Nat) : (s.setTeam a x).die i = s.die i := rfl
@[simp] theorem State.setTeam_grid (s : State) (a : Nat) (x : Team) (i : Nat) : (s.setTeam a x).grid i = s.grid i := rfl
@[simp] theorem State.setTeam_reg (s : State) (a : Nat) (x : Team) (i : Nat) : (s.setTeam a x).reg i = s.reg i := rfl
@[simp] theorem State.setTeam_regF (s : State) (a : Nat) (x : Team) (i j q : Nat) : (s.setTeam a x).regF i j q = s.regF i j q := rfl
@[simp] theorem State.setTeam_curRef (s : State) (a : Nat) (x : Team) : (s.setTeam a x).curRef = s.curRef := rfl
@[simp] theorem State.setTeam_curW (s : State) (a : Nat) (x : Team) : (s.setTeam a x).curW = s.curW := rfl
@[simp] theorem State.setTeam_curCore (s : State) (a : Nat) (x : Team) : (s.setTeam a x).curCore = s.curCore := rfl

@[simp] theorem State.setGrid_core (s : State) (a : Nat) (x : Grid) (i j : Nat) : (s.setGrid a x).core i j = s.core i j := rfl
@[simp] theorem State.setGrid_warp (s : State) (a : Nat) (x : Grid) (i j q : Nat) : (s.setGrid a x).warp i j q = s.warp i j q := rfl
@[simp] theorem State.setGrid_wref (s : State) (a : Nat) (x : Grid) (q : WRef) : (s.setGrid a x).wref q = s.wref q := rfl
@[simp] theorem State.setGrid_die (s : State) (a : Nat) (x : Grid) (i : Nat) : (s.setGrid a x).die i = s.die i := rfl
@[simp] theorem State.setGrid_team (s : State) (a : Nat) (x : Grid) (i : Nat) : (s.setGrid a x).team i = s.team i := rfl
@[simp] theorem State.setGrid_reg (s : State) (a : Nat) (x : Grid) (i : Nat) : (s.setGrid a x).reg i = s.reg i := rfl
@[simp] theorem State.setGrid_regF (s : State) (a : Nat) (x : Grid) (i j q : Nat) : (s.setGrid a x).regF i j q = s.regF i j q := rfl
@[simp] theorem State.setGrid_curRef (s : State) (a : Nat) (x : Grid) : (s.setGrid a x).curRef = s.curRef := rfl
@[simp] theorem State.setGrid_curW (s : State) (a : Nat) (x : Grid) : (s.setGrid a x).curW = s.curW := rfl
@[simp] theorem State.setGrid_curCore (s : State) (a : Nat) (x : Grid) : (s.setGrid a x).curCore = s.curCore := rfl

@[simp] theorem State.setReg_core (s : State) (a : Nat) (v : DWord) (i j : Nat) : (s.setReg a v).core i j = s.core i j := rfl
@[simp] theorem State.setReg_warp (s : State) (a : Nat) (v : DWord) (i j q : Nat) : (s.setReg a v).warp i j q = s.warp i j q := rfl
@[simp] theorem State.setReg_wref (s : State) (a : Nat) (v : DWord) (q : WRef) : (s.setReg a v).wref q = s.wref q := rfl
@[simp] theorem State.setReg_die (s : State) (a : Nat) (v : DWord) (i : Nat) : (s.setReg a v).die i = s.die i := rfl
@[simp] theorem State.setReg_team (s : State) (a : Nat) (v : DWord) (i : Nat) : (s.setReg a v).team i = s.team i := rfl
@[simp] theorem State.setReg_grid (s : State) (a : Nat) (v : DWord) (i : Nat) : (s.setReg a v).grid i = s.grid i := rfl
@[simp] theorem State.setReg_curRef (s : State) (a : Nat) (v : DWord) : (s.setReg a v).curRef = s.curRef := rfl
@[simp] theorem State.setReg_curW (s : State) (a : Nat) (v : DWord) : (s.setReg a v).curW = s.curW := rfl
@[simp] theorem State.setReg_curCore (s : State) (a : Nat) (v : DWord) : (s.setReg a v).curCore = s.curCore := rfl

@[simp] theorem State.setRegF_core (s : State) (a h l x : Nat) (i j : Nat) : (s.setRegF a h l x).core i j = s.core i j := rfl
@[simp] theorem State.setRegF_warp (s : State) (a h l x : Nat) (i j q : Nat) : (s.setRegF a h l x).warp i j q = s.warp i j q := rfl
@[simp] theorem State.setRegF_wref (s : State) (a h l x : Nat) (q : WRef) : (s.setRegF a h l x).wref q = s.wref q := rfl
@[simp] theorem State.setRegF_die (s : State) (a h l x : Nat) (i : Nat) : (s.setRegF a h l x).die i = s.die i := rfl
@[simp] theorem State.setRegF_team (s : State) (a h l x : Nat) (i : Nat) : (s.setRegF a h l x).team i = s.team i := rfl
@[simp] theorem State.setRegF_grid (s : State) (a h l x : Nat) (i : Nat) : (s.setRegF a h l x).grid i = s.grid i := rfl
@[simp] theorem State.setRegF_curRef (s : State) (a h l x : Nat) : (s.setRegF a h l x).curRef = s.curRef := rfl
@[simp] theorem State.setRegF_curW (s : State) (a h l x : Nat) : (s.setRegF a h l x).curW = s.curW := rfl
@[simp] theorem State.setRegF_curCore (s : State) (a h l x : Nat) : (s.setRegF a h l x).curCore = s.curCore := rfl

@[simp] theorem State.bumpReg_core (s : State) (a h l k : Nat) (i j : Nat) : (s.bumpReg a h l k).core i j = s.core i j := rfl
@[simp] theorem State.bumpReg_warp (s : State) (a h l k : Nat) (i j q : Nat) : (s.bumpReg a h l k).warp i j q = s.warp i j q := rfl
@[simp] theorem State.bumpReg_wref (s : State) (a h l k : Nat) (q : WRef) : (s.bumpReg a h l k).wref q = s.wref q := rfl
@[simp] theorem State.bumpReg_die (s : State) (a h l k : Nat) (i : Nat) : (s.bumpReg a h l k).die i = s.die i := rfl
@[simp] theorem State.bumpReg_team (s : State) (a h l k : Nat) (i : Nat) : (s.bumpReg a h l k).team i = s.team i := rfl
@[simp] theorem State.bumpReg_grid (s : State) (a h l k : Nat) (i : Nat) : (s.bumpReg a h l k).grid i = s.grid i := rfl
@[simp] theorem State.bumpReg_curRef (s : State) (a h l k : Nat) : (s.bumpReg a h l k).curRef = s.curRef := rfl
@[simp] theorem State.bumpReg_curW (s : State) (a h l k : Nat) : (s.bumpReg a h l k).curW = s.curW := rfl
@[simp] theorem State.bumpReg_curCore (s : State) (a h l k : Nat) : (s.bumpReg a h l k).curCore = s.curCore := rfl

@[simp] theorem State.fresh_core (s : State) (i j : Nat) : s.fresh.core i j = s.core i j := rfl
@[simp] theorem State.fresh_warp (s : State) (i j q : Nat) : s.fresh.warp i j q = s.warp i j q := rfl
@[simp] theorem State.fresh_wref (s : State) (q : WRef) : s.fresh.wref q = s.wref q := rfl
@[simp] theorem State.fresh_die (s : State) (i : Nat) : s.fresh.die i = s.die i := rfl
@[simp] theorem State.fresh_team (s : State) (i : Nat) : s.fresh.team i = s.team i := rfl
@[simp] theorem State.fresh_grid (s : State) (i : Nat) : s.fresh.grid i = s.grid i := rfl
@[simp] theorem State.fresh_reg (s : State) (i : Nat) : s.fresh.reg i = s.reg i := rfl
@[simp] theorem State.fresh_regF (s : State) (i j q : Nat) : s.fresh.regF i j q = s.regF i j q := rfl
@[simp] theorem State.fresh_curRef (s : State) : s.fresh.curRef = s.curRef := rfl
@[simp] theorem State.fresh_curW (s : State) : s.fresh.curW = s.curW := rfl
@[simp] theorem State.fresh_curCore (s : State) : s.fresh.curCore = s.curCore := rfl

/-! Warps: the step to the next word. -/
@[simp] theorem Warp.step_resident (w : Warp) : w.step.resident = w.resident := rfl
@[simp] theorem Warp.step_team (w : Warp) : w.step.team = w.team := rfl
@[simp] theorem Warp.step_wid (w : Warp) : w.step.wid = w.wid := rfl
@[simp] theorem Warp.step_shadow (w : Warp) : w.step.shadow = w.shadow := rfl
@[simp] theorem Warp.step_mate (w : Warp) : w.step.mate = w.mate := rfl
@[simp] theorem Warp.step_s (w : Warp) : w.step.s = w.s := rfl
@[simp] theorem Warp.step_pc (w : Warp) : w.step.pc = w.pc + 1 := rfl
@[simp] theorem Warp.step_p (w : Warp) : w.step.p = w.p := rfl
@[simp] theorem Warp.step_t (w : Warp) : w.step.t = w.t := rfl
@[simp] theorem Warp.step_tWr (w : Warp) : w.step.tWr = w.tWr := rfl
@[simp] theorem Warp.step_lane (w : Warp) : w.step.lane = w.lane := rfl
@[simp] theorem Warp.step_exited (w : Warp) : w.step.exited = w.exited := rfl
@[simp] theorem Warp.step_queue (w : Warp) : w.step.queue = w.queue := rfl
@[simp] theorem Warp.step_running (w : Warp) : w.step.running = w.running := rfl
@[simp] theorem Warp.step_lastOne (w : Warp) : w.step.lastOne = w.lastOne := rfl
@[simp] theorem Warp.step_park (w : Warp) : w.step.park = .none := rfl
@[simp] theorem Warp.step_parkAt (w : Warp) : w.step.parkAt = w.parkAt := rfl
@[simp] theorem Warp.step_resAt (w : Warp) : w.step.resAt = w.resAt := rfl
@[simp] theorem Warp.step_cnt (w : Warp) : w.step.cnt = w.cnt := rfl
@[simp] theorem Warp.step_ops (w : Warp) : w.step.ops = w.ops := rfl
@[simp] theorem Warp.step_tag (w : Warp) : w.step.tag = w.tag := rfl
@[simp] theorem Warp.step_haz (w : Warp) : w.step.haz = w.haz := rfl
@[simp] theorem Warp.step_ldHaz (w : Warp) : w.step.ldHaz = w.ldHaz := rfl
@[simp] theorem Warp.step_tcause (w : Warp) : w.step.tcause = w.tcause := rfl
@[simp] theorem Warp.step_tpc (w : Warp) : w.step.tpc = w.tpc := rfl
@[simp] theorem Warp.step_tlpc (w : Warp) : w.step.tlpc = w.tlpc := rfl
@[simp] theorem Warp.step_tamask (w : Warp) : w.step.tamask = w.tamask := rfl
@[simp] theorem Warp.step_tfmask (w : Warp) : w.step.tfmask = w.tfmask := rfl
@[simp] theorem Warp.step_taddr (w : Warp) : w.step.taddr = w.taddr := rfl
@[simp] theorem Warp.step_tinfo (w : Warp) : w.step.tinfo = w.tinfo := rfl
@[simp] theorem Warp.step_hflag (w : Warp) : w.step.hflag = w.hflag := rfl
@[simp] theorem Warp.step_aside (w : Warp) : w.step.aside = w.aside := rfl
@[simp] theorem Warp.step_inRgn (w : Warp) : w.step.inRgn = w.inRgn := rfl
@[simp] theorem Warp.step_restarts (w : Warp) : w.step.restarts = w.restarts := rfl
@[simp] theorem Warp.step_snapPc (w : Warp) : w.step.snapPc = w.snapPc := rfl
@[simp] theorem Warp.step_snap (w : Warp) : w.step.snap = w.snap := rfl
@[simp] theorem Warp.step_watch (w : Warp) : w.step.watch = w.watch := rfl
@[simp] theorem Warp.step_recs (w : Warp) : w.step.recs = w.recs := rfl
@[simp] theorem Warp.step_guard (w : Warp) : w.step.guard = w.guard := rfl
@[simp] theorem Warp.step_throt (w : Warp) : w.step.throt = w.throt := rfl
@[simp] theorem Warp.step_pinned (w : Warp) : w.step.pinned = w.pinned := rfl
@[simp] theorem Warp.step_startWin (w : Warp) : w.step.startWin = w.startWin := rfl
@[simp] theorem Warp.step_readySince (w : Warp) : w.step.readySince = w.readySince := rfl
@[simp] theorem Warp.step_oldest (w : Warp) : w.step.oldest = w.oldest := rfl
@[simp] theorem Warp.step_lvq (w : Warp) : w.step.lvq = w.lvq := rfl
@[simp] theorem Warp.step_sscb (w : Warp) : w.step.sscb = w.sscb := rfl
@[simp] theorem Warp.step_sigs (w : Warp) : w.step.sigs = w.sigs := rfl
@[simp] theorem Warp.step_trace (w : Warp) : w.step.trace = w.trace := rfl
@[simp] theorem Warp.step_clks (w : Warp) : w.step.clks = w.clks := rfl
@[simp] theorem Warp.step_nS (w : Warp) : w.step.nS = w.nS := rfl
@[simp] theorem Warp.step_nL (w : Warp) : w.step.nL = w.nL := rfl
@[simp] theorem Warp.step_leadS (w : Warp) : w.step.leadS = w.leadS := rfl
@[simp] theorem Warp.step_leadL (w : Warp) : w.step.leadL = w.leadL := rfl
@[simp] theorem Warp.step_signed (w : Warp) : w.step.signed = w.signed := rfl
@[simp] theorem Warp.step_prim (w : Warp) : w.step.prim = w.prim := rfl
@[simp] theorem Warp.step_batch (w : Warp) : w.step.batch = w.batch := rfl
@[simp] theorem Warp.step_binWait (w : Warp) : w.step.binWait = w.binWait := rfl
@[simp] theorem Warp.step_joins (w : Warp) : w.step.joins = w.joins := rfl
@[simp] theorem Warp.step_parkPast (w : Warp) : w.step.parkPast = w.parkPast := rfl
@[simp] theorem Warp.step_drainAt (w : Warp) : w.step.drainAt = w.drainAt := rfl
@[simp] theorem Warp.step_restAt (w : Warp) : w.step.restAt = w.restAt := rfl
@[simp] theorem Warp.step_sSince (w : Warp) : w.step.sSince = w.sSince := rfl
@[simp] theorem Warp.step_sOldest (w : Warp) : w.step.sOldest = w.sOldest := rfl

/-! Warps: a scalar register is written. -/
@[simp] theorem Warp.wr_resident (w : Warp) (r : BitVec 6) (v : Word) : (w.wr r v).resident = w.resident := by unfold Warp.wr; split <;> rfl
@[simp] theorem Warp.wr_team (w : Warp) (r : BitVec 6) (v : Word) : (w.wr r v).team = w.team := by unfold Warp.wr; split <;> rfl
@[simp] theorem Warp.wr_wid (w : Warp) (r : BitVec 6) (v : Word) : (w.wr r v).wid = w.wid := by unfold Warp.wr; split <;> rfl
@[simp] theorem Warp.wr_shadow (w : Warp) (r : BitVec 6) (v : Word) : (w.wr r v).shadow = w.shadow := by unfold Warp.wr; split <;> rfl
@[simp] theorem Warp.wr_mate (w : Warp) (r : BitVec 6) (v : Word) : (w.wr r v).mate = w.mate := by unfold Warp.wr; split <;> rfl
@[simp] theorem Warp.wr_pc (w : Warp) (r : BitVec 6) (v : Word) : (w.wr r v).pc = w.pc := by unfold Warp.wr; split <;> rfl
@[simp] theorem Warp.wr_p (w : Warp) (r : BitVec 6) (v : Word) : (w.wr r v).p = w.p := by unfold Warp.wr; split <;> rfl
@[simp] theorem Warp.wr_t (w : Warp) (r : BitVec 6) (v : Word) : (w.wr r v).t = w.t := by unfold Warp.wr; split <;> rfl
@[simp] theorem Warp.wr_tWr (w : Warp) (r : BitVec 6) (v : Word) : (w.wr r v).tWr = w.tWr := by unfold Warp.wr; split <;> rfl
@[simp] theorem Warp.wr_lane (w : Warp) (r : BitVec 6) (v : Word) : (w.wr r v).lane = w.lane := by unfold Warp.wr; split <;> rfl
@[simp] theorem Warp.wr_exited (w : Warp) (r : BitVec 6) (v : Word) : (w.wr r v).exited = w.exited := by unfold Warp.wr; split <;> rfl
@[simp] theorem Warp.wr_queue (w : Warp) (r : BitVec 6) (v : Word) : (w.wr r v).queue = w.queue := by unfold Warp.wr; split <;> rfl
@[simp] theorem Warp.wr_running (w : Warp) (r : BitVec 6) (v : Word) : (w.wr r v).running = w.running := by unfold Warp.wr; split <;> rfl
@[simp] theorem Warp.wr_lastOne (w : Warp) (r : BitVec 6) (v : Word) : (w.wr r v).lastOne = w.lastOne := by unfold Warp.wr; split <;> rfl
@[simp] theorem Warp.wr_park (w : Warp) (r : BitVec 6) (v : Word) : (w.wr r v).park = w.park := by unfold Warp.wr; split <;> rfl
@[simp] theorem Warp.wr_parkAt (w : Warp) (r : BitVec 6) (v : Word) : (w.wr r v).parkAt = w.parkAt := by unfold Warp.wr; split <;> rfl
@[simp] theorem Warp.wr_resAt (w : Warp) (r : BitVec 6) (v : Word) : (w.wr r v).resAt = w.resAt := by unfold Warp.wr; split <;> rfl
@[simp] theorem Warp.wr_cnt (w : Warp) (r : BitVec 6) (v : Word) : (w.wr r v).cnt = w.cnt := by unfold Warp.wr; split <;> rfl
@[simp] theorem Warp.wr_ops (w : Warp) (r : BitVec 6) (v : Word) : (w.wr r v).ops = w.ops := by unfold Warp.wr; split <;> rfl
@[simp] theorem Warp.wr_tag (w : Warp) (r : BitVec 6) (v : Word) : (w.wr r v).tag = w.tag := by unfold Warp.wr; split <;> rfl
@[simp] theorem Warp.wr_haz (w : Warp) (r : BitVec 6) (v : Word) : (w.wr r v).haz = w.haz := by unfold Warp.wr; split <;> rfl
@[simp] theorem Warp.wr_ldHaz (w : Warp) (r : BitVec 6) (v : Word) : (w.wr r v).ldHaz = w.ldHaz := by unfold Warp.wr; split <;> rfl
@[simp] theorem Warp.wr_tcause (w : Warp) (r : BitVec 6) (v : Word) : (w.wr r v).tcause = w.tcause := by unfold Warp.wr; split <;> rfl
@[simp] theorem Warp.wr_tpc (w : Warp) (r : BitVec 6) (v : Word) : (w.wr r v).tpc = w.tpc := by unfold Warp.wr; split <;> rfl
@[simp] theorem Warp.wr_tlpc (w : Warp) (r : BitVec 6) (v : Word) : (w.wr r v).tlpc = w.tlpc := by unfold Warp.wr; split <;> rfl
@[simp] theorem Warp.wr_tamask (w : Warp) (r : BitVec 6) (v : Word) : (w.wr r v).tamask = w.tamask := by unfold Warp.wr; split <;> rfl
@[simp] theorem Warp.wr_tfmask (w : Warp) (r : BitVec 6) (v : Word) : (w.wr r v).tfmask = w.tfmask := by unfold Warp.wr; split <;> rfl
@[simp] theorem Warp.wr_taddr (w : Warp) (r : BitVec 6) (v : Word) : (w.wr r v).taddr = w.taddr := by unfold Warp.wr; split <;> rfl
@[simp] theorem Warp.wr_tinfo (w : Warp) (r : BitVec 6) (v : Word) : (w.wr r v).tinfo = w.tinfo := by unfold Warp.wr; split <;> rfl
@[simp] theorem Warp.wr_hflag (w : Warp) (r : BitVec 6) (v : Word) : (w.wr r v).hflag = w.hflag := by unfold Warp.wr; split <;> rfl
@[simp] theorem Warp.wr_aside (w : Warp) (r : BitVec 6) (v : Word) : (w.wr r v).aside = w.aside := by unfold Warp.wr; split <;> rfl
@[simp] theorem Warp.wr_inRgn (w : Warp) (r : BitVec 6) (v : Word) : (w.wr r v).inRgn = w.inRgn := by unfold Warp.wr; split <;> rfl
@[simp] theorem Warp.wr_restarts (w : Warp) (r : BitVec 6) (v : Word) : (w.wr r v).restarts = w.restarts := by unfold Warp.wr; split <;> rfl
@[simp] theorem Warp.wr_snapPc (w : Warp) (r : BitVec 6) (v : Word) : (w.wr r v).snapPc = w.snapPc := by unfold Warp.wr; split <;> rfl
@[simp] theorem Warp.wr_snap (w : Warp) (r : BitVec 6) (v : Word) : (w.wr r v).snap = w.snap := by unfold Warp.wr; split <;> rfl
@[simp] theorem Warp.wr_watch (w : Warp) (r : BitVec 6) (v : Word) : (w.wr r v).watch = w.watch := by unfold Warp.wr; split <;> rfl
@[simp] theorem Warp.wr_recs (w : Warp) (r : BitVec 6) (v : Word) : (w.wr r v).recs = w.recs := by unfold Warp.wr; split <;> rfl
@[simp] theorem Warp.wr_guard (w : Warp) (r : BitVec 6) (v : Word) : (w.wr r v).guard = w.guard := by unfold Warp.wr; split <;> rfl
@[simp] theorem Warp.wr_throt (w : Warp) (r : BitVec 6) (v : Word) : (w.wr r v).throt = w.throt := by unfold Warp.wr; split <;> rfl
@[simp] theorem Warp.wr_pinned (w : Warp) (r : BitVec 6) (v : Word) : (w.wr r v).pinned = w.pinned := by unfold Warp.wr; split <;> rfl
@[simp] theorem Warp.wr_startWin (w : Warp) (r : BitVec 6) (v : Word) : (w.wr r v).startWin = w.startWin := by unfold Warp.wr; split <;> rfl
@[simp] theorem Warp.wr_readySince (w : Warp) (r : BitVec 6) (v : Word) : (w.wr r v).readySince = w.readySince := by unfold Warp.wr; split <;> rfl
@[simp] theorem Warp.wr_oldest (w : Warp) (r : BitVec 6) (v : Word) : (w.wr r v).oldest = w.oldest := by unfold Warp.wr; split <;> rfl
@[simp] theorem Warp.wr_lvq (w : Warp) (r : BitVec 6) (v : Word) : (w.wr r v).lvq = w.lvq := by unfold Warp.wr; split <;> rfl
@[simp] theorem Warp.wr_sscb (w : Warp) (r : BitVec 6) (v : Word) : (w.wr r v).sscb = w.sscb := by unfold Warp.wr; split <;> rfl
@[simp] theorem Warp.wr_sigs (w : Warp) (r : BitVec 6) (v : Word) : (w.wr r v).sigs = w.sigs := by unfold Warp.wr; split <;> rfl
@[simp] theorem Warp.wr_trace (w : Warp) (r : BitVec 6) (v : Word) : (w.wr r v).trace = w.trace := by unfold Warp.wr; split <;> rfl
@[simp] theorem Warp.wr_clks (w : Warp) (r : BitVec 6) (v : Word) : (w.wr r v).clks = w.clks := by unfold Warp.wr; split <;> rfl
@[simp] theorem Warp.wr_nS (w : Warp) (r : BitVec 6) (v : Word) : (w.wr r v).nS = w.nS := by unfold Warp.wr; split <;> rfl
@[simp] theorem Warp.wr_nL (w : Warp) (r : BitVec 6) (v : Word) : (w.wr r v).nL = w.nL := by unfold Warp.wr; split <;> rfl
@[simp] theorem Warp.wr_leadS (w : Warp) (r : BitVec 6) (v : Word) : (w.wr r v).leadS = w.leadS := by unfold Warp.wr; split <;> rfl
@[simp] theorem Warp.wr_leadL (w : Warp) (r : BitVec 6) (v : Word) : (w.wr r v).leadL = w.leadL := by unfold Warp.wr; split <;> rfl
@[simp] theorem Warp.wr_signed (w : Warp) (r : BitVec 6) (v : Word) : (w.wr r v).signed = w.signed := by unfold Warp.wr; split <;> rfl
@[simp] theorem Warp.wr_prim (w : Warp) (r : BitVec 6) (v : Word) : (w.wr r v).prim = w.prim := by unfold Warp.wr; split <;> rfl
@[simp] theorem Warp.wr_batch (w : Warp) (r : BitVec 6) (v : Word) : (w.wr r v).batch = w.batch := by unfold Warp.wr; split <;> rfl
@[simp] theorem Warp.wr_binWait (w : Warp) (r : BitVec 6) (v : Word) : (w.wr r v).binWait = w.binWait := by unfold Warp.wr; split <;> rfl
@[simp] theorem Warp.wr_joins (w : Warp) (r : BitVec 6) (v : Word) : (w.wr r v).joins = w.joins := by unfold Warp.wr; split <;> rfl
@[simp] theorem Warp.wr_parkPast (w : Warp) (r : BitVec 6) (v : Word) : (w.wr r v).parkPast = w.parkPast := by unfold Warp.wr; split <;> rfl
@[simp] theorem Warp.wr_drainAt (w : Warp) (r : BitVec 6) (v : Word) : (w.wr r v).drainAt = w.drainAt := by unfold Warp.wr; split <;> rfl
@[simp] theorem Warp.wr_restAt (w : Warp) (r : BitVec 6) (v : Word) : (w.wr r v).restAt = w.restAt := by unfold Warp.wr; split <;> rfl
@[simp] theorem Warp.wr_sSince (w : Warp) (r : BitVec 6) (v : Word) : (w.wr r v).sSince = w.sSince := by unfold Warp.wr; split <;> rfl
@[simp] theorem Warp.wr_sOldest (w : Warp) (r : BitVec 6) (v : Word) : (w.wr r v).sOldest = w.sOldest := by unfold Warp.wr; split <;> rfl
@[simp] theorem Warp.wrPair_resident (w : Warp) (r : BitVec 6) (v : DWord) : (w.wrPair r v).resident = w.resident := by simp [Warp.wrPair]
@[simp] theorem Warp.wrPair_team (w : Warp) (r : BitVec 6) (v : DWord) : (w.wrPair r v).team = w.team := by simp [Warp.wrPair]
@[simp] theorem Warp.wrPair_wid (w : Warp) (r : BitVec 6) (v : DWord) : (w.wrPair r v).wid = w.wid := by simp [Warp.wrPair]
@[simp] theorem Warp.wrPair_shadow (w : Warp) (r : BitVec 6) (v : DWord) : (w.wrPair r v).shadow = w.shadow := by simp [Warp.wrPair]
@[simp] theorem Warp.wrPair_mate (w : Warp) (r : BitVec 6) (v : DWord) : (w.wrPair r v).mate = w.mate := by simp [Warp.wrPair]
@[simp] theorem Warp.wrPair_pc (w : Warp) (r : BitVec 6) (v : DWord) : (w.wrPair r v).pc = w.pc := by simp [Warp.wrPair]
@[simp] theorem Warp.wrPair_p (w : Warp) (r : BitVec 6) (v : DWord) : (w.wrPair r v).p = w.p := by simp [Warp.wrPair]
@[simp] theorem Warp.wrPair_t (w : Warp) (r : BitVec 6) (v : DWord) : (w.wrPair r v).t = w.t := by simp [Warp.wrPair]
@[simp] theorem Warp.wrPair_tWr (w : Warp) (r : BitVec 6) (v : DWord) : (w.wrPair r v).tWr = w.tWr := by simp [Warp.wrPair]
@[simp] theorem Warp.wrPair_lane (w : Warp) (r : BitVec 6) (v : DWord) : (w.wrPair r v).lane = w.lane := by simp [Warp.wrPair]
@[simp] theorem Warp.wrPair_exited (w : Warp) (r : BitVec 6) (v : DWord) : (w.wrPair r v).exited = w.exited := by simp [Warp.wrPair]
@[simp] theorem Warp.wrPair_queue (w : Warp) (r : BitVec 6) (v : DWord) : (w.wrPair r v).queue = w.queue := by simp [Warp.wrPair]
@[simp] theorem Warp.wrPair_running (w : Warp) (r : BitVec 6) (v : DWord) : (w.wrPair r v).running = w.running := by simp [Warp.wrPair]
@[simp] theorem Warp.wrPair_lastOne (w : Warp) (r : BitVec 6) (v : DWord) : (w.wrPair r v).lastOne = w.lastOne := by simp [Warp.wrPair]
@[simp] theorem Warp.wrPair_park (w : Warp) (r : BitVec 6) (v : DWord) : (w.wrPair r v).park = w.park := by simp [Warp.wrPair]
@[simp] theorem Warp.wrPair_parkAt (w : Warp) (r : BitVec 6) (v : DWord) : (w.wrPair r v).parkAt = w.parkAt := by simp [Warp.wrPair]
@[simp] theorem Warp.wrPair_resAt (w : Warp) (r : BitVec 6) (v : DWord) : (w.wrPair r v).resAt = w.resAt := by simp [Warp.wrPair]
@[simp] theorem Warp.wrPair_cnt (w : Warp) (r : BitVec 6) (v : DWord) : (w.wrPair r v).cnt = w.cnt := by simp [Warp.wrPair]
@[simp] theorem Warp.wrPair_ops (w : Warp) (r : BitVec 6) (v : DWord) : (w.wrPair r v).ops = w.ops := by simp [Warp.wrPair]
@[simp] theorem Warp.wrPair_tag (w : Warp) (r : BitVec 6) (v : DWord) : (w.wrPair r v).tag = w.tag := by simp [Warp.wrPair]
@[simp] theorem Warp.wrPair_haz (w : Warp) (r : BitVec 6) (v : DWord) : (w.wrPair r v).haz = w.haz := by simp [Warp.wrPair]
@[simp] theorem Warp.wrPair_ldHaz (w : Warp) (r : BitVec 6) (v : DWord) : (w.wrPair r v).ldHaz = w.ldHaz := by simp [Warp.wrPair]
@[simp] theorem Warp.wrPair_tcause (w : Warp) (r : BitVec 6) (v : DWord) : (w.wrPair r v).tcause = w.tcause := by simp [Warp.wrPair]
@[simp] theorem Warp.wrPair_tpc (w : Warp) (r : BitVec 6) (v : DWord) : (w.wrPair r v).tpc = w.tpc := by simp [Warp.wrPair]
@[simp] theorem Warp.wrPair_tlpc (w : Warp) (r : BitVec 6) (v : DWord) : (w.wrPair r v).tlpc = w.tlpc := by simp [Warp.wrPair]
@[simp] theorem Warp.wrPair_tamask (w : Warp) (r : BitVec 6) (v : DWord) : (w.wrPair r v).tamask = w.tamask := by simp [Warp.wrPair]
@[simp] theorem Warp.wrPair_tfmask (w : Warp) (r : BitVec 6) (v : DWord) : (w.wrPair r v).tfmask = w.tfmask := by simp [Warp.wrPair]
@[simp] theorem Warp.wrPair_taddr (w : Warp) (r : BitVec 6) (v : DWord) : (w.wrPair r v).taddr = w.taddr := by simp [Warp.wrPair]
@[simp] theorem Warp.wrPair_tinfo (w : Warp) (r : BitVec 6) (v : DWord) : (w.wrPair r v).tinfo = w.tinfo := by simp [Warp.wrPair]
@[simp] theorem Warp.wrPair_hflag (w : Warp) (r : BitVec 6) (v : DWord) : (w.wrPair r v).hflag = w.hflag := by simp [Warp.wrPair]
@[simp] theorem Warp.wrPair_aside (w : Warp) (r : BitVec 6) (v : DWord) : (w.wrPair r v).aside = w.aside := by simp [Warp.wrPair]
@[simp] theorem Warp.wrPair_inRgn (w : Warp) (r : BitVec 6) (v : DWord) : (w.wrPair r v).inRgn = w.inRgn := by simp [Warp.wrPair]
@[simp] theorem Warp.wrPair_restarts (w : Warp) (r : BitVec 6) (v : DWord) : (w.wrPair r v).restarts = w.restarts := by simp [Warp.wrPair]
@[simp] theorem Warp.wrPair_snapPc (w : Warp) (r : BitVec 6) (v : DWord) : (w.wrPair r v).snapPc = w.snapPc := by simp [Warp.wrPair]
@[simp] theorem Warp.wrPair_snap (w : Warp) (r : BitVec 6) (v : DWord) : (w.wrPair r v).snap = w.snap := by simp [Warp.wrPair]
@[simp] theorem Warp.wrPair_watch (w : Warp) (r : BitVec 6) (v : DWord) : (w.wrPair r v).watch = w.watch := by simp [Warp.wrPair]
@[simp] theorem Warp.wrPair_recs (w : Warp) (r : BitVec 6) (v : DWord) : (w.wrPair r v).recs = w.recs := by simp [Warp.wrPair]
@[simp] theorem Warp.wrPair_guard (w : Warp) (r : BitVec 6) (v : DWord) : (w.wrPair r v).guard = w.guard := by simp [Warp.wrPair]
@[simp] theorem Warp.wrPair_throt (w : Warp) (r : BitVec 6) (v : DWord) : (w.wrPair r v).throt = w.throt := by simp [Warp.wrPair]
@[simp] theorem Warp.wrPair_pinned (w : Warp) (r : BitVec 6) (v : DWord) : (w.wrPair r v).pinned = w.pinned := by simp [Warp.wrPair]
@[simp] theorem Warp.wrPair_startWin (w : Warp) (r : BitVec 6) (v : DWord) : (w.wrPair r v).startWin = w.startWin := by simp [Warp.wrPair]
@[simp] theorem Warp.wrPair_readySince (w : Warp) (r : BitVec 6) (v : DWord) : (w.wrPair r v).readySince = w.readySince := by simp [Warp.wrPair]
@[simp] theorem Warp.wrPair_oldest (w : Warp) (r : BitVec 6) (v : DWord) : (w.wrPair r v).oldest = w.oldest := by simp [Warp.wrPair]
@[simp] theorem Warp.wrPair_lvq (w : Warp) (r : BitVec 6) (v : DWord) : (w.wrPair r v).lvq = w.lvq := by simp [Warp.wrPair]
@[simp] theorem Warp.wrPair_sscb (w : Warp) (r : BitVec 6) (v : DWord) : (w.wrPair r v).sscb = w.sscb := by simp [Warp.wrPair]
@[simp] theorem Warp.wrPair_sigs (w : Warp) (r : BitVec 6) (v : DWord) : (w.wrPair r v).sigs = w.sigs := by simp [Warp.wrPair]
@[simp] theorem Warp.wrPair_trace (w : Warp) (r : BitVec 6) (v : DWord) : (w.wrPair r v).trace = w.trace := by simp [Warp.wrPair]
@[simp] theorem Warp.wrPair_clks (w : Warp) (r : BitVec 6) (v : DWord) : (w.wrPair r v).clks = w.clks := by simp [Warp.wrPair]
@[simp] theorem Warp.wrPair_nS (w : Warp) (r : BitVec 6) (v : DWord) : (w.wrPair r v).nS = w.nS := by simp [Warp.wrPair]
@[simp] theorem Warp.wrPair_nL (w : Warp) (r : BitVec 6) (v : DWord) : (w.wrPair r v).nL = w.nL := by simp [Warp.wrPair]
@[simp] theorem Warp.wrPair_leadS (w : Warp) (r : BitVec 6) (v : DWord) : (w.wrPair r v).leadS = w.leadS := by simp [Warp.wrPair]
@[simp] theorem Warp.wrPair_leadL (w : Warp) (r : BitVec 6) (v : DWord) : (w.wrPair r v).leadL = w.leadL := by simp [Warp.wrPair]
@[simp] theorem Warp.wrPair_signed (w : Warp) (r : BitVec 6) (v : DWord) : (w.wrPair r v).signed = w.signed := by simp [Warp.wrPair]
@[simp] theorem Warp.wrPair_prim (w : Warp) (r : BitVec 6) (v : DWord) : (w.wrPair r v).prim = w.prim := by simp [Warp.wrPair]
@[simp] theorem Warp.wrPair_batch (w : Warp) (r : BitVec 6) (v : DWord) : (w.wrPair r v).batch = w.batch := by simp [Warp.wrPair]
@[simp] theorem Warp.wrPair_binWait (w : Warp) (r : BitVec 6) (v : DWord) : (w.wrPair r v).binWait = w.binWait := by simp [Warp.wrPair]
@[simp] theorem Warp.wrPair_joins (w : Warp) (r : BitVec 6) (v : DWord) : (w.wrPair r v).joins = w.joins := by simp [Warp.wrPair]
@[simp] theorem Warp.wrPair_parkPast (w : Warp) (r : BitVec 6) (v : DWord) : (w.wrPair r v).parkPast = w.parkPast := by simp [Warp.wrPair]
@[simp] theorem Warp.wrPair_drainAt (w : Warp) (r : BitVec 6) (v : DWord) : (w.wrPair r v).drainAt = w.drainAt := by simp [Warp.wrPair]
@[simp] theorem Warp.wrPair_restAt (w : Warp) (r : BitVec 6) (v : DWord) : (w.wrPair r v).restAt = w.restAt := by simp [Warp.wrPair]
@[simp] theorem Warp.wrPair_sSince (w : Warp) (r : BitVec 6) (v : DWord) : (w.wrPair r v).sSince = w.sSince := by simp [Warp.wrPair]
@[simp] theorem Warp.wrPair_sOldest (w : Warp) (r : BitVec 6) (v : DWord) : (w.wrPair r v).sOldest = w.sOldest := by simp [Warp.wrPair]

end Sys2Proof.Machine
end

