-- ==== Sys2Proof/Laws/Lookup.lean ====
section
/-! SUPPORT. What the accessors of State read after the update of the same map, and what a warp's scalar registers read after
a write. -/
namespace Sys2Proof.Machine

@[simp] theorem State.setWarp_warp (s : State) (a b c : Nat) (w : Warp) (i j k : Nat) :
    (s.setWarp a b c w).warp i j k = if warpKey i j k = warpKey a b c then w else s.warp i j k := by
  simp [State.warp, State.setWarp]
@[simp] theorem State.setWref_wref (s : State) (r q : WRef) (w : Warp) :
    (s.setWref r w).wref q = if warpKey q.site q.core q.slot = warpKey r.site r.core r.slot then w else s.wref q := by
  simp [State.wref, State.setWref]
@[simp] theorem State.setWref_warp (s : State) (r : WRef) (w : Warp) (i j k : Nat) :
    (s.setWref r w).warp i j k = if warpKey i j k = warpKey r.site r.core r.slot then w else s.warp i j k := by
  simp [State.setWref]
@[simp] theorem State.setW_warp (s : State) (w : Warp) (i j k : Nat) :
    (s.setW w).warp i j k = if warpKey i j k = warpKey s.cur.site s.cur.core s.cur.slot then w else s.warp i j k := by
  simp [State.setW]
@[simp] theorem State.setW_wref (s : State) (w : Warp) (q : WRef) :
    (s.setW w).wref q = if warpKey q.site q.core q.slot = warpKey s.cur.site s.cur.core s.cur.slot then w else s.wref q := by
  simp [State.setW, State.wref]
@[simp] theorem State.setW_curW (s : State) (w : Warp) : (s.setW w).curW = w := by simp [State.curW]
@[simp] theorem State.setWref_curW (s : State) (r : WRef) (w : Warp) :
    (s.setWref r w).curW = if warpKey s.cur.site s.cur.core s.cur.slot = warpKey r.site r.core r.slot then w else s.curW := by
  simp [State.curW]
theorem State.curW_eq_wref (s : State) : s.curW = s.wref s.curRef := rfl

@[simp] theorem State.setCore_core (s : State) (a b : Nat) (c : Core) (i j : Nat) :
    (s.setCore a b c).core i j = if coreKey i j = coreKey a b then c else s.core i j := by simp [State.core, State.setCore]
@[simp] theorem State.setC_core (s : State) (c : Core) (i j : Nat) :
    (s.setC c).core i j = if coreKey i j = coreKey s.cur.site s.cur.core then c else s.core i j := by simp [State.setC]
@[simp] theorem State.setC_curCore (s : State) (c : Core) : (s.setC c).curCore = c := by simp [State.curCore]
@[simp] theorem State.setDie_die (s : State) (a : Nat) (d : Die) (i : Nat) :
    (s.setDie a d).die i = if i = a then d else s.die i := by simp [State.die, State.setDie]
@[simp] theorem State.setTeam_team (s : State) (a : Nat) (x : Team) (i : Nat) :
    (s.setTeam a x).team i = if i = a then x else s.team i := by simp [State.team, State.setTeam]
@[simp] theorem State.setGrid_grid (s : State) (a : Nat) (x : Grid) (i : Nat) :
    (s.setGrid a x).grid i = if i = a then x else s.grid i := by simp [State.grid, State.setGrid]
@[simp] theorem State.setReg_reg (s : State) (a : Nat) (v : DWord) (i : Nat) :
    (s.setReg a v).reg i = if i = a then v else s.reg i := by
  unfold State.reg State.setReg; rw [FMap.find_set]; by_cases h : i = a <;> simp [h]
@[simp] theorem State.setRegF_reg (s : State) (a h l x i : Nat) :
    (s.setRegF a h l x).reg i = if i = a then setF (s.reg a) h l x else s.reg i := by simp [State.setRegF]
@[simp] theorem State.bumpReg_reg (s : State) (a h l k i : Nat) :
    (s.bumpReg a h l k).reg i = if i = a then bumpF (s.reg a) h l k else s.reg i := by simp [State.bumpReg]

/-- A written register reads what was written, s63 reads zero, every other register is as before (R380). -/
@[simp] theorem Warp.rd_wr (w : Warp) (r q : BitVec 6) (v : Word) :
    (w.wr r v).rd q = if q = 63 then 0 else if q = r then v else w.rd q := by
  have key : q.toNat = r.toNat ↔ q = r := by rw [BitVec.toNat_inj]
  unfold Warp.wr Warp.rd
  by_cases hq : q = 63
  · simp [hq]
  · simp only [if_neg hq]
    split
    · rename_i hr; rw [if_neg]; rintro rfl; exact hq hr
    · simp [key]

/-- A written pair: its low half in the register named, its high half in the next one (R380, R405). -/
theorem Warp.rd_wrPair (w : Warp) (r q : BitVec 6) (v : DWord) :
    (w.wrPair r v).rd q = if q = 63 then (0 : Word) else if q = r + 1 then (v >>> 32).setWidth 32
      else if q = r then v.setWidth 32 else w.rd q := by
  simp only [Warp.wrPair, Warp.rd_wr]; split <;> rfl

@[simp] theorem Warp.step_rd (w : Warp) (q : BitVec 6) : w.step.rd q = w.rd q := rfl

end Sys2Proof.Machine
end

