-- ==== Sys2Proof/Laws/Quiet.lean ====
section
/-! SUPPORT. What no access does: it leaves the turn, the hub's tables, the trust die, device time and every warp's registers and
streams alone; of a warp it can change the latch of its watch and that of its guard faults. What moves tokens, walks page tables
or answers for a refusal does less: it touches no memory and no line of an L1 or a slice. One lemma per operation. -/
namespace Sys2Proof.Machine

/-- What an access leaves alone. -/
def Quiet (s t : State) : Prop :=
  t.cur = s.cur ∧ t.hub = s.hub ∧ t.trust = s.trust ∧ t.time = s.time ∧
    ∀ k, (FMap.get Warp.none t.warps k).still = (FMap.get Warp.none s.warps k).still

theorem Quiet.refl (s : State) : Quiet s s := ⟨rfl, rfl, rfl, rfl, fun _ => rfl⟩
theorem Quiet.trans {s t u : State} (h : Quiet s t) (g : Quiet t u) : Quiet s u := by
  rcases h with ⟨hcur, hhub, htrust, htime, hwarp⟩
  simpa only [Quiet, hcur, hhub, htrust, htime, hwarp] using g
theorem Quiet.cur {s t : State} (h : Quiet s t) : t.cur = s.cur := h.1
theorem Quiet.warp {s t : State} (h : Quiet s t) (i j k : Nat) : (t.warp i j k).still = (s.warp i j k).still := h.2.2.2.2 _
theorem Quiet.curW {s t : State} (h : Quiet s t) : t.curW.still = s.curW.still := by
  unfold State.curW; rw [h.1]; exact h.warp _ _ _
theorem Quiet.team {s t : State} (h : Quiet s t) (i : Nat) : t.team i = s.team i := by unfold State.team; rw [h.2.1]
theorem Quiet.grid {s t : State} (h : Quiet s t) (i : Nat) : t.grid i = s.grid i := by unfold State.grid; rw [h.2.1]

/-- Two states hold the same memories. -/
def SameMem (s t : State) : Prop := t.mem = s.mem ∧ t.hostMem = s.hostMem ∧ t.peerMem = s.peerMem
theorem SameMem.refl (s : State) : SameMem s s := ⟨rfl, rfl, rfl⟩
theorem SameMem.trans {s t u : State} (h : SameMem s t) (g : SameMem t u) : SameMem s u :=
  ⟨g.1.trans h.1, g.2.1.trans h.2.1, g.2.2.trans h.2.2⟩
theorem SameMem.memory {s t : State} (h : SameMem s t) : SameMemory s t := fun a => ⟨by rw [h.1], by rw [h.2.1], by rw [h.2.2]⟩

/-- Two states hold the same lines in L1s and slices. -/
def SameLines (s t : State) : Prop :=
  (∀ i j, (t.core i j).l1 = (s.core i j).l1) ∧ ∀ i, (t.die i).held = (s.die i).held
theorem SameLines.refl (s : State) : SameLines s s := ⟨fun _ _ => rfl, fun _ => rfl⟩
theorem SameLines.trans {s t u : State} (h : SameLines s t) (g : SameLines t u) : SameLines s u :=
  ⟨fun i j => (g.1 i j).trans (h.1 i j), fun i => (g.2 i).trans (h.2 i)⟩

/-- What an operation on tokens, registers, tables and logs leaves alone. -/
def Calm (s t : State) : Prop := Quiet s t ∧ SameMem s t ∧ SameLines s t
theorem Calm.refl (s : State) : Calm s s := ⟨Quiet.refl s, SameMem.refl s, SameLines.refl s⟩
theorem Calm.trans {s t u : State} (h : Calm s t) (g : Calm t u) : Calm s u :=
  ⟨h.1.trans g.1, h.2.1.trans g.2.1, h.2.2.trans g.2.2⟩
/-- A choice between two states that are both calm. -/
theorem Calm.ite {s a b : State} {c : Prop} [Decidable c] (h : Calm s a) (g : Calm s b) : Calm s (if c then a else b) := by
  split
  · exact h
  · exact g

/-- Changing every value of a map but for what a projection reads. -/
theorem FMap.get_map {α β : Type} (d : α) (p : α → β) {f : Nat × α → Nat × α} (hk : ∀ e, (f e).1 = e.1) (hp : ∀ e, p (f e).2 = p e.2)
    (m : FMap α) (k : Nat) : p (FMap.get d (m.map f) k) = p (FMap.get d m k) := by
  induction m with
  | nil => rfl
  | cons e m ih =>
    obtain ⟨a, x⟩ := e
    have h1 := hk (a, x)
    have h2 := hp (a, x)
    rw [List.map_cons]
    generalize f (a, x) = y at h1 h2 ⊢
    obtain ⟨b, z⟩ := y
    dsimp only at h1 h2
    subst h1
    simp only [FMap.get]
    split
    · exact h2
    · exact ih

theorem Calm.setReg (s : State) (a : Nat) (v : DWord) : Calm s (s.setReg a v) :=
  ⟨⟨rfl, rfl, rfl, rfl, fun _ => rfl⟩, ⟨rfl, rfl, rfl⟩, ⟨fun _ _ => rfl, fun _ => rfl⟩⟩
theorem Calm.setRegF (s : State) (a h l x : Nat) : Calm s (s.setRegF a h l x) := Calm.setReg _ _ _
theorem Calm.bumpReg (s : State) (a h l k : Nat) : Calm s (s.bumpReg a h l k) := Calm.setReg _ _ _
theorem Calm.fresh (s : State) : Calm s s.fresh :=
  ⟨⟨rfl, rfl, rfl, rfl, fun _ => rfl⟩, ⟨rfl, rfl, rfl⟩, ⟨fun _ _ => rfl, fun _ => rfl⟩⟩
/-- Changing a core but for its L1. -/
theorem Calm.setCore {s : State} {a b : Nat} {c : Core} (h : c.l1 = (s.core a b).l1) : Calm s (s.setCore a b c) := by
  refine ⟨⟨rfl, rfl, rfl, rfl, fun _ => rfl⟩, ⟨rfl, rfl, rfl⟩, ⟨fun i j => ?_, fun _ => rfl⟩⟩
  rw [State.setCore_core]; split
  · rename_i hk; rw [h]; unfold State.core; rw [hk]
  · rfl
/-- Changing a die but for the lines its slices hold. -/
theorem Calm.setDie {s : State} {a : Nat} {d : Die} (h : d.held = (s.die a).held) : Calm s (s.setDie a d) := by
  refine ⟨⟨rfl, rfl, rfl, rfl, fun _ => rfl⟩, ⟨rfl, rfl, rfl⟩, ⟨fun _ _ => rfl, fun i => ?_⟩⟩
  rw [State.setDie_die]; split
  · rename_i e; rw [h, e]
  · rfl
/-- Changing every die but for the lines its slices hold. -/
theorem Calm.mapDies (s : State) {f : Nat × Die → Nat × Die} (hk : ∀ e, (f e).1 = e.1) (hp : ∀ e, (f e).2.held = e.2.held) :
    Calm s { s with dies := s.dies.map f } :=
  ⟨⟨rfl, rfl, rfl, rfl, fun _ => rfl⟩, ⟨rfl, rfl, rfl⟩,
    ⟨fun _ _ => rfl, fun i => FMap.get_map _ Die.held hk hp s.dies i⟩⟩
/-- Changing every core but for its L1. -/
theorem Calm.mapCores (s : State) {f : Nat × Core → Nat × Core} (hk : ∀ e, (f e).1 = e.1) (hp : ∀ e, (f e).2.l1 = e.2.l1) :
    Calm s { s with cores := s.cores.map f } :=
  ⟨⟨rfl, rfl, rfl, rfl, fun _ => rfl⟩, ⟨rfl, rfl, rfl⟩,
    ⟨fun i j => FMap.get_map _ Core.l1 hk hp s.cores (coreKey i j), fun _ => rfl⟩⟩
theorem Calm.outbox (s : State) (o : List OutMsg) : Calm s { s with outbox := o } :=
  ⟨⟨rfl, rfl, rfl, rfl, fun _ => rfl⟩, ⟨rfl, rfl, rfl⟩, ⟨fun _ _ => rfl, fun _ => rfl⟩⟩
theorem Calm.tokens (s : State) (t : FMap Tok) : Calm s { s with tokens := t } :=
  ⟨⟨rfl, rfl, rfl, rfl, fun _ => rfl⟩, ⟨rfl, rfl, rfl⟩, ⟨fun _ _ => rfl, fun _ => rfl⟩⟩
theorem Calm.coh (s : State) (m : List CohMsg) : Calm s { s with coh := m } :=
  ⟨⟨rfl, rfl, rfl, rfl, fun _ => rfl⟩, ⟨rfl, rfl, rfl⟩, ⟨fun _ _ => rfl, fun _ => rfl⟩⟩
theorem Calm.census (s : State) (m : List Census) : Calm s { s with census := m } :=
  ⟨⟨rfl, rfl, rfl, rfl, fun _ => rfl⟩, ⟨rfl, rfl, rfl⟩, ⟨fun _ _ => rfl, fun _ => rfl⟩⟩
theorem Calm.poisonLine (s : State) (l : Nat) : Calm s (poisonLine s l) :=
  ⟨⟨rfl, rfl, rfl, rfl, fun _ => rfl⟩, ⟨rfl, rfl, rfl⟩, ⟨fun _ _ => rfl, fun _ => rfl⟩⟩
theorem Calm.fireWatches (s : State) (p : Nat → Warp → Bool) : Calm s (fireWatches s p) := by
  refine ⟨⟨rfl, rfl, rfl, rfl, fun k => FMap.get_map _ Warp.still (fun e => ?_) (fun e => ?_) s.warps k⟩, ⟨rfl, rfl, rfl⟩,
    ⟨fun _ _ => rfl, fun _ => rfl⟩⟩ <;> dsimp only <;> (repeat' split) <;> rfl
theorem Calm.fire {s t : State} (h : Calm s t) (p : Nat → Warp → Bool) : Calm s (Machine.fireWatches t p) :=
  h.trans (Calm.fireWatches _ p)
theorem Calm.setWarp {s : State} {a b c : Nat} {w : Warp} (h : w.still = (s.warp a b c).still) : Calm s (s.setWarp a b c w) := by
  refine ⟨⟨rfl, rfl, rfl, rfl, fun k => ?_⟩, ⟨rfl, rfl, rfl⟩, ⟨fun _ _ => rfl, fun _ => rfl⟩⟩
  simp only [State.setWarp_warps, FMap.get_set]
  split
  · rename_i e; subst e; exact h
  · rfl

theorem Calm.sendMsix (s : State) (v : Nat) : Calm s (sendMsix s v) := by
  unfold Machine.sendMsix; exact Calm.ite (Calm.setReg _ _ _) (Calm.outbox _ _)
theorem Calm.raiseEvt (s : State) (k : Nat) : Calm s (raiseEvt s k) := by
  unfold Machine.raiseEvt; exact Calm.ite ((Calm.setReg _ _ _).trans (Calm.sendMsix _ _)) (Calm.setReg _ _ _)
theorem Calm.secEvent (s : State) (a b c d : Nat) : Calm s (secEvent s a b c d) := by
  have h := fun v w => (Calm.setReg s (seclogA a) v).trans (Calm.setReg _ (secaddrA a) w)
  unfold Machine.secEvent; exact Calm.ite (h _ _) ((h _ _).trans (Calm.raiseEvt _ _))
theorem Calm.rasLog (s : State) (a b c d e f g h : Nat) : Calm s (rasLog s a b c d e f g h) :=
  (Calm.setReg _ _ _).trans (Calm.setReg _ _ _)
theorem Calm.errCpl (s : State) (r : Nat) : Calm s (errCpl s r) := Calm.ite (Calm.bumpReg _ _ _ _ _) (Calm.refl _)
theorem Calm.siteFail (s : State) (a b : Nat) : Calm s (siteFail s a b) :=
  Calm.ite (Calm.refl _) (Calm.ite (Calm.refl _) (Calm.errCpl _ _))
theorem Calm.portEvent (s : State) (a b c p : Nat) (x : Bool) : Calm s (portEvent s a b c p x) :=
  Calm.ite (Calm.secEvent _ _ _ _ _) (Calm.refl _)
theorem Calm.refuse (s : State) (w : Who) (a p st : Nat) : Calm s (refuse s w a p st) :=
  Calm.ite (Calm.secEvent _ _ _ _ _) (Calm.ite (Calm.siteFail _ _ _) (Calm.refl _))
theorem Calm.latchGuard (s : State) (w : Who) (o : Nat) : Calm s (latchGuard s w o) := Calm.setWarp rfl
theorem Calm.noteMark (s : State) (a b c : Nat) : Calm s (noteMark s a b c) :=
  Calm.mapDies s (fun e => by split <;> rfl) (fun e => by split <;> rfl)
theorem Calm.takeSeq (s : State) (w : Who) (x : Bool) : Calm s (takeSeq s w x).1 := by
  unfold Machine.takeSeq; split
  · exact Calm.refl _
  · split
    · exact (Calm.setCore (by rfl)).trans (Calm.noteMark _ _ _ _)
    · exact (Calm.setDie (by rfl)).trans (Calm.noteMark _ _ _ _)
theorem Calm.sendReq (s : State) (w : Who) (a : Nat) : Calm s (sendReq s w a) := Calm.ite (Calm.refl _) (Calm.takeSeq _ _ _)
theorem Calm.peerSend (s : State) (w : Who) (p : Nat) (x : Bool) : Calm s (peerSend s w p x).1 := by
  unfold Machine.peerSend; split
  · exact Calm.refl _
  · exact (Calm.takeSeq _ _ _).trans (Calm.outbox _ _)

theorem Calm.setTok (s : State) (l : Nat) (t : Tok) : Calm s (setTok s l t) := (Calm.tokens _ _).trans (Calm.fireWatches _ _)
theorem Calm.notePage (s : State) (l : Nat) (p : Tr) : Calm s (notePage s l p) :=
  Calm.ite (Calm.refl _) (Calm.setTok _ _ _)
theorem Calm.dieSends (s : State) (a l : Nat) (d : Option Nat) (x : Bool) : Calm s (dieSends s a l d x) :=
  Calm.ite (Calm.refl _) ((Calm.coh _ _).trans (Calm.setTok _ _ _))
theorem Calm.portSends (s : State) (l a : Nat) (x : Bool) : Calm s (portSends s l a x) :=
  Calm.ite (Calm.refl _) ((Calm.coh _ _).trans (Calm.setTok _ _ _))
theorem Calm.dropPend (s : State) (a l : Nat) : Calm s (dropPend s a l) := Calm.setDie rfl
theorem Calm.endPend (s : State) (a l : Nat) : Calm s (endPend s a l) := by
  unfold Machine.endPend; split
  · exact Calm.ite (Calm.dropPend _ _ _) (Calm.refl _)
  · exact Calm.refl _
theorem Calm.deactivateLine (s : State) (l a : Nat) : Calm s (deactivateLine s l a) :=
  (Calm.mapDies s (f := fun e => (e.1, { e.2 with ptab := e.2.ptab.filter fun x => x.1 != l, arbAct := e.2.arbAct.filter fun a => a.line != l }))
    (fun _ => rfl) (fun _ => rfl)).trans (Calm.dropPend _ _ _)
theorem Calm.sweepEnds (s : State) (h : Nat) : Calm s (sweepEnds s h) := Calm.ite (Calm.refl _) (Calm.setDie rfl)
theorem Calm.recreate (s : State) (l : Nat) : Calm s (recreate s l) := by
  have h1 := fun t => (Calm.coh s (s.coh.filter fun m => m.line != l)).trans (Calm.setTok _ l t)
  unfold Machine.recreate; dsimp only
  refine Calm.trans ?_ (Calm.sweepEnds _ _)
  have h2 : ∀ (u : State) (c : Prop) [Decidable c] (d : Die), d.held = (u.die (homeOf l)).held → Calm s u →
      Calm s (if c then u else u.setDie (homeOf l) d) := fun u c _ d hd hu => Calm.ite hu (hu.trans (Calm.setDie hd))
  have h3 : ∀ (u : State) (c : Prop) [Decidable c], Calm s u → Calm s (if c then Machine.poisonLine (u.bumpReg (cohcntA (homeOf l)) 15 0 1) l else u) :=
    fun u c _ hu => Calm.ite (hu.trans ((Calm.bumpReg _ _ _ _ _).trans (Calm.poisonLine _ _))) hu
  split
  · refine Calm.ite (Calm.trans ?_ (Calm.portSends _ _ _ _)) (Calm.trans ?_ (Calm.deactivateLine _ _ _)) <;>
      exact h3 _ _ ((h2 _ _ _ (by rfl) (h1 _)).trans (Calm.bumpReg _ _ _ _ _))
  · exact h3 _ _ ((h2 _ _ _ (by rfl) (h1 _)).trans (Calm.bumpReg _ _ _ _ _))
theorem Calm.recreateNow (s : State) (l : Nat) : Calm s (recreateNow s l) := (Calm.census _ _).trans (Calm.recreate _ _)
theorem Calm.heal (s : State) (l : Nat) : Calm s (heal s l) := Calm.ite (Calm.recreateNow _ _) (Calm.refl _)
theorem Calm.takeAll (s : State) (a l c : Nat) : Calm s (takeAll s a l c) := (Calm.coh _ _).trans (Calm.setTok _ _ _)
theorem Calm.dropReps (s : State) (a : Nat) (p : RepLine → Bool) : Calm s (dropReps s a p) :=
  Calm.ite (Calm.refl _) ((Calm.setDie (by rfl)).trans (Calm.fireWatches _ _))
theorem Calm.evictLine (s : State) (a l : Nat) : Calm s (evictLine s a l) := (Calm.dropReps _ _ _).trans (Calm.dieSends _ _ _ _ _)
theorem Calm.makeRoom (s : State) (a l : Nat) : Calm s (makeRoom s a l) := by
  unfold Machine.makeRoom; refine Calm.ite (Calm.refl _) ?_; split
  · exact Calm.evictLine _ _ _
  · exact Calm.refl _
theorem Calm.sliceRoom (s : State) (a l c : Nat) : Calm s (sliceRoom s a l c) := by
  unfold Machine.sliceRoom; refine Calm.ite (Calm.refl _) (Calm.ite (Calm.refl _) ?_); split
  · exact Calm.evictLine _ _ _
  · exact Calm.refl _
theorem Calm.addReplica (s : State) (a l c p : Nat) (x : Bool) : Calm s (addReplica s a l c p x) :=
  Calm.ite (Calm.refl _) (((Calm.makeRoom _ _ _).trans (Calm.sliceRoom _ _ _ _)).trans (Calm.setDie (by rfl)))
theorem Calm.yieldActive (s : State) (l : Nat) (a : Option Nat) : Calm s (yieldActive s l a) := by
  unfold Machine.yieldActive; split
  · exact Calm.ite (Calm.refl _) (Calm.ite ((((Calm.makeRoom _ _ _).trans (Calm.sliceRoom _ _ _ _)).trans (Calm.takeAll _ _ _ _)).trans
      (Calm.deactivateLine _ _ _)) (Calm.recreateNow _ _))
  · exact Calm.refl _
theorem Calm.readyLine (s : State) (a l c : Nat) : Calm s (readyLine s a l c) :=
  (((Calm.yieldActive _ _ _).trans (Calm.heal _ _)).trans (Calm.makeRoom _ _ _)).trans (Calm.sliceRoom _ _ _ _)
theorem Calm.gatherHome (s : State) (l : Nat) : Calm s (gatherHome s l) :=
  ((Calm.yieldActive _ _ _).trans (Calm.heal _ _)).trans ((Calm.coh _ _).trans (Calm.setTok _ _ _))
theorem Calm.gatherWrite (s : State) (a l c : Nat) : Calm s (gatherWrite s a l c) :=
  ((Calm.readyLine _ _ _ _).trans (Calm.takeAll _ _ _ _)).trans (Calm.endPend _ _ _)
theorem Calm.gatherRead (s : State) (a l c : Nat) : Calm s (gatherRead s a l c) := by
  unfold Machine.gatherRead; dsimp only
  refine ((Calm.readyLine s a l c).trans ?_).trans (Calm.endPend _ _ _)
  refine Calm.ite (Calm.setTok _ _ _) (Calm.ite (Calm.setTok _ _ _) ?_)
  split
  · exact Calm.setTok _ _ _
  · exact Calm.takeAll _ _ _ _

theorem Calm.readEntry (s : State) (a : Nat) (b : Bool) (p : Nat) : Calm s (readEntry s a b p).1 := by
  unfold Machine.readEntry; dsimp only
  repeat' split
  · exact Calm.siteFail _ _ _
  · exact (Calm.sendReq _ _ _).trans (Calm.portEvent _ _ _ _ _ _)
  all_goals exact (Calm.sendReq _ _ _).trans (Calm.gatherRead _ _ _ _)
theorem Calm.walkFrom (s : State) (a : Nat) (b : Bool) (va fuel level tbl : Nat) : Calm s (walkFrom s a b va fuel level tbl).1 := by
  induction fuel generalizing s level tbl with
  | zero => exact Calm.refl _
  | succ n ih =>
    have h := Calm.readEntry s a b (tbl + va / 2 ^ (55 - 12 * level) % 4096 * 8)
    unfold Machine.walkFrom; dsimp only
    split <;> rename_i e <;> rw [e] at h
    · exact h
    · repeat' split
      all_goals first
        | exact h
        | exact h.trans (ih _ _ _)
theorem Calm.findPage (s : State) (a : Nat) (c : Option Nat) (r : Nat) (b : Bool) (va : Nat) : Calm s (findPage s a c r b va).1 := by
  have hw := fun level tbl => Calm.walkFrom s a b va (4 - level) level tbl
  unfold Machine.findPage; dsimp only
  generalize (match c with | some c => tlbFind (s.core a c).tlb r b va | none => none) = near
  split
  · exact Calm.refl _
  · split
    · exact Calm.refl _
    · have h := hw (walkStart s a r b va).1 (walkStart s a r b va).2
      split <;> rename_i e <;> rw [e] at h
      · exact h
      · rw [apply_ite Prod.fst]; refine Calm.ite (h.trans (Calm.secEvent _ _ _ _ _)) ?_
        cases c with
        | some c => exact (h.trans (Calm.setDie (by rfl))).trans (Calm.setCore (by rfl))
        | none => exact h.trans (Calm.setDie (by rfl))
/-- Checking and translating an address changes no memory. -/
theorem Calm.checkVa (s : State) (a : Nat) (c : Option Nat) (r : Nat) (b : Bool) (va : DWord) (n : Nat) (k : Acc) :
    Calm s (checkVa s a c r b va n k).1 := by
  have h := Calm.findPage s a c r b va.toNat
  unfold Machine.checkVa; dsimp only
  split
  · exact Calm.refl _
  · split
    · exact Calm.refl _
    · split <;> rename_i e <;> rw [e] at h
      · exact h
      · exact h
      · split <;> exact h
theorem Calm.ctlWrite {s t : State} {a b o v : Nat} (h : ctlWrite s a b o v = some t) : Calm s t := by
  unfold Machine.ctlWrite at h; dsimp only at h
  repeat' split at h
  all_goals first
    | (simp only [Option.some.injEq] at h; subst h; first | exact Calm.setReg _ _ _ | exact Calm.setCore (by rfl))
    | (simp only [Option.map_eq_some_iff] at h; obtain ⟨_, _, rfl⟩ := h; exact Calm.refl _)
theorem Calm.spoilTile (s : State) (a b z : Nat) : Calm s (spoilTile s a b z) := by
  unfold Machine.spoilTile; dsimp only; exact (Calm.setCore (by rfl)).trans (Calm.fresh _)
/-- A store at a window's port outside the scratchpad. -/
theorem Calm.windowStore (s : State) (a b o n v : Nat) (ho : ¬ (0x100000 ≤ o ∧ o < 0x180000)) : Calm s (windowStore s a b o n v).1 := by
  unfold Machine.windowStore
  extract_lets fire c c1 touch c2 o' old val
  rw [if_neg (by simpa using ho)]
  split
  · split
    · exact Calm.refl _
    · split
      · exact Calm.fire (Calm.spoilTile _ _ _ _) _
      exact Calm.fire (Calm.setCore (by show (if _ then _ else _ : Core).l1 = _; split <;> rfl)) _
  · split
    · split
      · rename_i h; exact Calm.fire (Calm.ctlWrite h) _
      · exact Calm.refl _
    · exact Calm.refl _
theorem Calm.treatHome (s : State) (a e : Nat) : Calm s (treatHome s a e) := by
  have hd : Calm s (s.setDie a { s.die a with clTlb := (s.die a).clTlb.map fun x : Nat × List TlbEnt => (x.1, x.2.map fun x : TlbEnt =>
      if x.entry = e && attrOf x.pte.toNat = 2 then { x with pte := BitVec.ofNat 64 (x.pte.toNat % 2 ^ 62) } else x) }) := Calm.setDie rfl
  exact hd.trans (Calm.mapCores _ (fun x => by dsimp only; split <;> rfl) (fun x => by dsimp only; split <;> rfl))
theorem Calm.markReplica (s : State) (a home : Nat) (t : Tr) (r : RepEnt) : Calm s (fillReplica.mark a home t s r) :=
  (Calm.setDie (by rfl)).trans (Calm.setDie (by rfl))
theorem Calm.hbmGate (s : State) (w : Who) (home pa : Nat) : Calm s (hbmGate s w home pa).1 := by
  unfold Machine.hbmGate; dsimp only
  repeat' split
  · exact Calm.siteFail _ _ _
  · exact Calm.portEvent _ _ _ _ _ _
  · exact Calm.secEvent _ _ _ _ _
  · exact Calm.refl _

end Sys2Proof.Machine
end

