-- ==== Sys2Proof/Laws/Bytes.lean ====
section
/-! SUPPORT. Which bytes of memory an access can change: those it stores to, and those that an earlier store left in an L1 or a
slice. One lemma per operation, with what no access does (`Quiet`). -/
namespace Sys2Proof
theorem FMap.mem_set {α : Type} {m : FMap α} {a : Nat} {x : α} {e : Nat × α} (h : e ∈ FMap.set m a x) : e = (a, x) ∨ e ∈ m := by
  induction m with
  | nil => simp [FMap.set] at h; exact .inl h
  | cons y m ih =>
    obtain ⟨k, v⟩ := y
    simp only [FMap.set] at h
    split at h
    · rcases List.mem_cons.mp h with h | h
      · exact .inl h
      · exact .inr h
    · split at h
      · rcases List.mem_cons.mp h with h | h
        · exact .inl h
        · exact .inr (List.mem_cons_of_mem _ h)
      · rcases List.mem_cons.mp h with h | h
        · exact .inr (h ▸ List.mem_cons_self ..)
        · rcases ih h with h | h
          · exact .inl h
          · exact .inr (List.mem_cons_of_mem _ h)
theorem FMap.mem_del {α : Type} {m : FMap α} {a : Nat} {e : Nat × α} (h : e ∈ FMap.del m a) : e ∈ m := by
  induction m with
  | nil => exact h
  | cons y m ih =>
    obtain ⟨k, v⟩ := y
    simp only [FMap.del] at h
    split at h
    · exact List.mem_cons_of_mem _ (ih h)
    · rcases List.mem_cons.mp h with h | h
      · exact h ▸ List.mem_cons_self ..
      · exact List.mem_cons_of_mem _ (ih h)
theorem FMap.mem_of_find {α : Type} {m : FMap α} {a : Nat} {x : α} (h : FMap.find m a = some x) : (a, x) ∈ m := by
  induction m with
  | nil => simp at h
  | cons y m ih =>
    obtain ⟨k, v⟩ := y
    simp only [FMap.find] at h
    split at h
    · rename_i e; subst e; simp at h; subst h; exact List.mem_cons_self ..
    · exact List.mem_cons_of_mem _ (ih h)
end Sys2Proof

namespace Sys2Proof.Machine

/-- Every byte that waits in an L1 or a slice is in `P`. -/
def State.Inside (s : State) (P : Nat → Prop) : Prop := ∀ a, s.pending a → P a

/-- An operation that changes bytes of package memory only in `P`, and leaves no other byte waiting. -/
def Keep (P : Nat → Prop) (s t : State) : Prop :=
  s.Inside P → t.Inside P ∧ (∀ a, ¬ P a → byteAt t.mem a = byteAt s.mem a) ∧ t.hostMem = s.hostMem ∧ t.peerMem = s.peerMem

theorem Keep.refl (P : Nat → Prop) (s : State) : Keep P s s := fun h => ⟨h, fun _ _ => rfl, rfl, rfl⟩
theorem Keep.trans {P : Nat → Prop} {s t u : State} (h : Keep P s t) (g : Keep P t u) : Keep P s u := by
  intro i
  obtain ⟨a, b, c, d⟩ := h i
  obtain ⟨a', b', c', d'⟩ := g a
  exact ⟨a', fun x hx => (b' x hx).trans (b x hx), c'.trans c, d'.trans d⟩
theorem Keep.foldl {P : Nat → Prop} {α : Type} {f : State → α → State} (h : ∀ t x, Keep P t (f t x)) (l : List α) (s : State) :
    Keep P s (l.foldl f s) := by
  induction l generalizing s with
  | nil => exact Keep.refl _ s
  | cons x l ih => exact (h s x).trans (ih _)

/-- An operation that touches no memory and no line of an L1 or a slice. -/
theorem Keep.of_same {P : Nat → Prop} {s t : State} (h : SameMem s t) (g : SameLines s t) : Keep P s t := by
  intro i
  refine ⟨fun a ha => i a ?_, fun a _ => by rw [h.1], h.2.1, h.2.2⟩
  rcases ha with ⟨x, y, e, he, hh⟩ | ⟨x, y, e, he, hh⟩
  · exact .inl ⟨x, y, e, by rw [← g.1]; exact he, hh⟩
  · exact .inr ⟨x, y, e, by unfold heldOf at he ⊢; rw [← g.2]; exact he, hh⟩
theorem Keep.setCore {P} (s : State) (a b : Nat) (c : Core)
    (h : ∀ e ∈ c.l1, ∀ x, x / 128 = e.1 → e.2.dirty.getLsbD (x % 128) = true →
      P x ∨ ∃ e' ∈ (s.core a b).l1, e'.1 = e.1 ∧ e'.2.dirty.getLsbD (x % 128) = true) : Keep P s (s.setCore a b c) := by
  intro i
  refine ⟨?_, fun _ _ => rfl, rfl, rfl⟩
  intro x hx
  rcases hx with ⟨p, q, e, he, hl, hd⟩ | ⟨p, q, e, he, hh⟩
  · rw [State.setCore_core] at he
    split at he
    · rename_i hk
      rcases h e he x hl.symm hd with hp | ⟨e', he', h1, h2⟩
      · exact hp
      · refine i x (.inl ⟨a, b, e', he', h1.trans hl, h2⟩)
    · exact i x (.inl ⟨p, q, e, he, hl, hd⟩)
  · exact i x (.inr ⟨p, q, e, he, hh⟩)
theorem Keep.setHeld {P} (s : State) (a b : Nat) (l : List Held)
    (h : ∀ e ∈ l, ∀ x, x / 128 = e.line → e.mask.getLsbD (x % 128) = true →
      P x ∨ ∃ e' ∈ heldOf s a b, e'.line = e.line ∧ e'.mask.getLsbD (x % 128) = true) : Keep P s (setHeld s a b l) := by
  intro i
  refine ⟨?_, fun _ _ => rfl, rfl, rfl⟩
  intro x hx
  rcases hx with ⟨p, q, e, he, hh⟩ | ⟨p, q, e, he, hl, hm⟩
  · exact i x (.inl ⟨p, q, e, he, hh⟩)
  · unfold Machine.setHeld heldOf at he
    rw [State.setDie_die] at he
    split at he
    · rename_i hp
      dsimp only at he; rw [FMap.get_put] at he
      split at he
      · rename_i hq
        rcases h e he x hl.symm hm with h | ⟨e', he', h1, h2⟩
        · exact h
        · exact i x (.inr ⟨a, b, e', he', h1.trans hl, h2⟩)
      · exact i x (.inr ⟨a, q, e, he, hl, hm⟩)
    · exact i x (.inr ⟨p, q, e, he, hl, hm⟩)


/-- What an access can do: it changes bytes of package memory only in `P`, and leaves alone what `Quiet` says. -/
def Moves (P : Nat → Prop) (s t : State) : Prop := Quiet s t ∧ Keep P s t
theorem Moves.refl (P : Nat → Prop) (s : State) : Moves P s s := ⟨Quiet.refl s, Keep.refl P s⟩
theorem Moves.trans {P : Nat → Prop} {s t u : State} (h : Moves P s t) (g : Moves P t u) : Moves P s u := ⟨h.1.trans g.1, h.2.trans g.2⟩
theorem Moves.ite {P : Nat → Prop} {s a b : State} {c : Prop} [Decidable c] (h : Moves P s a) (g : Moves P s b) :
    Moves P s (if c then a else b) := by
  split
  · exact h
  · exact g
theorem Moves.foldl {P : Nat → Prop} {α : Type} {f : State → α → State} (h : ∀ t x, Moves P t (f t x)) (l : List α) (s : State) :
    Moves P s (l.foldl f s) := by
  induction l generalizing s with
  | nil => exact Moves.refl _ s
  | cons x l ih => exact (h s x).trans (ih _)
theorem Calm.moves {P : Nat → Prop} {s t : State} (h : Calm s t) : Moves P s t := ⟨h.1, Keep.of_same h.2.1 h.2.2⟩
/-- Changing the L1 of a core without a new dirty byte outside `P`. -/
theorem Moves.setCore {P} (s : State) (a b : Nat) (c : Core)
    (h : ∀ e ∈ c.l1, ∀ x, x / 128 = e.1 → e.2.dirty.getLsbD (x % 128) = true →
      P x ∨ ∃ e' ∈ (s.core a b).l1, e'.1 = e.1 ∧ e'.2.dirty.getLsbD (x % 128) = true) : Moves P s (s.setCore a b c) :=
  ⟨⟨rfl, rfl, rfl, rfl, fun _ => rfl⟩, Keep.setCore s a b c h⟩
theorem Moves.setHeld {P} (s : State) (a b : Nat) (l : List Held)
    (h : ∀ e ∈ l, ∀ x, x / 128 = e.line → e.mask.getLsbD (x % 128) = true →
      P x ∨ ∃ e' ∈ heldOf s a b, e'.line = e.line ∧ e'.mask.getLsbD (x % 128) = true) : Moves P s (setHeld s a b l) :=
  ⟨⟨rfl, rfl, rfl, rfl, fun _ => rfl⟩, Keep.setHeld s a b l h⟩

theorem Moves.setMem {P : Nat → Prop} (s : State) (m : List Host.Cell) (p : List Nat) (w : List (Nat × Nat))
    (h : ∀ a, ¬ P a → byteAt m a = byteAt s.mem a) : Moves P s { s with mem := m, poison := p, wlog := w } :=
  ⟨⟨rfl, rfl, rfl, rfl, fun _ => rfl⟩, fun i => ⟨i, h, rfl, rfl⟩⟩
/-- A write of one line changes the bytes of its mask. -/
theorem Moves.cohWrite {P : Nat → Prop} (s : State) (l d m : Nat)
    (h : ∀ x, x / 128 = l → m / 2 ^ (x % 128) % 2 = 1 → P x) : Moves P s (cohWrite s l d m).1 := by
  unfold Machine.cohWrite; split
  · exact Moves.refl _ _
  · refine Moves.trans ?_ (Calm.fireWatches _ _).moves
    refine Moves.setMem s _ _ _ fun a ha => ?_
    rw [byteAt_writeMasked, if_neg]
    rintro ⟨h1, h2, h3⟩
    refine ha (h a (by omega) ?_)
    rw [show a % 128 = a - l * 128 by omega]; exact h3

theorem getLsbD_iff {n : Nat} (b : BitVec n) (i : Nat) : b.getLsbD i = true ↔ b.toNat / 2 ^ i % 2 = 1 := by
  rw [BitVec.getLsbD, Nat.testBit_eq_decide_div_mod_eq]; simp

theorem testBit_iff (m k : Nat) : m.testBit k = true ↔ m / 2 ^ k % 2 = 1 := by rw [Nat.testBit_eq_decide_div_mod_eq]; simp
theorem mask_iff {m k : Nat} (h : k < 128) : (BitVec.ofNat 128 m).getLsbD k = true ↔ m / 2 ^ k % 2 = 1 := by
  rw [BitVec.getLsbD_ofNat, ← testBit_iff]; simp [h]
theorem Quiet.setHeld (s : State) (a b : Nat) (l : List Held) : Quiet s (setHeld s a b l) := ⟨rfl, rfl, rfl, rfl, fun _ => rfl⟩
theorem Quiet.cohWrite (s : State) (l d m : Nat) : Quiet s (cohWrite s l d m).1 :=
  (Moves.cohWrite (P := fun _ => True) s l d m fun _ _ _ => trivial).1
/-- Bytes written over those a slice holds: those of the write's mask, and those it held. -/
theorem Moves.writeOver {P : Nat → Prop} (s : State) (a b l d m : Nat) (h : ∀ x, x / 128 = l → m / 2 ^ (x % 128) % 2 = 1 → P x) :
    Moves P s (writeOver s a b l d m).1 := by
  unfold Machine.writeOver; dsimp only; split
  · split
    · exact (Calm.siteFail _ _ _).moves
    · exact (Calm.gatherWrite _ _ _ _).moves.trans (Moves.cohWrite _ _ _ _ h)
  · rename_i y hf
    have hm := List.mem_of_find?_eq_some hf
    have hl : y.line = l := by simpa using List.find?_some hf
    have hs : Moves P s (Machine.setHeld s a b ((heldOf s a b).filter fun h => h.line != l)) := Moves.setHeld s a b _ fun e he x hx hd =>
      .inr ⟨e, (List.mem_filter.mp he).1, rfl, hd⟩
    split
    · exact hs.trans (Calm.siteFail _ _ _).moves
    refine ⟨((Quiet.setHeld _ _ _ _).trans (Calm.gatherWrite _ _ _ _).1).trans (Quiet.cohWrite _ _ _ _), fun i => ?_⟩
    refine (hs.trans ((Calm.gatherWrite _ _ _ _).moves.trans (Moves.cohWrite _ _ _ _ ?_))).2 i
    · intro x hx hd
      rw [← testBit_iff, Nat.testBit_or, Bool.or_eq_true] at hd
      rcases hd with hd | hd
      · exact i x (.inr ⟨a, b, y, hm, by rw [hl]; exact hx.symm, hd⟩)
      · rw [Nat.testBit_mod_two_pow, Bool.and_eq_true] at hd
        exact h x hx ((testBit_iff _ _).mp hd.2)
theorem Moves.mergeHeld {P} (s : State) (a b l : Nat) : Moves P s (mergeHeld s a b l) :=
  Moves.ite (Moves.writeOver _ _ _ _ _ _ fun x _ h => by simp at h) (Moves.refl _ _)
theorem Moves.holdBytes {P : Nat → Prop} (s : State) (a b l d m : Nat) (h : ∀ x, x / 128 = l → m / 2 ^ (x % 128) % 2 = 1 → P x) :
    Moves P s (holdBytes s a b l d m) := by
  unfold Machine.holdBytes
  dsimp only
  refine Moves.trans ?_ ((Calm.fireWatches _ _).moves)
  have hp : ∀ x : Nat, x / 128 = l → (BitVec.ofNat 128 m).getLsbD (x % 128) = true → P x := by
    intro x hx hd
    refine h x hx ?_
    exact (mask_iff (by omega)).mp hd
  split
  · rename_i y hf
    have hm := List.mem_of_find?_eq_some hf
    have hl : y.line = l := by simpa using List.find?_some hf
    refine Moves.setHeld _ _ _ _ fun e he x hx hd => ?_
    obtain ⟨z, hz, rfl⟩ := List.mem_map.mp he
    by_cases hzl : (z.line == l) = true
    · rw [if_pos hzl] at hd hx ⊢
      simp only [BitVec.getLsbD_or, Bool.or_eq_true] at hd
      rcases hd with hd | hd
      · exact .inr ⟨y, hm, rfl, hd⟩
      · exact .inl (hp x (by rw [hx]; exact hl) hd)
    · rw [if_neg hzl] at hd hx ⊢
      exact .inr ⟨z, hz, rfl, hd⟩
  · have key : ∀ t : State, Moves P s t → Moves P s (Machine.setHeld t a (s.sliceOf a b)
        (heldOf t a (s.sliceOf a b) ++ [{ line := l, data := BitVec.ofNat 1024 (overlay 0 d m), mask := BitVec.ofNat 128 m, cores := 1 <<< b, started := false, born := s.ticks, sec := (tokOf s l).sec }])) := by
      intro t ht
      refine ht.trans (Moves.setHeld _ _ _ _ fun e he x hx hd => ?_)
      rcases List.mem_append.mp he with he | he
      · exact .inr ⟨e, he, rfl, hd⟩
      · simp only [List.mem_singleton] at he; subst he
        exact .inl (hp x hx hd)
    refine key _ ?_
    split
    · split
      · exact Moves.mergeHeld _ _ _ _
      · exact Moves.refl _ _
    · exact Moves.refl _ _
theorem Moves.writeThrough {P : Nat → Prop} (s : State) (a b l d m : Nat) (h : ∀ x, x / 128 = l → m / 2 ^ (x % 128) % 2 = 1 → P x) :
    Moves P s (writeThrough s a b l d m).1 := Moves.writeOver _ _ _ _ _ _ h
theorem Moves.writeBack {P} (s : State) (a b l : Nat) (deep : Bool) : Moves P s (writeBack s a b l deep) := by
  unfold Machine.writeBack writeBackSt; split
  · exact Moves.refl _ _
  · rename_i x hf
    split
    · exact Moves.refl _ _
    have hm := FMap.mem_of_find hf
    have h1 : ∀ Q, Moves Q s (s.setCore a b { s.core a b with l1 := FMap.set (s.core a b).l1 l { x with dirty := 0 } }) := by
      intro Q
      refine Moves.setCore _ _ _ _ fun e he y hy hd => ?_
      rcases FMap.mem_set he with he | he
      · subst he; simp at hd
      · exact .inr ⟨e, he, rfl, hd⟩
    dsimp only
    rw [apply_ite Prod.fst]
    generalize s.setCore a b { s.core a b with l1 := FMap.set (s.core a b).l1 l { x with dirty := 0 } } = u at h1 ⊢
    have key : ∀ Q : Nat → Prop, (∀ y, y / 128 = l → x.dirty.toNat / 2 ^ (y % 128) % 2 = 1 → Q y) → Moves Q s (if deep = true then
        (Machine.writeThrough u a b l x.data.toNat x.dirty.toNat).1 else Machine.holdBytes u a b l x.data.toNat x.dirty.toNat) := fun Q h2 =>
      (h1 Q).trans (Moves.ite (Moves.writeThrough _ _ _ _ _ _ h2) (Moves.holdBytes _ _ _ _ _ _ h2))
    exact ⟨(key (fun _ => True) fun _ _ _ => trivial).1, fun i =>
      (key P fun y hy hd => i y (.inl ⟨a, b, _, hm, hy.symm, (testBit_iff _ _).mpr hd⟩)).2 i⟩
theorem Moves.dropL1 {P} (s : State) (a b l : Nat) (deep : Bool) : Moves P s (dropL1 s a b l deep) :=
  (Moves.writeBack s a b l deep).trans (Moves.setCore _ _ _ _ fun e he _ _ hd => .inr ⟨e, FMap.mem_del he, rfl, hd⟩)
theorem Moves.releaseAct {P} (s : State) (a b c : Nat) : Moves P s (releaseAct s a b c) := by
  unfold Machine.releaseAct
  have h := Moves.foldl (P := P) (fun t l => Moves.writeBack t a b l (decide (3 ≤ c))) ((s.core a b).l1.map fun e => e.1) s
  refine Moves.ite (Moves.refl _ _) (Moves.ite h ((h.trans (Moves.foldl (fun _ _ => Moves.mergeHeld _ _ _ _) _ _)).trans
    (Moves.setHeld _ _ _ _ fun e he x hx hd => ?_)))
  obtain ⟨z, hz, rfl⟩ := List.mem_map.mp he
  exact .inr ⟨z, hz, rfl, hd⟩
theorem Moves.acquireAct {P} (s : State) (a b c : Nat) : Moves P s (acquireAct s a b c) := by
  unfold Machine.acquireAct
  refine Moves.ite (Moves.refl _ _) (Moves.setCore _ _ _ _ fun e he x _ hd => ?_)
  obtain ⟨z, hz, rfl⟩ := List.mem_map.mp (List.mem_filter.mp he).1
  exact .inr ⟨z, hz, rfl, hd⟩
theorem Moves.promoteAct {P} (s : State) (a b : Nat) : Moves P s (promoteAct s a b) :=
  (Moves.releaseAct _ _ _ _).trans (Moves.foldl (fun _ _ => Moves.mergeHeld _ _ _ _) _ _)
theorem Moves.plogAppend {P} (s : State) (a b c : Nat) (l : Option Nat) : Moves P s (plogAppend s a b c l) := by
  have h := Moves.promoteAct (P := P) s a b
  unfold Machine.plogAppend; dsimp only
  generalize Machine.promoteAct s a b = u at h ⊢
  split
  · exact h.trans (Calm.setCore (by rfl)).moves
  · exact (Calm.setCore (by rfl)).moves
theorem Moves.promote {P} (s : State) (a b n : Nat) : Moves P s (promote s a b n) := by
  have h := Moves.promoteAct (P := P) s a b
  unfold Machine.promote; dsimp only
  generalize Machine.promoteAct s a b = u at h ⊢
  exact Moves.ite (Moves.refl _ _) (h.trans (Calm.setCore (by rfl)).moves)
theorem Moves.releaseAt {P} (s : State) (a b c d : Nat) (l : Option Nat) : Moves P s (releaseAt s a b c d l) := by
  unfold Machine.releaseAt
  exact Moves.ite ((Moves.releaseAct _ _ _ _).trans (Moves.plogAppend _ _ _ _ _)) (Moves.releaseAct _ _ _ _)
theorem Moves.l1Room {P} (s : State) (a b l : Nat) : Moves P s (l1Room s a b l) := by
  unfold Machine.l1Room; dsimp only; split
  · exact Moves.refl _ _
  · split
    · exact Moves.dropL1 _ _ _ _ _
    · exact Moves.refl _ _
theorem Moves.cachedLoad {P} (s : State) (a b p n h : Nat) (tok : Bool) : Moves P s (cachedLoad s a b p n h tok).1 := by
  unfold Machine.cachedLoad; dsimp only
  generalize decide ((if h = 2 then (FMap.get { data := 0, valid := 0, dirty := 0 : L1Line } (s.core a b).l1 (lineOf p)).dirty else
    (FMap.get { data := 0, valid := 0, dirty := 0 : L1Line } (s.core a b).l1 (lineOf p)).valid).toNat / 2 ^ (p % 128) % 2 ^ n = 2 ^ n - 1) = full
  have g : Moves P s (if (full || !tok) = true then s else Machine.gatherRead s a (lineOf p) (s.sliceOf a b)) :=
    Moves.ite (Moves.refl _ _) (Calm.gatherRead _ _ _ _).moves
  generalize (if (full || !tok) = true then s else Machine.gatherRead s a (lineOf p) (s.sliceOf a b)) = s1 at g ⊢
  split
  · exact g
  · have fill : ∀ t : State, Moves P s t → ∀ (d : BitVec 1024) (m : Bool), Moves P s (t.setCore a b { t.core a b with
        l1 := FMap.set (t.core a b).l1 (lineOf p) { data := d, valid := BitVec.allOnes 128, dirty := (FMap.get { data := 0, valid := 0, dirty := 0 : L1Line } (s.core a b).l1 (lineOf p)).dirty, strm := m } }) := by
      intro t ht d m
      refine ⟨ht.1.trans ⟨rfl, rfl, rfl, rfl, fun _ => rfl⟩, fun i => ?_⟩
      refine (ht.2.trans (Keep.setCore _ _ _ _ fun e he x hx hd => ?_)) i
      rcases FMap.mem_set he with he | he
      · subst he
        refine .inl (i x (.inl ⟨a, b, (lineOf p, FMap.get { data := 0, valid := 0, dirty := 0 : L1Line } (s.core a b).l1 (lineOf p)), ?_, hx.symm, hd⟩))
        cases hf : FMap.find (s.core a b).l1 (lineOf p) with
        | none => rw [FMap.get_of_find, hf] at hd; simp at hd
        | some y => rw [FMap.get_of_find, hf]; exact FMap.mem_of_find hf
      · exact .inr ⟨e, he, rfl, hd⟩
    split
    · exact g
    · have h := fun d m => fill _ (g.trans (Moves.l1Room s1 a b (lineOf p))) d m
      exact Moves.ite ((h _ _).trans (Moves.dropL1 _ _ _ _ _)) (h _ _)
theorem storeMask {p n x : Nat} (h : ((2 ^ n - 1) * 2 ^ (p % 128)) / 2 ^ (x % 128) % 2 = 1) (hl : x / 128 = p / 128) :
    p ≤ x ∧ x < p + n := by
  rw [← testBit_iff, Nat.testBit_mul_two_pow] at h
  simp only [Nat.testBit_two_pow_sub_one, Bool.and_eq_true, decide_eq_true_eq] at h
  omega
theorem Moves.dieStore {P : Nat → Prop} (s : State) (a p n v : Nat) (hp : ∀ x, p ≤ x → x < p + n → P x) :
    Moves P s (dieStore s a p n v).1 :=
  (Calm.gatherWrite _ _ _ _).moves.trans (Moves.cohWrite _ _ _ _ fun x hx hm => let g := storeMask hm hx; hp x g.1 g.2)
/-- Bytes of a line put into an L1 that may hold it: the new dirty bytes are among `m`, or were dirty before. -/
theorem Moves.l1Put {P : Nat → Prop} (s t : State) (ht : Moves P s t) (a b l : Nat) (y : L1Line)
    (hy : ∀ x, x / 128 = l → y.dirty.getLsbD (x % 128) = true → P x ∨ ∃ z, FMap.find (s.core a b).l1 l = some z ∧ z.dirty.getLsbD (x % 128) = true) :
    Moves P s (t.setCore a b { t.core a b with l1 := FMap.set (t.core a b).l1 l y }) := by
  refine ⟨ht.1.trans ⟨rfl, rfl, rfl, rfl, fun _ => rfl⟩, fun i => ?_⟩
  refine (ht.2.trans (Keep.setCore _ _ _ _ fun e he x hx hd => ?_)) i
  rcases FMap.mem_set he with he | he
  · subst he
    rcases hy x hx hd with h | ⟨z, hz, hd⟩
    · exact .inl h
    · exact .inl (i x (.inl ⟨a, b, _, FMap.mem_of_find hz, hx.symm, hd⟩))
  · exact .inr ⟨e, he, rfl, hd⟩
theorem Moves.cachedStore {P : Nat → Prop} (s : State) (a b p n v d h : Nat) (hp : ∀ x, p ≤ x → x < p + n → P x) :
    Moves P s (cachedStore s a b p n v d h).1 := by
  have hm : ∀ x, x / 128 = lineOf p → ((2 ^ n - 1) * 2 ^ (p % 128)) / 2 ^ (x % 128) % 2 = 1 → P x := fun x hx h =>
    let g := storeMask h hx; hp x g.1 g.2
  have put : ∀ (t : State) (dirty : Bool) (data : BitVec 1024) (valid : BitVec 128) (m : Bool), Moves P s t →
      let x := match FMap.find (s.core a b).l1 (lineOf p) with | some x => x | Option.none => { data := 0, valid := 0, dirty := 0 }
      let k := BitVec.ofNat 128 ((2 ^ n - 1) * 2 ^ (p % 128))
      Moves P s (t.setCore a b { t.core a b with
        l1 := FMap.set (t.core a b).l1 (lineOf p) { data := data, valid := valid, dirty := if dirty then x.dirty ||| k else x.dirty &&& ~~~k, strm := m } }) := by
    intro t dirty data valid m ht
    refine Moves.l1Put s t ht a b _ _ fun x hx hd => ?_
    have hd' : ((match FMap.find (s.core a b).l1 (lineOf p) with | some x => x | Option.none => { data := 0, valid := 0, dirty := 0 : L1Line }).dirty.getLsbD (x % 128) = true) ∨
        (BitVec.ofNat 128 ((2 ^ n - 1) * 2 ^ (p % 128))).getLsbD (x % 128) = true := by
      dsimp only at hd
      cases dirty
      · rw [if_neg (by simp), BitVec.getLsbD_and, Bool.and_eq_true] at hd; exact .inl hd.1
      · rw [if_pos rfl, BitVec.getLsbD_or, Bool.or_eq_true] at hd; exact hd
    rcases hd' with hd | hd
    · cases hf : FMap.find (s.core a b).l1 (lineOf p) with
      | none => rw [hf] at hd; simp at hd
      | some z => rw [hf] at hd; exact .inr ⟨z, rfl, hd⟩
    · exact .inl (hm x hx ((mask_iff (by omega)).mp hd))
  unfold Machine.cachedStore; dsimp only; split
  · have g := fun data valid m => put _ true data valid m (Moves.l1Room (P := P) s a b (lineOf p))
    dsimp only; split
    · exact (g _ _ _).trans (Moves.dropL1 _ _ _ _ _)
    · exact g _ _ _
  · refine Moves.trans (Moves.ite (Moves.dropL1 _ _ _ _ _) (Moves.ite (put s false _ _ _ (Moves.refl _ _)) (Moves.refl _ _)))
      (Moves.holdBytes _ _ _ _ _ _ hm)
  · refine Moves.trans (Moves.ite (Moves.dropL1 _ _ _ _ _) (Moves.ite (put s false _ _ _ (Moves.refl _ _)) (Moves.refl _ _)))
      (Moves.writeThrough _ _ _ _ _ _ hm)
/-- The address that a place in a window comes from. -/
theorem region_window {pa site core off : Nat} (h : region pa = .window site core off) : pa = winAddr site core + off := by
  unfold region at h; dsimp only at h
  split at h
  · simp at h
  · split at h
    · simp at h
    · split at h
      · split at h
        · simp only [Region.window.injEq] at h
          obtain ⟨rfl, rfl, rfl⟩ := h
          unfold winAddr; omega
        · simp at h
      · split at h <;> simp at h
theorem div_line (p n k : Nat) (h : n = 128 * k) : p / n = p / 128 * 128 / n := by
  subst h; rw [← Nat.div_div_eq_div_mul, ← Nat.div_div_eq_div_mul, Nat.mul_div_cancel _ (by decide)]
theorem homeOf_line (pa : Nat) : homeOf (lineOf pa) = pa / 0x1000000000 := by
  unfold homeOf lineOf; exact (div_line pa 0x1000000000 0x20000000 (by norm_num)).symm
/-- The home of an address of HBM. -/
theorem region_site {pa home : Nat} (h : region pa = .hbm home) : home = pa / 0x1000000000 := by
  unfold region at h; dsimp only at h
  by_cases h1 : pa < 0x30000000000
  · rw [if_pos h1] at h; exact (Region.hbm.inj h).symm
  · rw [if_neg h1] at h
    exfalso
    revert h
    repeat' split
    all_goals simp
theorem region_hbm {pa home : Nat} (h : region pa = .hbm home) : home = homeOf (lineOf pa) :=
  (region_site h).trans (homeOf_line pa).symm
theorem Moves.fire {P : Nat → Prop} {s t : State} (h : Moves P s t) (p : Nat → Warp → Bool) : Moves P s (fireWatches t p) :=
  h.trans (Calm.fireWatches _ _).moves
theorem Moves.windowStore {P : Nat → Prop} (s : State) (a b o n v : Nat)
    (hp : ∀ x, winAddr a b + o ≤ x → x < winAddr a b + o + n → P x) : Moves P s (windowStore s a b o n v).1 := by
  by_cases h : 0x100000 ≤ o ∧ o < 0x180000
  · unfold Machine.windowStore
    extract_lets fire
    rw [if_pos (by simpa using h)]
    refine Moves.fire (t := { s with mem := writeBytes s.mem (winAddr a b + o) n v }) ?_ _
    refine ⟨⟨rfl, rfl, rfl, rfl, fun _ => rfl⟩, fun i => ⟨i, fun x hx => ?_, rfl, rfl⟩⟩
    refine byteAt_writeBytes_out _ _ _ _ _ ?_
    by_contra hc
    exact hx (hp x (by omega) (by omega))
  · exact (Calm.windowStore _ _ _ _ _ _ h).moves
/-- A die drops clean lines of its L1s: no byte waits that did not wait before. -/
theorem Moves.dropReplica {P : Nat → Prop} (s : State) (a p n : Nat) : Moves P s (dropReplica s a p n) := by
  unfold Machine.dropReplica; dsimp only
  refine Moves.trans ?_ (Calm.dropReps _ _ _).moves
  refine (Calm.setDie (a := a) (d := { s.die a with replicas := (s.die a).replicas.filter fun q => q != p }) (by rfl)).moves.trans ?_
  refine ⟨⟨rfl, rfl, rfl, rfl, fun _ => rfl⟩, fun i => ⟨fun x hx => i x ?_, fun _ _ => rfl, rfl, rfl⟩⟩
  rcases hx with ⟨u, v, e, he, hh⟩ | h
  · refine .inl ⟨u, v, e, ?_, hh⟩
    revert he
    unfold State.core
    show e ∈ (FMap.get Core.reset (List.map _ s.cores) (coreKey u v)).l1 → e ∈ (FMap.get Core.reset s.cores (coreKey u v)).l1
    induction s.cores with
    | nil => exact id
    | cons y m ih =>
      obtain ⟨k, c⟩ := y
      rw [List.map_cons]
      split
      all_goals
        simp only [FMap.get]
        split
        · first | exact id | exact fun h => (List.mem_filter.mp h).1
        · exact ih
  · exact .inr h
/-- The demotion of a page changes bytes of the recorded entry alone (R95). -/
theorem Moves.demotePage {P : Nat → Prop} (s : State) (h p e : Nat) (big : Bool)
    (hp : let a := (match (s.die h).repDir.find? fun x => x.page == p with | some r => r.entry | Option.none => e)
      ∀ x, a ≤ x → x < a + 8 → P x) : Moves P s (demotePage s h p e big) := by
  have body : ∀ r : RepEnt, (∀ x, r.entry ≤ x → x < r.entry + 8 → P x) → Moves P s (
      let s1 := (sitesOf r.sites).foldl (fun t x => Machine.dropReplica t x p r.span) s
      let e := readBytes s1.mem r.entry 8
      let s2 := if attrOf e = 2 && siteSt s1 h (homeOf (lineOf r.entry)) == stOk then (Machine.dieStore s1 (homeOf (lineOf r.entry)) r.entry 8 (e % 2 ^ 62)).1 else s1
      let s3 := r.held.foldl (fun t x => Machine.treatHome t x r.entry) s2
      let d := s3.die h
      let others := d.repDir.filter fun x => x.page != p
      if 4096 ≤ others.length then s3
      else s3.setDie h { d with repDir := { r with sites := 0, acks := 0, demoted := true, gate := false, held := [] } :: others }) := by
    intro r he
    have h1 := Moves.foldl (P := P) (f := fun t x => Machine.dropReplica t x p r.span) (fun _ _ => Moves.dropReplica _ _ _ _) (sitesOf r.sites) s
    dsimp only
    generalize List.foldl (fun t x => Machine.dropReplica t x p r.span) s (sitesOf r.sites) = s1 at h1 ⊢
    have h2 : Moves P s (if (decide (attrOf (readBytes s1.mem r.entry 8) = 2) && siteSt s1 h (homeOf (lineOf r.entry)) == stOk) = true then
        (Machine.dieStore s1 (homeOf (lineOf r.entry)) r.entry 8 (readBytes s1.mem r.entry 8 % 2 ^ 62)).1 else s1) :=
      Moves.ite (h1.trans (Moves.dieStore _ _ _ _ _ he)) h1
    generalize (if (decide (attrOf (readBytes s1.mem r.entry 8) = 2) && siteSt s1 h (homeOf (lineOf r.entry)) == stOk) = true then
        (Machine.dieStore s1 (homeOf (lineOf r.entry)) r.entry 8 (readBytes s1.mem r.entry 8 % 2 ^ 62)).1 else s1) = s2 at h2 ⊢
    have h3 := h2.trans (Moves.foldl (f := fun t x => Machine.treatHome t x r.entry) (fun _ _ => (Calm.treatHome _ _ _).moves) r.held s2)
    generalize List.foldl (fun t x => Machine.treatHome t x r.entry) s2 r.held = s3 at h3 ⊢
    exact Moves.ite h3 (h3.trans (Calm.setDie (by rfl)).moves)
  dsimp only at hp
  unfold Machine.demotePage
  cases hf : List.find? (fun x : RepEnt => x.page == p) (s.die h).repDir with
  | some r => rw [hf] at hp; exact body r hp
  | none => rw [hf] at hp; exact body _ hp
theorem Moves.demoteFor {P : Nat → Prop} (s : State) (h : Nat) (t : Tr) (hh : h = homeOf (lineOf t.pa)) (hp : ∀ a, s.demotes t a → P a) :
    Moves P s (demoteFor s h t) := by
  unfold Machine.demoteFor; subst hh
  split
  · rename_i hd
    refine Moves.demotePage _ _ _ _ _ fun x h1 h2 => hp x ⟨?_, h1, h2⟩
    simp only [Bool.and_eq_true, beq_iff_eq] at hd; exact hd.1
  · exact Moves.refl _ _
theorem Moves.fillReplica {P : Nat → Prop} (s : State) (a h : Nat) (t : Tr) (ht : t.attr = 2) (hh : h = homeOf (lineOf t.pa))
    (hp : ∀ x, s.demotes t x → P x) : Moves P s (fillReplica s a h t).1 := by
  subst hh
  unfold Machine.fillReplica; dsimp only; split
  · split
    · exact (Calm.treatHome _ _ _).moves
    · split
      · exact (Moves.demotePage _ _ _ _ _ fun x h1 h2 => hp x ⟨ht, h1, h2⟩).trans (Calm.treatHome _ _ _).moves
      · exact (Calm.markReplica _ _ _ _ _).moves
  · split
    · exact Moves.refl _ _
    · exact (Calm.markReplica _ _ _ _ _).moves
/-- The slice of a core holds the line as a replica, or the home is asked. -/
theorem Moves.findReplica {P : Nat → Prop} (s : State) (w : Who) (h : Nat) (t : Tr) (ht : t.attr = 2) (hh : h = homeOf (lineOf t.pa))
    (hp : ∀ x, s.demotes t x → P x) : Moves P s (findReplica s w h t).1 := by
  unfold Machine.findReplica; dsimp only; split
  · exact Moves.refl _ _
  · have f := Moves.fillReplica s w.site h t ht hh hp
    exact Moves.ite (f.trans (Calm.addReplica _ _ _ _ _ _).moves) f
theorem entryOf_notePage (s : State) (l : Nat) (p t : Tr) : (notePage s l p).entryOf t = s.entryOf t := by
  unfold Machine.notePage; dsimp only; split <;> rfl
theorem demotes_notePage {s : State} {l : Nat} {p t : Tr} {a : Nat} (h : (notePage s l p).demotes t a) :
    s.demotes t a := by
  unfold State.demotes at *; rw [entryOf_notePage] at h; exact h

/-- A load stores nothing: of package memory it changes bytes of earlier stores that leave an L1 for want of room, and the entry of
a page whose gate is closed (R95, R281). -/
theorem Moves.plainLoad {P : Nat → Prop} (s : State) (w : Who) (t : Tr) (n h : Nat) (he : ∀ a, s.demotes t a → P a) :
    Moves P s (plainLoad s w t n h).1 := by
  unfold Machine.plainLoad
  split
  · exact Moves.refl _ _
  · exact (Calm.peerSend _ _ _ _).moves
  · split
    · split
      · exact (Calm.latchGuard _ _ _).moves
      · dsimp only; split
        · exact (Calm.refuse _ _ _ _ _).moves
        · exact (Calm.sendReq _ _ _).moves
    · rename_i home hr
      have hh := region_hbm hr
      have hg := Calm.hbmGate s w home t.pa
      split; rename_i s0 st e; rw [e] at hg
      split
      · exact hg.moves
      · have h1 := Calm.notePage s (lineOf t.pa) t
        dsimp only
        have h2 : Moves P s (if (t.attr = 2 && t.set.getLsbD w.site) = true then
            Machine.findReplica (Machine.notePage s (lineOf t.pa) t) w home t
          else (Machine.notePage s (lineOf t.pa) t, .demoted)).1 := by
          split
          · rename_i ha
            simp only [Bool.and_eq_true, decide_eq_true_eq] at ha
            exact h1.moves.trans (Moves.findReplica _ _ _ _ ha.1 hh fun x hx => he x (demotes_notePage hx))
          · exact h1.moves
        generalize (if (t.attr = 2 && t.set.getLsbD w.site) = true then
            Machine.findReplica (Machine.notePage s (lineOf t.pa) t) w home t
          else (Machine.notePage s (lineOf t.pa) t, .demoted)) = x at h2 ⊢
        split
        · exact h2.trans (Moves.cachedLoad _ _ _ _ _ _ _)
        · rw [apply_ite Prod.fst, ite_self]
          exact (h2.trans (Calm.sendReq _ _ _).moves).trans (Moves.ite (Moves.refl _ _) (Calm.gatherRead _ _ _ _).moves)
    · exact Moves.refl _ _
theorem Moves.doLoad {P : Nat → Prop} (s : State) (w : Who) (t : Tr) (n h : Nat) (he : ∀ a, s.demotes t a → P a) :
    Moves P s (doLoad s w t n h).1 := by
  have g := Moves.plainLoad s w t n h he
  unfold Machine.doLoad; dsimp only
  split
  · exact g.trans (Calm.fresh _).moves
  · exact g

/-- A store changes its own bytes, those of the page entry that it demotes, and bytes of earlier stores on their way. -/
theorem Moves.doStore {P : Nat → Prop} (s : State) (w : Who) (t : Tr) (n v d h : Nat) (hk : t.kind = .localMem)
    (hp : ∀ x, t.pa ≤ x → x < t.pa + n → P x) (he : ∀ a, s.demotes t a → P a) :
    Moves P s (doStore s w t n v d h).1 := by
  unfold Machine.doStore
  rw [hk]; dsimp only
  split
  · rename_i site core off hr
    have ha := region_window hr
    split
    · exact (Calm.latchGuard _ _ _).moves
    · split
      · exact (Calm.refuse _ _ _ _ _).moves
      · exact (Calm.sendReq _ _ _).moves.trans (Moves.windowStore _ _ _ _ _ _ (by rw [← ha]; exact hp))
  · rename_i home hr
    have hg := Calm.hbmGate s w home t.pa
    split
    · exact hg.moves
    · have h1 := (Calm.notePage s (lineOf t.pa) t).moves.trans
        (Moves.demoteFor (P := P) _ home t (region_hbm hr) fun x hx => he x (demotes_notePage hx))
      split
      · exact h1.trans (Moves.cachedStore _ _ _ _ _ _ _ _ hp)
      · exact (h1.trans (Calm.sendReq _ _ _).moves).trans (Moves.dieStore _ _ _ _ _ hp)
  · exact Moves.refl _ _

end Sys2Proof.Machine
end

