-- ==== Sys2Proof/Laws/Frame.lean ====
section
/-! SUPPORT. What the end of a scalar instruction can do, alone or in a pair: the shared operations of Pair.lean and Scalar.lean
each with one lemma that says all of it. -/
namespace Sys2Proof.Machine

@[simp] theorem Warp.plain_rd (w : Warp) (r : BitVec 6) : w.plain.rd r = w.rd r := rfl
theorem Warp.plain_rd_of {w x : Warp} (h : w.plain = x.plain) (r : BitVec 6) : w.rd r = x.rd r := by
  rw [← Warp.plain_rd w, h, Warp.plain_rd]
theorem Warp.plain_pc_of {w x : Warp} (h : w.plain = x.plain) : w.pc = x.pc := by
  have e : w.plain.pc = x.plain.pc := congrArg Warp.pc h
  exact e
theorem Warp.plain_s_of {w x : Warp} (h : w.plain = x.plain) : w.s = x.s := by
  have e : w.plain.s = x.plain.s := congrArg Warp.s h
  exact e
@[simp] theorem Warp.plain_plain (w : Warp) : w.plain.plain = w.plain := rfl

theorem OnlyWarp.refl (s : State) : OnlyWarp s s := ⟨rfl, fun _ _ => rfl⟩

theorem OnlyWarp.cur {s t : State} (h : OnlyWarp s t) : t.cur = s.cur := by rw [h.1]
theorem OnlyWarp.curKey {s t : State} (h : OnlyWarp s t) : t.curKey = s.curKey := by unfold State.curKey; rw [h.cur]
theorem OnlyWarp.mem {s t : State} (h : OnlyWarp s t) : t.mem = s.mem := by rw [h.1]

theorem OnlyWarp.trans {s t u : State} (h : OnlyWarp s t) (g : OnlyWarp t u) : OnlyWarp s u := by
  refine ⟨?_, fun q hq => (g.2 q (by rw [h.curKey]; exact hq)).trans (h.2 q hq)⟩
  rw [g.1, h.1]

/-- Changing the warp that executes. -/
theorem OnlyWarp.setW (s : State) (w : Warp) : OnlyWarp s (s.setW w) := by
  refine ⟨rfl, fun q hq => ?_⟩
  have hk : warpKey q.site q.core q.slot ≠ warpKey s.cur.site s.cur.core s.cur.slot := hq
  rw [State.setW_wref, if_neg hk]

/-- Changing what a pair keeps of any warp. -/
theorem OnlyWarp.setWref {s : State} {r : WRef} {w : Warp} (h : w.plain = (s.wref r).plain) : OnlyWarp s (s.setWref r w) := by
  refine ⟨rfl, fun q _ => ?_⟩
  rw [State.setWref_wref]
  split
  · rename_i hk; rw [h]; simp only [State.wref, State.warp, hk]
  · rfl

theorem State.setWref_plain {s : State} {r : WRef} {w : Warp} (h : w.plain = (s.wref r).plain) :
    (s.setWref r w).curW.plain = s.curW.plain := by
  rw [State.setWref_curW]
  split
  · rename_i hk; rw [h]; simp only [State.wref, State.curW, State.warp, hk]
  · rfl

/-- Counting an instruction changes only what the pair keeps. -/
theorem State.counted_spec (s : State) (lane : Bool) :
    OnlyWarp s (s.counted lane) ∧ (s.counted lane).curW.plain = s.curW.plain := by
  unfold State.counted
  split
  · exact ⟨OnlyWarp.refl s, rfl⟩
  · rename_i sh _
    have h : (if lane then { s.wref sh with leadL := (s.wref sh).leadL + 1 } else { s.wref sh with leadS := (s.wref sh).leadS + 1 } : Warp).plain =
        (s.wref sh).plain := by split <;> rfl
    exact ⟨OnlyWarp.setWref h, State.setWref_plain h⟩
  · refine ⟨OnlyWarp.setW _ _, ?_⟩
    rw [State.setW_curW]; split <;> rfl

/-- A scalar instruction ends: the warp is the one given, at the next word, and waits for nothing. -/
theorem State.retire_spec (s : State) (w : Warp) :
    ∃ t, s.retire w = .next t ∧ OnlyWarp s t ∧ t.curW.plain = w.step.plain := by
  refine ⟨_, rfl, (OnlyWarp.setW s _).trans (State.counted_spec _ _).1, ?_⟩
  rw [(State.counted_spec _ _).2, State.setW_curW]

/-- A scalar instruction transfers control. -/
theorem State.jump_spec (s : State) (w : Warp) (pc : Word) :
    ∃ t, s.jump w pc = .next t ∧ OnlyWarp s t ∧ t.curW.plain = { w.plain with pc := pc, park := .none } := by
  refine ⟨_, rfl, (OnlyWarp.setW s _).trans (State.counted_spec _ _).1, ?_⟩
  rw [(State.counted_spec _ _).2, State.setW_curW]; rfl

/-- A check that agrees lets the instruction go on, with nothing but what the pair keeps changed (R317). -/
theorem State.checked_spec {s : State} {lane : Bool} {v pc : Nat} {k : State → Out} (h : CheckAgrees s lane v) :
    ∃ u, s.checked lane v pc k = k u ∧ OnlyWarp s u ∧ u.curW.plain = s.curW.plain := by
  unfold State.checked
  unfold CheckAgrees at h
  split <;> rename_i hr <;> simp only [hr] at h
  · exact ⟨s, rfl, OnlyWarp.refl s, rfl⟩
  · rw [if_pos h]
    refine ⟨_, rfl, OnlyWarp.setWref rfl, State.setWref_plain rfl⟩
  · obtain ⟨e, l, ht, hc, hp, hv⟩ := h
    simp only [ht, hc, hv, Bool.and_self, beq_self_eq_true, if_true]
    exact ⟨_, rfl, OnlyWarp.setW _ _, by rw [State.setW_curW]; rfl⟩

/-- A value from outside reaches both warps of a pair (R314). -/
theorem State.outside_spec {s : State} {own v : Nat} {k : State → Nat → Out} (h : OutsideGives s own v) :
    ∃ u, s.outside own k = k u v ∧ OnlyWarp s u ∧ u.curW.plain = s.curW.plain := by
  unfold State.outside
  unfold OutsideGives at h
  split <;> rename_i hr <;> simp only [hr] at h
  · exact ⟨s, by rw [h], OnlyWarp.refl s, rfl⟩
  · rw [if_pos h.1, h.2]
    exact ⟨_, rfl, OnlyWarp.setWref rfl, State.setWref_plain rfl⟩
  · obtain ⟨e, l, ht, hc, hv⟩ := h
    simp only [ht, hc, hv]
    exact ⟨_, rfl, OnlyWarp.setW _ _, by rw [State.setW_curW]; rfl⟩

/-- An instruction that writes one register. -/
theorem State.toReg_spec (s : State) (d : BitVec 6) (v : Word) :
    ∃ t, s.toReg d v = .next t ∧ ScalarFrame s t ∧ NextWord s t ∧
      ∀ r, t.curW.rd r = if r = 63 then 0 else if r = d then v else s.curW.rd r := by
  obtain ⟨t, ht, hf, hw⟩ := s.retire_spec (s.curW.wr d v)
  refine ⟨t, ht, ⟨hf, ?_⟩, ?_, fun r => ?_⟩
  · rw [Warp.plain_s_of hw, Warp.plain_pc_of hw, hw]; unfold Warp.wr; split <;> rfl
  · unfold NextWord; rw [Warp.plain_pc_of hw]; simp
  · rw [Warp.plain_rd_of hw]; simp

end Sys2Proof.Machine
end

