-- ==== Sys2Proof/Laws/Access.lean ====
section
/-! SUPPORT. What an access leaves of the executing warp and of its pair, as the statements say it. -/
namespace Sys2Proof.Machine

theorem still_field {α : Type} (f : Warp → α) (hf : ∀ w : Warp, f w.still = f w) {w x : Warp} (h : w.still = x.still) : f w = f x := by
  rw [← hf w, h, hf]
theorem plain_field {α : Type} (f : Warp → α) (hf : ∀ w : Warp, f w.plain = f w) {w x : Warp} (h : w.plain = x.plain) : f w = f x := by
  rw [← hf w, h, hf]
theorem plain_still (w : Warp) : w.plain.still = w.still.plain := rfl
theorem Quiet.role {s t : State} (h : Quiet s t) : t.role = s.role := by
  unfold State.role roleOf
  rw [still_field Warp.mate (fun _ => rfl) h.curW, still_field Warp.shadow (fun _ => rfl) h.curW]
theorem OnlyWarp.role {s t : State} (hp : t.curW.plain = s.curW.plain) : t.role = s.role := by
  unfold State.role roleOf
  rw [plain_field Warp.mate (fun _ => rfl) hp, plain_field Warp.shadow (fun _ => rfl) hp]
theorem Quiet.curKey {s t : State} (h : Quiet s t) : t.curKey = s.curKey := by unfold State.curKey; rw [h.1]
theorem Quiet.curRef {s t : State} (h : Quiet s t) : t.curRef = s.curRef := by unfold State.curRef; rw [h.1]
theorem Quiet.gridOf {s t : State} (h : Quiet s t) (w : Warp) : t.gridOf w = s.gridOf w := by
  unfold State.gridOf; rw [h.team, h.grid]
theorem Quiet.lvqRoom {s t : State} (h : Quiet s t) (sh : WRef) (n : Nat) : lvqRoom t sh n = lvqRoom s sh n := by
  unfold Machine.lvqRoom
  rw [show (t.wref sh).lvq = (s.wref sh).lvq from still_field Warp.lvq (fun _ => rfl) (h.warp _ _ _)]
theorem Quiet.curW_plain {s t : State} (h : Quiet s t) : t.curW.plain.still = s.curW.plain.still := by
  rw [plain_still, plain_still, h.curW]
theorem Quiet.rd {s t : State} (h : Quiet s t) (r : BitVec 6) : t.curW.rd r = s.curW.rd r := by
  unfold Warp.rd; rw [still_field Warp.s (fun _ => rfl) h.curW]
theorem Quiet.outside {s t : State} (h : Quiet s t) {a v : Nat} (g : OutsideGives s a v) : OutsideGives t a v := by
  unfold OutsideGives at *
  rw [h.role]
  split <;> rename_i hr <;> simp only [hr] at g
  · exact g
  · rw [h.lvqRoom]; exact g
  · rw [still_field Warp.lvq (fun _ => rfl) h.curW]; exact g

/-- An access, then changes of the executing warp and of what its pair keeps. -/
theorem AccessFrame.of {s t u : State} (h : Quiet s t) (g : OnlyWarp t u) : AccessFrame s u := by
  have same := h
  rcases same with ⟨hcur, hhub, htrust, htime, -⟩
  rw [AccessFrame, show u.cur = t.cur by rw [g.1], show u.hub = t.hub by rw [g.1], show u.trust = t.trust by rw [g.1],
    show u.time = t.time by rw [g.1]]
  refine ⟨hcur, hhub, htrust, htime, fun q hq => ?_⟩
  rw [g.2 q (by rw [h.curKey]; exact hq)]
  have := h.warp q.site q.core q.slot
  show ((t.warp q.site q.core q.slot).still).plain = _
  rw [this]; rfl
theorem OnlyWarp.sameMem {t u : State} (g : OnlyWarp t u) : SameMem t u := by rw [SameMem, g.1]; exact ⟨rfl, rfl, rfl⟩

/-- A scalar load whose access has succeeded goes on with its value and takes an operation tag. -/
theorem State.loaded_spec {s : State} {va : DWord} {t : Tr} {size v : Nat} {k : State → Nat → Out} (h : OutsideGives s v v) :
    ∃ u, s.loaded va t size v stOk k = k u v ∧ OnlyWarp s u ∧ u.curW.plain = { s.curW.plain with tag := s.curW.tag + 1 } := by
  have g : OutsideGives (s.setW { s.curW with tag := s.curW.tag + 1 }) v v := by
    have hr : (s.setW { s.curW with tag := s.curW.tag + 1 }).role = s.role := by
      unfold State.role; rw [State.setW_curW]; rfl
    unfold OutsideGives at *
    rw [hr]
    split <;> rename_i hr <;> simp only [hr] at h
    · rfl
    · refine ⟨?_, rfl⟩
      unfold lvqRoom at *
      rw [State.setW_wref]
      split
      · rename_i hk
        have e : s.curW.lvq = (FMap.get Warp.none s.warps (warpKey s.cur.site s.cur.core s.cur.slot)).lvq := rfl
        dsimp only; rw [e, ← hk]; exact h.1
      · exact h.1
    · rw [State.setW_curW]; exact h
  obtain ⟨u, hu, h1, h2⟩ := State.outside_spec (k := k) g
  refine ⟨u, ?_, (OnlyWarp.setW _ _).trans h1, ?_⟩
  · unfold State.loaded; rw [if_neg (by decide)]; dsimp only; rw [if_pos rfl]; exact hu
  · rw [h2, State.setW_curW]; rfl

end Sys2Proof.Machine
end

