-- ==== Sys2Proof/Laws/Lanes.lean ====
section
/-! SUPPORT. What a lane instruction of fixed latency can do: the writes of its destinations, its bookkeeping, and the whole
of `State.laneOp` and `State.lanePredOp`. -/
namespace Sys2Proof
open Machine

/-- Replacing what a canonical map lists at a key by an entry that a test treats alike finds the same key. -/
theorem FMap.find?_set {α : Type} (p : Nat × α → Bool) (y : α) (a : Nat) :
    ∀ m : FMap α, FMap.wf m = true → (∀ x, (a, x) ∈ m → p (a, x) = p (a, y)) → (∃ x, (a, x) ∈ m) →
      ((FMap.set m a y).find? p).map (·.1) = (m.find? p).map (·.1) := by
  have low : ∀ (m : FMap α) (b : Nat), FMap.above b m = true → ∀ e ∈ m, b < e.1 := by
    intro m
    induction m with
    | nil => intro b _ e he; cases he
    | cons e m ih =>
      obtain ⟨k, v⟩ := e
      intro b h e he
      simp only [FMap.above, Bool.and_eq_true, decide_eq_true_eq] at h
      rcases List.mem_cons.mp he with rfl | he
      · exact h.1
      · exact Nat.lt_trans h.1 (ih k h.2 e he)
  intro m
  induction m with
  | nil => rintro _ _ ⟨x, hx⟩; cases hx
  | cons e m ih =>
    obtain ⟨k, v⟩ := e
    intro hw hp hm
    have hk := low m k (by simpa [FMap.wf] using hw)
    simp only [FMap.set]
    by_cases h1 : a < k
    · obtain ⟨x, hx⟩ := hm
      rcases List.mem_cons.mp hx with hx | hx
      · cases hx; omega
      · have := hk _ hx; simp at this; omega
    · rw [if_neg h1]
      by_cases h2 : a = k
      · subst h2
        have hv := hp v (List.mem_cons_self ..)
        rw [if_pos rfl]; simp only [List.find?_cons, hv]
        split <;> simp
      · rw [if_neg h2]; simp only [List.find?_cons]
        split
        · rfl
        · refine ih (FMap.wf_of_above (by simpa [FMap.wf] using hw)) (fun x hx => hp x (List.mem_cons_of_mem _ hx)) ?_
          obtain ⟨x, hx⟩ := hm
          rcases List.mem_cons.mp hx with hx | hx
          · cases hx; exact absurd rfl h2
          · exact ⟨x, hx⟩

/-- A canonical map lists one entry a key. -/
theorem FMap.wf_unique {α : Type} : ∀ m : FMap α, FMap.wf m = true → ∀ a x y, (a, x) ∈ m → (a, y) ∈ m → x = y := by
  have low : ∀ (m : FMap α) (b : Nat), FMap.above b m = true → ∀ e ∈ m, b < e.1 := by
    intro m
    induction m with
    | nil => intro b _ e he; cases he
    | cons e m ih =>
      obtain ⟨k, v⟩ := e
      intro b h e he
      simp only [FMap.above, Bool.and_eq_true, decide_eq_true_eq] at h
      rcases List.mem_cons.mp he with rfl | he
      · exact h.1
      · exact Nat.lt_trans h.1 (ih k h.2 e he)
  intro m
  induction m with
  | nil => intro _ a x y h; cases h
  | cons e m ih =>
    obtain ⟨k, v⟩ := e
    intro hw a x y hx hy
    have hk := low m k (by simpa [FMap.wf] using hw)
    rcases List.mem_cons.mp hx with hx | hx <;> rcases List.mem_cons.mp hy with hy | hy
    · cases hx; cases hy; rfl
    · cases hx; have := hk _ hy; simp at this
    · cases hy; have := hk _ hx; simp at this
    · exact ih (FMap.wf_of_above (by simpa [FMap.wf] using hw)) a x y hx hy

end Sys2Proof

namespace Sys2Proof.Machine

/-- What the writes of destinations do: `W` gives what is written to register or temporary `n` of lane `l` of the executing
warp. -/
structure Wrote (s t : State) (W : Nat → Nat → Option Word) : Prop where
  rest : t = { s with warps := t.warps, cores := t.cores }
  others : ∀ a b, coreKey a b ≠ coreKey s.cur.site s.cur.core → t.core a b = s.core a b
  core : t.curCore = { s.curCore with words := t.curCore.words, places := t.curCore.places }
  addr : ∀ q n l, vaddr t.curCore q n l = vaddr s.curCore q n l
  wf : FMap.wf t.curCore.places = true
  warps : ∀ q : WRef, warpKey q.site q.core q.slot ≠ s.curKey → t.wref q = s.wref q
  warp : t.curW = { s.curW with t := t.curW.t, tWr := t.curW.tWr }
  hit : ∀ n l v, l < 32 → n < 1544 → W n l = some v → (n < 1536 → (vaddr s.curCore s.cur.slot n l).isSome = true) → t.laneReg n l = v
  words : ∀ a, (∀ n l, l < 32 → n < 1536 → (W n l).isSome = true → vaddr s.curCore s.cur.slot n l ≠ some a) →
    FMap.get 0 t.curCore.words a = FMap.get 0 s.curCore.words a
  temps : ∀ n l, l < 32 → 1536 ≤ n → W n l = none →
    FMap.get 0 t.curW.t ((n - 1536) * 32 + l) = FMap.get 0 s.curW.t ((n - 1536) * 32 + l)

theorem Wrote.cur {s t : State} {W} (h : Wrote s t W) : t.cur = s.cur := by rw [h.rest]
theorem Wrote.curRef {s t : State} {W} (h : Wrote s t W) : t.curRef = s.curRef :=
  congrArg (fun c : Turn => ({ site := c.site, core := c.core, slot := c.slot } : WRef)) h.cur
theorem Wrote.curKey {s t : State} {W} (h : Wrote s t W) : t.curKey = s.curKey := by unfold State.curKey; rw [h.cur]

/-- Two registers of a warp never share a word. -/
theorem vaddr_inj {c : Core} (hw : FMap.wf c.places = true) {q n l n' l' a : Nat} (hl : l < 32) (hl' : l' < 32)
    (h : vaddr c q n l = some a) (h' : vaddr c q n' l' = some a) : n = n' ∧ l = l' := by
  simp only [vaddr, Option.map_eq_some_iff] at h h'
  obtain ⟨⟨p, x⟩, hx, h⟩ := h
  obtain ⟨⟨p', x'⟩, hx', h'⟩ := h'
  dsimp only at h h'
  have hp : p = p' := by omega
  subst hp
  have e : x = x' := FMap.wf_unique _ hw p x x' (List.mem_of_find?_eq_some hx) (List.mem_of_find?_eq_some hx')
  have b := List.find?_some hx
  have b' := List.find?_some hx'
  simp only [Bool.and_eq_true, beq_iff_eq] at b b'
  rw [e] at b
  have : n / 32 = n' / 32 := by rw [← b.2, ← b'.2]
  omega

theorem Wrote.refl {s : State} (hw : FMap.wf s.curCore.places = true) : Wrote s s fun _ _ => none :=
  { rest := rfl, others := fun _ _ _ => rfl, core := rfl, addr := fun _ _ _ => rfl, wf := hw, warps := fun _ _ => rfl, warp := rfl,
    hit := fun _ _ _ _ _ h => by simp at h, words := fun _ _ => rfl, temps := fun _ _ _ _ _ => rfl }

theorem laneReg_of_vaddr {s : State} {n l a : Nat} (hn : n < 1536) (h : vaddr s.curCore s.cur.slot n l = some a) :
    s.laneReg n l = FMap.get 0 s.curCore.words a := by
  unfold State.laneReg vreg
  rw [if_pos hn]
  have e : s.core s.curRef.site s.curRef.core = s.curCore := rfl
  have e2 : s.curRef.slot = s.cur.slot := rfl
  rw [e, e2, h]

theorem Wrote.trans {s t u : State} {W X : Nat → Nat → Option Word} (h : Wrote s t W) (g : Wrote t u X) :
    Wrote s u fun n l => (X n l).or (W n l) := by
  have hc := h.cur
  refine { rest := ?_, others := ?_, core := ?_, addr := ?_, wf := g.wf, warps := ?_, warp := ?_, hit := ?_, words := ?_, temps := ?_ }
  · rw [g.rest, h.rest]
  · intro a b k; rw [g.others a b (by rw [hc]; exact k), h.others a b k]
  · rw [g.core, h.core]
  · intro q n l; rw [g.addr, h.addr]
  · intro q k; rw [g.warps q (by rw [h.curKey]; exact k), h.warps q k]
  · rw [g.warp, h.warp]
  · intro n l v hl hn hv hp
    by_cases hx : X n l = none
    · rw [hx] at hv
      have hv : W n l = some v := by simpa using hv
      have e := h.hit n l v hl hn hv hp
      by_cases hn' : n < 1536
      · obtain ⟨a, ha⟩ := Option.isSome_iff_exists.mp (hp hn')
        have ht : vaddr t.curCore t.cur.slot n l = some a := by rw [h.addr, hc]; exact ha
        have hu : vaddr u.curCore u.cur.slot n l = some a := by rw [g.addr, g.cur]; exact ht
        rw [laneReg_of_vaddr hn' ht] at e
        rw [laneReg_of_vaddr hn' hu, ← e]
        refine g.words a fun n' l' hl' _ hs hb => ?_
        obtain ⟨rfl, rfl⟩ := vaddr_inj h.wf hl hl' ht hb
        rw [hx] at hs; simp at hs
      · rw [← e]; unfold State.laneReg; rw [if_neg hn', if_neg hn']
        exact g.temps n l hl (by omega) hx
    · obtain ⟨x, hx'⟩ := Option.ne_none_iff_exists'.mp hx
      rw [hx'] at hv
      have hv : x = v := by simpa using hv
      subst hv
      refine g.hit n l x hl hn hx' fun hn' => ?_
      rw [h.addr, hc]; exact hp hn'
  · intro a ha
    rw [g.words a (fun n l hl hn hs => by rw [h.addr, hc]; exact ha n l hl hn (by cases hx : X n l <;> simp [hx] at hs ⊢)),
      h.words a (fun n l hl hn hs => ha n l hl hn (by cases hx : X n l <;> simp [hs]))]
  · intro n l hl hn hz
    have hx : X n l = none := by cases hx : X n l <;> simp [hx] at hz ⊢
    have hw : W n l = none := by simpa [hx] using hz
    rw [g.temps n l hl hn hx, h.temps n l hl hn hw]

/-- One register of a lane is written. -/
theorem dstWord_wrote {s : State} (n l : Nat) (v : Word) (hl : l < 32) (hw : FMap.wf s.curCore.places = true) :
    Wrote s (dstWord s s.curRef n l v) fun n' l' => if n' = n ∧ l' = l then some v else none := by
  unfold dstWord
  by_cases hn : n < 1536
  · rw [if_pos hn]
    unfold setVreg
    have ec : s.core s.curRef.site s.curRef.core = s.curCore := rfl
    have es : s.curRef.slot = s.cur.slot := rfl
    dsimp only
    rw [ec, es]
    cases hf : placeFind s.curCore s.cur.slot (n / 32) with
    | none =>
      dsimp only
      refine { Wrote.refl hw with hit := ?_, words := fun _ _ => rfl, temps := fun _ _ _ _ _ => rfl }
      intro n' l' x _ _ hx hp
      split at hx
      · rename_i h; obtain ⟨rfl, rfl⟩ := h
        have := hp hn; simp [vaddr, hf] at this
      · simp at hx
    | some e =>
      obtain ⟨p, x⟩ := e
      dsimp only
      have hmem : (p, x) ∈ s.curCore.places := List.mem_of_find?_eq_some hf
      have hcur : ∀ c : Core, (s.setCore s.curRef.site s.curRef.core c).curCore = c := fun c => by
        show (s.setCore s.cur.site s.cur.core c).core s.cur.site s.cur.core = c; simp
      have hva : ∀ q n l, vaddr { s.curCore with
          words := FMap.put 0 s.curCore.words (p * 1024 + n % 32 * 32 + l) v,
          places := if x.dirty then s.curCore.places else FMap.set s.curCore.places p { x with dirty := true } } q n l =
          vaddr s.curCore q n l := by
        intro q n l
        unfold vaddr placeFind
        dsimp only
        split
        · rfl
        · have key := FMap.find?_set (fun e : Nat × Place => e.2.valid && e.2.slot == q && e.2.block == n / 32)
            { x with dirty := true } p s.curCore.places hw
            (fun y hy => by rw [FMap.wf_unique _ hw p y x hy hmem]) ⟨x, hmem⟩
          have e1 : ∀ o : Option (Nat × Place), (o.map fun x => x.1 * 1024 + n % 32 * 32 + l) = (o.map (·.1)).map fun a => a * 1024 + n % 32 * 32 + l := by
            intro o; cases o <;> rfl
          rw [e1, e1, key]
      have hself : vaddr s.curCore s.cur.slot n l = some (p * 1024 + n % 32 * 32 + l) := by simp [vaddr, hf]
      refine { rest := rfl, others := ?_, core := ?_, addr := ?_, wf := ?_, warps := fun _ _ => rfl, warp := rfl, hit := ?_, words := ?_, temps := fun _ _ _ _ _ => rfl }
      · intro a b k; rw [State.setCore_core]; exact if_neg k
      · rw [hcur]
      · intro q n' l'; rw [hcur]
        have := hva q n' l'
        unfold vaddr placeFind at this ⊢
        exact this
      · rw [hcur]; dsimp only; split
        · exact hw
        · exact FMap.wf_set hw
      · intro n' l' y hl' _ hy hp
        split at hy
        · rename_i h; obtain ⟨rfl, rfl⟩ := h
          simp only [Option.some.injEq] at hy; subst hy
          refine (laneReg_of_vaddr (a := p * 1024 + n' % 32 * 32 + l') hn ?_).trans ?_
          · rw [hcur]
            have := hva s.cur.slot n' l'
            unfold vaddr placeFind at this ⊢
            exact this.trans hself
          · rw [hcur]; simp
        · simp at hy
      · intro a ha; rw [hcur]; dsimp only; rw [FMap.get_put, if_neg]
        rintro rfl
        exact ha n l hl hn (by simp) hself
  · rw [if_neg hn]
    split
    · have hg : ∀ w : Warp, (s.setWref s.curRef w).curW = w := fun w => by simp [State.curRef]
      refine { rest := rfl, others := fun _ _ _ => rfl, core := rfl, addr := fun _ _ _ => rfl, wf := hw, warps := ?_, warp := ?_, hit := ?_, words := fun _ _ => rfl, temps := ?_ }
      · intro q k; rw [State.setWref_wref]; exact if_neg k
      · dsimp only; rw [hg]; rfl
      · intro n' l' y hl' hn' hy hp
        split at hy
        · rename_i h; obtain ⟨rfl, rfl⟩ := h
          simp only [Option.some.injEq] at hy; subst hy
          unfold State.laneReg; rw [if_neg hn]; dsimp only; rw [hg]; simp
        · simp at hy
      · intro n' l' hl' hn' hz
        dsimp only; rw [hg]; dsimp only; rw [FMap.get_put, if_neg]
        · rfl
        · intro e
          have : n' = n ∧ l' = l := by omega
          simp [this] at hz
    · refine { Wrote.refl hw with hit := ?_, words := fun _ _ => rfl, temps := fun _ _ _ _ _ => rfl }
      intro n' l' x _ hn' hx _
      split at hx
      · rename_i h; obtain ⟨rfl, rfl⟩ := h; omega
      · simp at hx

/-- `k` registers of a lane are written from `n` on. -/
theorem dstNat_wrote (k : Nat) : ∀ {s : State} (r : WRef) (n l v : Nat), r = s.curRef → l < 32 → FMap.wf s.curCore.places = true →
    Wrote s (dstNat s r n l v k) fun n' l' =>
      if l' = l ∧ n ≤ n' ∧ n' < n + k then some (BitVec.ofNat 32 (v / 2 ^ (32 * (n' - n)))) else none := by
  induction k with
  | zero =>
    intro s r n l v _ _ hw
    have e : (fun n' l' => if l' = l ∧ n ≤ n' ∧ n' < n + 0 then some (BitVec.ofNat 32 (v / 2 ^ (32 * (n' - n)))) else none) =
        fun _ _ => (none : Option Word) := by funext n' l'; rw [if_neg]; omega
    rw [e]; exact Wrote.refl hw
  | succ k ih =>
    intro s r n l v hr hl hw
    subst hr
    have h := dstWord_wrote n l (BitVec.ofNat 32 v) hl hw
    have g := ih (s := dstWord s s.curRef n l (BitVec.ofNat 32 v)) s.curRef (n + 1) l (v / 2 ^ 32)
      h.curRef.symm hl h.wf
    have := h.trans g
    refine (cast (congrArg _ ?_) this)
    funext n' l'
    by_cases hl' : l' = l
    · subst hl'
      by_cases h1 : n' = n
      · subst h1; simp
      · by_cases h2 : n ≤ n' ∧ n' < n + (k + 1)
        · have a : n + 1 ≤ n' ∧ n' < n + 1 + k := by omega
          simp only [true_and, if_pos a, if_pos h2, Option.some_or, Option.some.injEq, Nat.div_div_eq_div_mul, ← pow_add]
          congr 3; omega
        · have a : ¬ (n + 1 ≤ n' ∧ n' < n + 1 + k) := by omega
          rw [if_neg (fun h => a h.2), if_neg (fun h => h1 h.1), if_neg (fun h => h2 h.2)]; rfl
    · simp [hl']

/-- A destination is written in the lanes of a mask. -/
theorem writeDst_wrote (n k : Nat) (mask : Word) (v : Nat → Nat) : ∀ (l : List Nat), (∀ x ∈ l, x < 32 ∧ mask.getLsbD x = true) →
    ∀ {s : State}, FMap.wf s.curCore.places = true →
    Wrote s (writeDst s s.curRef n k mask (l.map fun x => (x, v x))) fun n' l' =>
      if l' ∈ l ∧ n ≤ n' ∧ n' < n + k then some (BitVec.ofNat 32 (v l' / 2 ^ (32 * (n' - n)))) else none := by
  intro l
  induction l with
  | nil =>
    intro _ s hw
    have e : (fun n' l' => if l' ∈ ([] : List Nat) ∧ n ≤ n' ∧ n' < n + k then some (BitVec.ofNat 32 (v l' / 2 ^ (32 * (n' - n)))) else none) =
        fun _ _ => (none : Option Word) := by funext n' l'; simp
    rw [e]; exact Wrote.refl hw
  | cons x l ih =>
    intro hx s hw
    have hx0 := hx x (List.mem_cons_self ..)
    have h := dstNat_wrote k s.curRef n x (v x) rfl hx0.1 hw
    have g := ih (fun y hy => hx y (List.mem_cons_of_mem _ hy)) (s := dstNat s s.curRef n x (v x) k) h.wf
    rw [h.curRef] at g
    have key := h.trans g
    have e0 : writeDst s s.curRef n k mask ((x :: l).map fun x => (x, v x)) =
        writeDst (dstNat s s.curRef n x (v x) k) s.curRef n k mask (l.map fun x => (x, v x)) := by
      unfold writeDst; rw [List.map_cons, List.foldl_cons]; dsimp only; rw [if_pos hx0.2]
    rw [e0]
    refine (cast (congrArg _ ?_) key)
    funext n' l'
    by_cases h1 : l' ∈ l
    · by_cases h2 : n ≤ n' ∧ n' < n + k
      · simp [h1, h2]
      · simp [h2]
    · by_cases h3 : l' = x
      · subst h3; simp [h1]
      · simp [h1, h3]

@[simp] theorem mem_lanesOf (m : Word) (l : Nat) : l ∈ lanesOf m ↔ l < 32 ∧ m.getLsbD l = true := by simp [lanesOf]

theorem Wrote.curCore_of_warps {s t : State} (h : t = { s with warps := t.warps, free := t.free }) : t.curCore = s.curCore := by
  rw [h]; rfl

/-- What the bookkeeping of a lane instruction does: the warp's results not written back yet, the slot its pipe last
issued from, and what its pair keeps. -/
theorem laneIssued_spec (s : State) (e : LaneEnv) (t : Timing) (res : List (Bool × Nat)) (fs : List (BitVec 13)) :
    (laneIssued s e t res fs) = { s with warps := (laneIssued s e t res fs).warps, free := s.free + 1 } ∧
      (∀ q : WRef, warpKey q.site q.core q.slot ≠ s.curKey → ((laneIssued s e t res fs).wref q).plain = (s.wref q).plain) ∧
      (laneIssued s e t res fs).curW.plain =
        { s.curW.plain with haz := (laneIssued s e t res fs).curW.haz, lastOne := e.one } := by
  have traced : OnlyWarp s s.traced ∧ s.traced.curW.plain = s.curW.plain := by
    unfold State.traced
    split
    · exact ⟨OnlyWarp.refl s, rfl⟩
    · split
      · exact ⟨OnlyWarp.refl s, rfl⟩
      · split
        · exact ⟨OnlyWarp.refl s, rfl⟩
        · exact ⟨OnlyWarp.setWref rfl, State.setWref_plain rfl⟩
        · exact ⟨OnlyWarp.setW _ _, by rw [State.setW_curW]; rfl⟩
  generalize hu : laneIssued s e t res fs = u
  unfold laneIssued at hu
  extract_lets p2 occ lat s1 w fresh stale w1 s2 src s3 at hu
  subst hu
  have h1 : OnlyWarp s s1 := traced.1
  have e1 : s1.curW.plain = s.curW.plain := traced.2
  have h2 : OnlyWarp s (s1.setW w1) := h1.trans (OnlyWarp.setW _ _)
  have e2 : (s1.setW w1).curW.plain = { s.curW.plain with haz := w1.haz, lastOne := e.one } := by
    rw [State.setW_curW]
    show ({ w.plain with haz := w1.haz, lastOne := e.one } : Warp) = _
    rw [show w.plain = s.curW.plain from e1]
  have c3 : ∀ v : State, OnlyWarp s2 v → v.curW.plain = s2.curW.plain →
      v = { s with warps := v.warps, free := s.free + 1 } ∧
      (∀ q : WRef, warpKey q.site q.core q.slot ≠ s.curKey → (v.wref q).plain = (s.wref q).plain) ∧
      v.curW.plain = { s.curW.plain with haz := v.curW.haz, lastOne := e.one } := by
    intro v hv ev
    have k2 : s2.curKey = s.curKey := by
      show (s1.setW w1).curKey = s.curKey
      exact h2.curKey
    have ef : (s1.setW w1).free = s.free := by rw [h2.1]
    refine ⟨?_, fun q hq => ?_, ?_⟩
    · have a := hv.1
      have b : s2 = { s with warps := s2.warps, free := s.free + 1 } := by
        show ({ s1.setW w1 with free := (s1.setW w1).free + 1 } : State) = _
        rw [ef, h2.1]
        rfl
      rw [a, b]
    · refine (hv.2 q (by rw [k2]; exact hq)).trans ?_
      exact h2.2 q hq
    · have a : s2.curW.plain = { s.curW.plain with haz := w1.haz, lastOne := e.one } := e2
      have b : v.curW.plain.haz = w1.haz := by rw [ev, a]
      have b : v.curW.haz = w1.haz := b
      rw [ev, a, b]
  have s3c : OnlyWarp s2 s3 ∧ s3.curW.plain = s2.curW.plain := by
    unfold s3
    split
    · split
      · exact ⟨OnlyWarp.refl _, rfl⟩
      · exact ⟨OnlyWarp.setWref rfl, State.setWref_plain rfl⟩
      · exact ⟨OnlyWarp.setW _ _, by rw [State.setW_curW]; rfl⟩
    · exact ⟨OnlyWarp.refl _, rfl⟩
  exact c3 _ (s3c.1.trans (State.counted_spec s3 true).1) (((State.counted_spec s3 true).2).trans s3c.2)

/-- A destination of one to eight registers, aligned to their number (R387, R388). -/
def DstOk (d : BitVec 13) : Prop := num d % regCount d = 0 ∧ num d < 1544

theorem DstOk.bounds {d : BitVec 13} (h : DstOk d) {n : Nat} (h1 : num d ≤ n) (h2 : n < num d + regCount d) :
    n < 1544 ∧ (n < 1536 → num d < 1536 ∧ n / 32 = num d / 32) := by
  obtain ⟨ha, hb⟩ := h
  have hk : (wcode d).toNat = 0 ∨ (wcode d).toNat = 1 ∨ (wcode d).toNat = 2 ∨ (wcode d).toNat = 3 := by
    have := (wcode d).isLt; omega
  have : regCount d = 1 ∨ regCount d = 2 ∨ regCount d = 4 ∨ regCount d = 8 := by
    unfold regCount; rcases hk with h | h | h | h <;> rw [h] <;> simp
  rcases this with k | k | k | k <;> rw [k] at ha h2 <;> refine ⟨by omega, fun _ => ⟨by omega, by omega⟩⟩

theorem dstOk_of_dst {k : Nat} {d : BitVec 13} (h : dst k d = true) : DstOk d := by
  simp only [dst, width, Bool.and_eq_true, beq_iff_eq, decide_eq_true_eq] at h
  refine ⟨?_, h.2⟩
  unfold regCount; rw [h.1.1]; exact h.1.2

/-- The registers of a pinned block have their words. -/
theorem Pinned.vaddr {s : State} {fs : List (BitVec 13)} (h : Pinned s fs) {d : BitVec 13} (hd : d ∈ fs) {n l : Nat}
    (hn : num d < 1536) (hb : n / 32 = num d / 32) : (vaddr s.curCore s.cur.slot n l).isSome = true := by
  have := (h.2 d hd hn).2
  unfold Machine.vaddr; rw [hb]; simpa using this

theorem Pinned.not_unpinned {s : State} {fs : List (BitVec 13)} (h : Pinned s fs) : fs.any (unpinned s.curW) = false := by
  rw [List.any_eq_false]
  intro f hf
  unfold unpinned
  simp only [Bool.and_eq_true, decide_eq_true_eq, Bool.not_eq_true', not_and, Bool.not_eq_false]
  intro hn; exact (h.2 f hf hn).1

/-- What a lane instruction is that has written registers of its lanes, predicates and its path after its bookkeeping. -/
theorem laneEnd_spec {s u v w : State} {h : Hdr} {W : Nat → Nat → Option Word} {p : FMap Word}
    (hu : u = { s with warps := u.warps, free := s.free + 1 })
    (ho : ∀ q : WRef, warpKey q.site q.core q.slot ≠ s.curKey → (u.wref q).plain = (s.wref q).plain)
    (hw : u.curW.plain = { s.curW.plain with haz := u.curW.haz, lastOne := (s.laneEnv h).one })
    (hv : Wrote u v W)
    (hz : w = v.setW { v.curW with p := p, lane := v.curW.lane.setSlot (s.laneEnv h).one ((s.laneEnv h).path.next ((s.laneEnv h).path.pc + 1) h.s) }) :
    LaneFrame s w ∧ PathNext s w h ∧ w.curW.p = p ∧ w.curCore = v.curCore ∧ w.curW.t = v.curW.t ∧ w.curW.tWr = v.curW.tWr ∧
      u.curCore = s.curCore ∧ u.curW.t = s.curW.t ∧ u.cur = s.cur ∧ u.curW.tWr = s.curW.tWr := by
  have uc : u.cur = s.cur := by rw [hu]
  have ucc : u.curCore = s.curCore := by rw [hu]; rfl
  have uk : u.curKey = s.curKey := by unfold State.curKey; rw [uc]
  have wc : w.cur = s.cur := by rw [hz]; show v.cur = _; rw [hv.cur, uc]
  have wcore : w.curCore = v.curCore := by rw [hz]; rfl
  have wW : w.curW = { v.curW with p := p, lane := v.curW.lane.setSlot (s.laneEnv h).one ((s.laneEnv h).path.next ((s.laneEnv h).path.pc + 1) h.s) } := by
    rw [hz, State.setW_curW]
  have ul : u.curW.lane = s.curW.lane := by
    have : u.curW.plain.lane = _ := congrArg Warp.lane hw
    exact this
  have ut : u.curW.t = s.curW.t := by
    have : u.curW.plain.t = _ := congrArg Warp.t hw
    exact this
  have utw : u.curW.tWr = s.curW.tWr := by
    have : u.curW.plain.tWr = _ := congrArg Warp.tWr hw
    exact this
  have vl : v.curW.lane = s.curW.lane := by rw [hv.warp]; exact ul
  refine ⟨⟨?_, ?_, ?_, ?_, ?_, ?_⟩, ?_, by rw [wW], wcore, by rw [wW], by rw [wW], ucc, ut, uc, utw⟩
  · have a : w = { v with warps := w.warps } := by rw [hz]; rfl
    rw [a, hv.rest, hu]
  · intro a b k
    have e : w.core a b = v.core a b := by rw [hz]; rfl
    rw [e, hv.others a b (by rw [uc]; exact k), hu]; rfl
  · rw [wcore, hv.core, ucc]
  · intro q n l; rw [wcore, hv.addr, ucc]
  · intro q k
    have e : w.wref q = v.wref q := by
      rw [hz, State.setW_wref, if_neg]
      intro hk; apply k; rw [← uk, ← hv.curKey]; exact hk
    rw [e, hv.warps q (by rw [uk]; exact k)]
    exact ho q k
  · have a : v.curW.plain = { u.curW.plain with t := v.curW.t, tWr := v.curW.tWr } := by
      have := congrArg Warp.plain hv.warp
      exact this
    have b : w.curW.plain = { v.curW.plain with p := w.curW.p, lane := w.curW.lane } := by rw [wW]; rfl
    have vh : v.curW.haz = u.curW.haz := by rw [hv.warp]
    have vo : v.curW.lastOne = (s.laneEnv h).one := by
      rw [hv.warp]
      have : u.curW.plain.lastOne = _ := congrArg Warp.lastOne hw
      exact this
    have wh : w.curW.haz = u.curW.haz := by rw [wW]; exact vh
    have wo : w.curW.lastOne = (s.laneEnv h).one := by rw [wW]; exact vo
    have wt : w.curW.t = v.curW.t := by rw [wW]
    have wtw : w.curW.tWr = v.curW.tWr := by rw [wW]
    rw [b, a, hw, wh, wo, wt, wtw]
  · show w.curW.lane = _
    rw [wW]; dsimp only; rw [vl]; rfl

/-- The writes of a destination, as the statements say them. -/
theorem writes_of {s u v w : State} {h : Hdr} {d : BitVec 13} {fs : List (BitVec 13)} {f : Nat → Nat}
    (hd : DstOk d) (hp : Pinned s fs) (hm : d ∈ fs)
    (hv : Wrote u v fun n' l' => if l' ∈ lanesOf (s.laneEnv h).act ∧ num d ≤ n' ∧ n' < num d + regCount d then
      some (BitVec.ofNat 32 (f l' / 2 ^ (32 * (n' - num d)))) else none)
    (ec : w.curCore = v.curCore) (et : w.curW.t = v.curW.t) (eu : u.curCore = s.curCore) (ut : u.curW.t = s.curW.t)
    (uc : u.cur = s.cur) (wc : w.cur = s.cur) : Writes s w h (num d) (regCount d) f := by
  have reg : ∀ n l, w.laneReg n l = v.laneReg n l := by
    intro n l
    have a : w.core w.curRef.site w.curRef.core = v.core v.curRef.site v.curRef.core := ec
    have b : w.curRef.slot = v.curRef.slot := by
      show w.cur.slot = v.cur.slot; rw [wc, hv.cur, uc]
    unfold State.laneReg vreg; rw [a, b, et]
  refine ⟨fun n l hh => ?_, fun a ha => ?_, fun n l hl hn hh => ?_⟩
  · rw [reg]
    obtain ⟨b1, b2⟩ := hd.bounds hh.2.2.1 hh.2.2.2
    refine hv.hit n l _ hh.1 b1 (if_pos ⟨(mem_lanesOf _ _).mpr ⟨hh.1, hh.2.1⟩, hh.2.2⟩) fun hn => ?_
    rw [eu, uc]; exact hp.vaddr hm (b2 hn).1 (b2 hn).2
  · rw [ec, hv.words a, eu]
    intro n l hl hn hs
    rw [eu, uc]
    refine ha n l ⟨hl, ?_⟩ hn
    split at hs
    · rename_i c; exact ⟨((mem_lanesOf _ _).mp c.1).2, c.2⟩
    · simp at hs
  · rw [et, hv.temps n l hl hn, ut]
    rw [if_neg]
    intro c; exact hh ⟨hl, ((mem_lanesOf _ _).mp c.1).2, c.2⟩

/-- A lane instruction of fixed latency that writes a register of each active lane does that, and nothing else. -/
theorem State.laneOp_spec (s : State) (h : Hdr) (t : Timing) (d : BitVec 13) (fs : List (BitVec 13)) (f : LaneEnv → Nat → Nat)
    (hd : DstOk d) (hp : Pinned s (d :: fs)) :
    ∃ w, s.laneOp h t d fs f = .next w ∧ LaneFrame s w ∧ PathNext s w h ∧
      Writes s w h (num d) (regCount d) (f (s.laneEnv h)) ∧ Predicates s w fun _ _ => none := by
  unfold State.laneOp State.withRegs
  have hn : ((d :: fs).any (unpinned (s.laneEnv h).w)) = false := hp.not_unpinned
  dsimp only
  rw [hn, if_neg (by simp)]
  refine ⟨_, rfl, ?_⟩
  obtain ⟨hu, ho, hw⟩ := laneIssued_spec s (s.laneEnv h) t ((List.range (regCount d)).map fun i => (false, num d + i)) fs
  generalize laneIssued s (s.laneEnv h) t ((List.range (regCount d)).map fun i => (false, num d + i)) fs = u at hu ho hw ⊢
  have uc : u.cur = s.cur := by rw [hu]
  have ucc : u.curCore = s.curCore := by rw [hu]; rfl
  have hr : (s.laneEnv h).r = u.curRef := by unfold State.curRef; rw [uc]; rfl
  have hv := writeDst_wrote (num d) (regCount d) (s.laneEnv h).act (f (s.laneEnv h)) (lanesOf (s.laneEnv h).act)
    (fun x hx => (mem_lanesOf _ _).mp hx) (s := u) (by rw [ucc]; exact hp.1)
  rw [← hr] at hv
  generalize writeDst u (s.laneEnv h).r (num d) (regCount d) (s.laneEnv h).act
    ((lanesOf (s.laneEnv h).act).map fun x => (x, f (s.laneEnv h) x)) = v at hv ⊢
  have up : u.curW.p = s.curW.p := by
    have : u.curW.plain.p = _ := congrArg Warp.p hw
    exact this
  obtain ⟨a, b, c, d1, d2, _, e1, e2, e3, _⟩ := laneEnd_spec (p := v.curW.p) hu ho hw hv (w := lanePath v (s.laneEnv h) h) rfl
  refine ⟨a, b, writes_of hd hp (List.mem_cons_self ..) hv d1 d2 e1 e2 e3 (by rw [a.1]), ?_⟩
  intro q l _
  have : (lanePath v (s.laneEnv h) h).curW.p = s.curW.p := by rw [c, hv.warp]; exact up
  rw [this]

/-- Bits of a mask made of a condition. -/
theorem maskOf_getLsbD (p : Nat → Bool) (l : Nat) : (maskOf p).getLsbD l = (decide (l < 32) && p l) := by
  unfold maskOf
  have key : ∀ k l, ((List.range k).foldl (fun n l => if p l then n + 2 ^ l else n) 0 < 2 ^ k) ∧
      ((List.range k).foldl (fun n l => if p l then n + 2 ^ l else n) 0).testBit l = (decide (l < k) && p l) := by
    intro k
    induction k with
    | zero => intro l; simp
    | succ k ih =>
      intro l
      rw [List.range_succ, List.foldl_append]
      simp only [List.foldl_cons, List.foldl_nil]
      have lt := (ih 0).1
      generalize hx : (List.range k).foldl (fun n l => if p l then n + 2 ^ l else n) 0 = x at ih lt ⊢
      have ih := fun l => (ih l).2
      split
      · rename_i hp
        refine ⟨by rw [pow_succ]; omega, ?_⟩
        rw [Nat.add_comm]
        rcases Nat.lt_trichotomy l k with hl | hl | hl
        · rw [Nat.testBit_two_pow_add_gt hl, ih l]; simp [hl, Nat.lt_succ_of_lt hl]
        · subst hl; rw [Nat.testBit_two_pow_add_eq, ih l]; simp [hp]
        · rw [Nat.testBit_lt_two_pow]
          · simp; omega
          · exact Nat.lt_of_lt_of_le (by rw [pow_succ]; omega : 2 ^ k + x < 2 ^ (k + 1)) (Nat.pow_le_pow_right (by omega) hl)
      · rename_i hp
        refine ⟨by rw [pow_succ]; omega, ?_⟩
        rw [ih l]
        by_cases hl : l = k
        · subst hl; simp [hp]
        · have : (l < k + 1) = (l < k) := by simp; omega
          simp only [this]
  have := (key 32 l).2
  rw [BitVec.getLsbD_ofNat, this]
  by_cases hl : l < 32 <;> simp [hl]

/-- A predicate is written in the lanes of a mask. -/
theorem writePred_wrote (s : State) (q : Nat) (mask bits : Word) :
    ∃ p, writePred s s.curRef q mask bits = s.setW { s.curW with p := p } ∧
      ∀ x l, l < 32 → (FMap.get 0 p x).getLsbD l =
        if x = q ∧ mask.getLsbD l = true then bits.getLsbD l else (FMap.get 0 s.curW.p x).getLsbD l := by
  refine ⟨_, rfl, fun x l hl => ?_⟩
  rw [FMap.get_put]
  by_cases hx : x = q
  · subst hx
    rw [if_pos rfl]
    show (_ &&& ~~~mask ||| bits &&& mask).getLsbD l = _
    simp only [BitVec.getLsbD_or, BitVec.getLsbD_and, BitVec.getLsbD_not, hl, decide_true, Bool.true_and]
    cases mask.getLsbD l <;> simp [State.curW_eq_wref]
  · rw [if_neg hx, if_neg (fun c => hx c.1)]; rfl

/-- A lane instruction of fixed latency that writes a predicate does that in each active lane, and nothing else. -/
theorem State.lanePredOp_spec (s : State) (h : Hdr) (t : Timing) (d : BitVec 13) (fs : List (BitVec 13)) (f : LaneEnv → Nat → Bool)
    (hp : Pinned s fs) :
    ∃ w, s.lanePredOp h t d fs f = .next w ∧ LaneFrame s w ∧ PathNext s w h ∧ WritesNothing s w ∧
      Predicates s w fun q l => if q = num d ∧ (s.laneEnv h).act.getLsbD l = true then some (f (s.laneEnv h) l) else none := by
  unfold State.lanePredOp State.withRegs
  have hn : (fs.any (unpinned (s.laneEnv h).w)) = false := hp.not_unpinned
  dsimp only
  rw [hn, if_neg (by simp)]
  refine ⟨_, rfl, ?_⟩
  obtain ⟨hu, ho, hw⟩ := laneIssued_spec s (s.laneEnv h) t [(true, num d)] fs
  generalize laneIssued s (s.laneEnv h) t [(true, num d)] fs = u at hu ho hw ⊢
  have uc : u.cur = s.cur := by rw [hu]
  have ucc : u.curCore = s.curCore := by rw [hu]; rfl
  have hr : (s.laneEnv h).r = u.curRef := by unfold State.curRef; rw [uc]; rfl
  obtain ⟨p, e, hpp⟩ := writePred_wrote u (num d) (s.laneEnv h).act (maskOf (f (s.laneEnv h)))
  rw [← hr] at e
  have up : u.curW.p = s.curW.p := by
    have : u.curW.plain.p = _ := congrArg Warp.p hw
    exact this
  have hv : Wrote u u fun _ _ => none := Wrote.refl (by rw [ucc]; exact hp.1)
  have hz : lanePath (writePred u (s.laneEnv h).r (num d) (s.laneEnv h).act (maskOf (f (s.laneEnv h)))) (s.laneEnv h) h =
      u.setW { u.curW with p := p, lane := u.curW.lane.setSlot (s.laneEnv h).one ((s.laneEnv h).path.next ((s.laneEnv h).path.pc + 1) h.s) } := by
    rw [e]; unfold lanePath; dsimp only; rw [State.setW_curW]
    simp [State.setW, State.setWarp, FMap.set_set]
  obtain ⟨a, b, c, d1, d2, d3, e1, e2, e3, e4⟩ := laneEnd_spec (p := p) hu ho hw hv hz
  refine ⟨a, b, ⟨fun x => by rw [d1, e1], by rw [d2, e2], by rw [d3, e4]⟩, ?_⟩
  intro q l hl
  rw [c, hpp q l hl, up]
  by_cases hh : q = num d ∧ (s.laneEnv h).act.getLsbD l = true
  · simp only [if_pos hh, maskOf_getLsbD, hl, decide_true, Bool.true_and]
  · simp only [if_neg hh]

end Sys2Proof.Machine
end

