-- ==== Sys2Proof/Laws/PerInstr.lean ====
section
/-! SUPPORT. For every instruction: its encoding has the length that its stream's PC counts by (R394), and an event has none. -/
namespace Sys2Proof.Laws

theorem leBytes_length (n v : Nat) : (leBytes n v).length = n := by
  induction n generalizing v with
  | zero => rfl
  | succ n ih => simp [leBytes, ih]

/-- The encoding of an instruction is as long as the instruction (R394). -/
def Encoded.Statement (i : Instr) : Prop := (encode i).length = instrBytes i

theorem Encoded.ofScalar {i : Instr} (h : instrBytes i = 4) : Encoded.Statement i := by simp [Encoded.Statement, encode, h, leBytes_length]
theorem Encoded.ofLane {i : Instr} (h : instrBytes i = 12) : Encoded.Statement i := by simp [Encoded.Statement, encode, h, leBytes_length]
theorem Encoded.ofEvent {i : Instr} (h : instrBytes i = 0) : Encoded.Statement i := by simp [Encoded.Statement, encode, h]

theorem Encoded.sadd : ∀ x0 x1 x2, Encoded.Statement (.sadd x0 x1 x2) := fun _ _ _ => Encoded.ofScalar rfl
theorem Encoded.ssub : ∀ x0 x1 x2, Encoded.Statement (.ssub x0 x1 x2) := fun _ _ _ => Encoded.ofScalar rfl
theorem Encoded.smul : ∀ x0 x1 x2, Encoded.Statement (.smul x0 x1 x2) := fun _ _ _ => Encoded.ofScalar rfl
theorem Encoded.smulh : ∀ x0 x1 x2, Encoded.Statement (.smulh x0 x1 x2) := fun _ _ _ => Encoded.ofScalar rfl
theorem Encoded.sand : ∀ x0 x1 x2, Encoded.Statement (.sand x0 x1 x2) := fun _ _ _ => Encoded.ofScalar rfl
theorem Encoded.sor : ∀ x0 x1 x2, Encoded.Statement (.sor x0 x1 x2) := fun _ _ _ => Encoded.ofScalar rfl
theorem Encoded.sxor : ∀ x0 x1 x2, Encoded.Statement (.sxor x0 x1 x2) := fun _ _ _ => Encoded.ofScalar rfl
theorem Encoded.sshl : ∀ x0 x1 x2, Encoded.Statement (.sshl x0 x1 x2) := fun _ _ _ => Encoded.ofScalar rfl
theorem Encoded.sshr : ∀ x0 x1 x2, Encoded.Statement (.sshr x0 x1 x2) := fun _ _ _ => Encoded.ofScalar rfl
theorem Encoded.ssra : ∀ x0 x1 x2, Encoded.Statement (.ssra x0 x1 x2) := fun _ _ _ => Encoded.ofScalar rfl
theorem Encoded.smin : ∀ x0 x1 x2, Encoded.Statement (.smin x0 x1 x2) := fun _ _ _ => Encoded.ofScalar rfl
theorem Encoded.smax : ∀ x0 x1 x2, Encoded.Statement (.smax x0 x1 x2) := fun _ _ _ => Encoded.ofScalar rfl
theorem Encoded.scmp : ∀ x0 x1 x2 x3, Encoded.Statement (.scmp x0 x1 x2 x3) := fun _ _ _ _ => Encoded.ofScalar rfl
theorem Encoded.sadd64 : ∀ x0 x1 x2, Encoded.Statement (.sadd64 x0 x1 x2) := fun _ _ _ => Encoded.ofScalar rfl
theorem Encoded.ssub64 : ∀ x0 x1 x2, Encoded.Statement (.ssub64 x0 x1 x2) := fun _ _ _ => Encoded.ofScalar rfl
theorem Encoded.saddi : ∀ x0 x1 x2, Encoded.Statement (.saddi x0 x1 x2) := fun _ _ _ => Encoded.ofScalar rfl
theorem Encoded.sandi : ∀ x0 x1 x2, Encoded.Statement (.sandi x0 x1 x2) := fun _ _ _ => Encoded.ofScalar rfl
theorem Encoded.sori : ∀ x0 x1 x2, Encoded.Statement (.sori x0 x1 x2) := fun _ _ _ => Encoded.ofScalar rfl
theorem Encoded.sxori : ∀ x0 x1 x2, Encoded.Statement (.sxori x0 x1 x2) := fun _ _ _ => Encoded.ofScalar rfl
theorem Encoded.sshli : ∀ x0 x1 x2, Encoded.Statement (.sshli x0 x1 x2) := fun _ _ _ => Encoded.ofScalar rfl
theorem Encoded.sshri : ∀ x0 x1 x2, Encoded.Statement (.sshri x0 x1 x2) := fun _ _ _ => Encoded.ofScalar rfl
theorem Encoded.ssrai : ∀ x0 x1 x2, Encoded.Statement (.ssrai x0 x1 x2) := fun _ _ _ => Encoded.ofScalar rfl
theorem Encoded.slui : ∀ x0 x1, Encoded.Statement (.slui x0 x1) := fun _ _ => Encoded.ofScalar rfl
theorem Encoded.sld : ∀ x0 x1 x2 x3, Encoded.Statement (.sld x0 x1 x2 x3) := fun _ _ _ _ => Encoded.ofScalar rfl
theorem Encoded.sst : ∀ x0 x1 x2 x3, Encoded.Statement (.sst x0 x1 x2 x3) := fun _ _ _ _ => Encoded.ofScalar rfl
theorem Encoded.sldc : ∀ x0 x1 x2 x3, Encoded.Statement (.sldc x0 x1 x2 x3) := fun _ _ _ _ => Encoded.ofScalar rfl
theorem Encoded.bra : ∀ x0 x1 x2, Encoded.Statement (.bra x0 x1 x2) := fun _ _ _ => Encoded.ofScalar rfl
theorem Encoded.jmp : ∀ x0, Encoded.Statement (.jmp x0) := fun _ => Encoded.ofScalar rfl
theorem Encoded.call : ∀ x0, Encoded.Statement (.call x0) := fun _ => Encoded.ofScalar rfl
theorem Encoded.ret : ∀ x0, Encoded.Statement (.ret x0) := fun _ => Encoded.ofScalar rfl
theorem Encoded.loop : ∀ x0 x1 x2, Encoded.Statement (.loop x0 x1 x2) := fun _ _ _ => Encoded.ofScalar rfl
theorem Encoded.vrun : ∀ x0, Encoded.Statement (.vrun x0) := fun _ => Encoded.ofScalar rfl
theorem Encoded.vrunr : ∀ x0, Encoded.Statement (.vrunr x0) := fun _ => Encoded.ofScalar rfl
theorem Encoded.syncl : ∀ x0, Encoded.Statement (.syncl x0) := fun _ => Encoded.ofScalar rfl
theorem Encoded.synclResume : ∀ x0, Encoded.Statement (.synclResume x0) := fun _ => Encoded.ofScalar rfl
theorem Encoded.swait : ∀ x0 x1, Encoded.Statement (.swait x0 x1) := fun _ _ => Encoded.ofScalar rfl
theorem Encoded.bara : ∀ x0 x1, Encoded.Statement (.bara x0 x1) := fun _ _ => Encoded.ofScalar rfl
theorem Encoded.barw : ∀ x0 x1, Encoded.Statement (.barw x0 x1) := fun _ _ => Encoded.ofScalar rfl
theorem Encoded.smon : ∀ x0, Encoded.Statement (.smon x0) := fun _ => Encoded.ofScalar rfl
theorem Encoded.smwait : ∀ x0 x1, Encoded.Statement (.smwait x0 x1) := fun _ _ => Encoded.ofScalar rfl
theorem Encoded.fence : ∀ x0 x1, Encoded.Statement (.fence x0 x1) := fun _ _ => Encoded.ofScalar rfl
theorem Encoded.racq : ∀ x0 x1, Encoded.Statement (.racq x0 x1) := fun _ _ => Encoded.ofScalar rfl
theorem Encoded.racqAllDie : ∀ x0 x1, Encoded.Statement (.racqAllDie x0 x1) := fun _ _ => Encoded.ofScalar rfl
theorem Encoded.racqAllDevice : ∀ x0, Encoded.Statement (.racqAllDevice x0) := fun _ => Encoded.ofScalar rfl
theorem Encoded.rbget : ∀ x0 x1, Encoded.Statement (.rbget x0 x1) := fun _ _ => Encoded.ofScalar rfl
theorem Encoded.rbput : ∀ x0 x1, Encoded.Statement (.rbput x0 x1) := fun _ _ => Encoded.ofScalar rfl
theorem Encoded.phase : ∀ x0 x1 x2, Encoded.Statement (.phase x0 x1 x2) := fun _ _ _ => Encoded.ofScalar rfl
theorem Encoded.rgn : Encoded.Statement .rgn := Encoded.ofScalar rfl
theorem Encoded.launch : ∀ x0, Encoded.Statement (.launch x0) := fun _ => Encoded.ofScalar rfl
theorem Encoded.feed : ∀ x0 x1 x2, Encoded.Statement (.feed x0 x1 x2) := fun _ _ _ => Encoded.ofScalar rfl
theorem Encoded.copy : ∀ x0 x1 x2, Encoded.Statement (.copy x0 x1 x2) := fun _ _ _ => Encoded.ofScalar rfl
theorem Encoded.copyResume : ∀ x0 x1 x2, Encoded.Statement (.copyResume x0 x1 x2) := fun _ _ _ => Encoded.ofScalar rfl
theorem Encoded.nbr : ∀ x0 x1 x2, Encoded.Statement (.nbr x0 x1 x2) := fun _ _ _ => Encoded.ofScalar rfl
theorem Encoded.sread : ∀ x0 x1, Encoded.Statement (.sread x0 x1) := fun _ _ => Encoded.ofScalar rfl
theorem Encoded.swrite : ∀ x0 x1, Encoded.Statement (.swrite x0 x1) := fun _ _ => Encoded.ofScalar rfl
theorem Encoded.trap : ∀ x0, Encoded.Statement (.trap x0) := fun _ => Encoded.ofScalar rfl
theorem Encoded.eret : Encoded.Statement .eret := Encoded.ofScalar rfl
theorem Encoded.exit : Encoded.Statement .exit := Encoded.ofScalar rfl
theorem Encoded.iadd : ∀ x0 x1, Encoded.Statement (.iadd x0 x1) := fun _ _ => Encoded.ofLane rfl
theorem Encoded.isub : ∀ x0 x1, Encoded.Statement (.isub x0 x1) := fun _ _ => Encoded.ofLane rfl
theorem Encoded.imul : ∀ x0 x1, Encoded.Statement (.imul x0 x1) := fun _ _ => Encoded.ofLane rfl
theorem Encoded.imulh : ∀ x0 x1, Encoded.Statement (.imulh x0 x1) := fun _ _ => Encoded.ofLane rfl
theorem Encoded.imad : ∀ x0 x1, Encoded.Statement (.imad x0 x1) := fun _ _ => Encoded.ofLane rfl
theorem Encoded.imin : ∀ x0 x1, Encoded.Statement (.imin x0 x1) := fun _ _ => Encoded.ofLane rfl
theorem Encoded.imax : ∀ x0 x1, Encoded.Statement (.imax x0 x1) := fun _ _ => Encoded.ofLane rfl
theorem Encoded.iabs : ∀ x0 x1, Encoded.Statement (.iabs x0 x1) := fun _ _ => Encoded.ofLane rfl
theorem Encoded.ineg : ∀ x0 x1, Encoded.Statement (.ineg x0 x1) := fun _ _ => Encoded.ofLane rfl
theorem Encoded.iand : ∀ x0 x1, Encoded.Statement (.iand x0 x1) := fun _ _ => Encoded.ofLane rfl
theorem Encoded.ior : ∀ x0 x1, Encoded.Statement (.ior x0 x1) := fun _ _ => Encoded.ofLane rfl
theorem Encoded.ixor : ∀ x0 x1, Encoded.Statement (.ixor x0 x1) := fun _ _ => Encoded.ofLane rfl
theorem Encoded.inot : ∀ x0 x1, Encoded.Statement (.inot x0 x1) := fun _ _ => Encoded.ofLane rfl
theorem Encoded.ishl : ∀ x0 x1, Encoded.Statement (.ishl x0 x1) := fun _ _ => Encoded.ofLane rfl
theorem Encoded.ishr : ∀ x0 x1, Encoded.Statement (.ishr x0 x1) := fun _ _ => Encoded.ofLane rfl
theorem Encoded.isra : ∀ x0 x1, Encoded.Statement (.isra x0 x1) := fun _ _ => Encoded.ofLane rfl
theorem Encoded.irot : ∀ x0 x1, Encoded.Statement (.irot x0 x1) := fun _ _ => Encoded.ofLane rfl
theorem Encoded.iset : ∀ x0 x1, Encoded.Statement (.iset x0 x1) := fun _ _ => Encoded.ofLane rfl
theorem Encoded.isel : ∀ x0 x1, Encoded.Statement (.isel x0 x1) := fun _ _ => Encoded.ofLane rfl
theorem Encoded.popc : ∀ x0 x1, Encoded.Statement (.popc x0 x1) := fun _ _ => Encoded.ofLane rfl
theorem Encoded.clz : ∀ x0 x1, Encoded.Statement (.clz x0 x1) := fun _ _ => Encoded.ofLane rfl
theorem Encoded.brev : ∀ x0 x1, Encoded.Statement (.brev x0 x1) := fun _ _ => Encoded.ofLane rfl
theorem Encoded.bfx : ∀ x0 x1, Encoded.Statement (.bfx x0 x1) := fun _ _ => Encoded.ofLane rfl
theorem Encoded.bfi : ∀ x0 x1, Encoded.Statement (.bfi x0 x1) := fun _ _ => Encoded.ofLane rfl
theorem Encoded.mov : ∀ x0 x1, Encoded.Statement (.mov x0 x1) := fun _ _ => Encoded.ofLane rfl
theorem Encoded.movi : ∀ x0 x1, Encoded.Statement (.movi x0 x1) := fun _ _ => Encoded.ofLane rfl
theorem Encoded.ladd : ∀ x0 x1, Encoded.Statement (.ladd x0 x1) := fun _ _ => Encoded.ofLane rfl
theorem Encoded.lsub : ∀ x0 x1, Encoded.Statement (.lsub x0 x1) := fun _ _ => Encoded.ofLane rfl
theorem Encoded.lshl : ∀ x0 x1, Encoded.Statement (.lshl x0 x1) := fun _ _ => Encoded.ofLane rfl
theorem Encoded.lshr : ∀ x0 x1, Encoded.Statement (.lshr x0 x1) := fun _ _ => Encoded.ofLane rfl
theorem Encoded.lsra : ∀ x0 x1, Encoded.Statement (.lsra x0 x1) := fun _ _ => Encoded.ofLane rfl
theorem Encoded.lset : ∀ x0 x1, Encoded.Statement (.lset x0 x1) := fun _ _ => Encoded.ofLane rfl
theorem Encoded.lmin : ∀ x0 x1, Encoded.Statement (.lmin x0 x1) := fun _ _ => Encoded.ofLane rfl
theorem Encoded.lmax : ∀ x0 x1, Encoded.Statement (.lmax x0 x1) := fun _ _ => Encoded.ofLane rfl
theorem Encoded.lmulw : ∀ x0 x1, Encoded.Statement (.lmulw x0 x1) := fun _ _ => Encoded.ofLane rfl
theorem Encoded.lsel : ∀ x0 x1, Encoded.Statement (.lsel x0 x1) := fun _ _ => Encoded.ofLane rfl
theorem Encoded.fadd : ∀ x0 x1, Encoded.Statement (.fadd x0 x1) := fun _ _ => Encoded.ofLane rfl
theorem Encoded.fsub : ∀ x0 x1, Encoded.Statement (.fsub x0 x1) := fun _ _ => Encoded.ofLane rfl
theorem Encoded.fmul : ∀ x0 x1, Encoded.Statement (.fmul x0 x1) := fun _ _ => Encoded.ofLane rfl
theorem Encoded.ffma : ∀ x0 x1, Encoded.Statement (.ffma x0 x1) := fun _ _ => Encoded.ofLane rfl
theorem Encoded.fmin : ∀ x0 x1, Encoded.Statement (.fmin x0 x1) := fun _ _ => Encoded.ofLane rfl
theorem Encoded.fmax : ∀ x0 x1, Encoded.Statement (.fmax x0 x1) := fun _ _ => Encoded.ofLane rfl
theorem Encoded.fset : ∀ x0 x1, Encoded.Statement (.fset x0 x1) := fun _ _ => Encoded.ofLane rfl
theorem Encoded.frnd : ∀ x0 x1, Encoded.Statement (.frnd x0 x1) := fun _ _ => Encoded.ofLane rfl
theorem Encoded.fclass : ∀ x0 x1, Encoded.Statement (.fclass x0 x1) := fun _ _ => Encoded.ofLane rfl
theorem Encoded.dadd : ∀ x0 x1, Encoded.Statement (.dadd x0 x1) := fun _ _ => Encoded.ofLane rfl
theorem Encoded.dsub : ∀ x0 x1, Encoded.Statement (.dsub x0 x1) := fun _ _ => Encoded.ofLane rfl
theorem Encoded.dmul : ∀ x0 x1, Encoded.Statement (.dmul x0 x1) := fun _ _ => Encoded.ofLane rfl
theorem Encoded.dfma : ∀ x0 x1, Encoded.Statement (.dfma x0 x1) := fun _ _ => Encoded.ofLane rfl
theorem Encoded.dmin : ∀ x0 x1, Encoded.Statement (.dmin x0 x1) := fun _ _ => Encoded.ofLane rfl
theorem Encoded.dmax : ∀ x0 x1, Encoded.Statement (.dmax x0 x1) := fun _ _ => Encoded.ofLane rfl
theorem Encoded.dset : ∀ x0 x1, Encoded.Statement (.dset x0 x1) := fun _ _ => Encoded.ofLane rfl
theorem Encoded.drnd : ∀ x0 x1, Encoded.Statement (.drnd x0 x1) := fun _ _ => Encoded.ofLane rfl
theorem Encoded.hadd2 : ∀ x0 x1, Encoded.Statement (.hadd2 x0 x1) := fun _ _ => Encoded.ofLane rfl
theorem Encoded.hmul2 : ∀ x0 x1, Encoded.Statement (.hmul2 x0 x1) := fun _ _ => Encoded.ofLane rfl
theorem Encoded.hfma2 : ∀ x0 x1, Encoded.Statement (.hfma2 x0 x1) := fun _ _ => Encoded.ofLane rfl
theorem Encoded.hmin2 : ∀ x0 x1, Encoded.Statement (.hmin2 x0 x1) := fun _ _ => Encoded.ofLane rfl
theorem Encoded.hmax2 : ∀ x0 x1, Encoded.Statement (.hmax2 x0 x1) := fun _ _ => Encoded.ofLane rfl
theorem Encoded.hset2 : ∀ x0 x1, Encoded.Statement (.hset2 x0 x1) := fun _ _ => Encoded.ofLane rfl
theorem Encoded.cvt : ∀ x0 x1, Encoded.Statement (.cvt x0 x1) := fun _ _ => Encoded.ofLane rfl
theorem Encoded.pk8 : ∀ x0 x1, Encoded.Statement (.pk8 x0 x1) := fun _ _ => Encoded.ofLane rfl
theorem Encoded.upk8 : ∀ x0 x1, Encoded.Statement (.upk8 x0 x1) := fun _ _ => Encoded.ofLane rfl
theorem Encoded.pk16 : ∀ x0 x1, Encoded.Statement (.pk16 x0 x1) := fun _ _ => Encoded.ofLane rfl
theorem Encoded.upk16 : ∀ x0 x1, Encoded.Statement (.upk16 x0 x1) := fun _ _ => Encoded.ofLane rfl
theorem Encoded.rcp : ∀ x0 x1, Encoded.Statement (.rcp x0 x1) := fun _ _ => Encoded.ofLane rfl
theorem Encoded.rsq : ∀ x0 x1, Encoded.Statement (.rsq x0 x1) := fun _ _ => Encoded.ofLane rfl
theorem Encoded.sqrt : ∀ x0 x1, Encoded.Statement (.sqrt x0 x1) := fun _ _ => Encoded.ofLane rfl
theorem Encoded.ex2 : ∀ x0 x1, Encoded.Statement (.ex2 x0 x1) := fun _ _ => Encoded.ofLane rfl
theorem Encoded.lg2 : ∀ x0 x1, Encoded.Statement (.lg2 x0 x1) := fun _ _ => Encoded.ofLane rfl
theorem Encoded.sin : ∀ x0 x1, Encoded.Statement (.sin x0 x1) := fun _ _ => Encoded.ofLane rfl
theorem Encoded.cos : ∀ x0 x1, Encoded.Statement (.cos x0 x1) := fun _ _ => Encoded.ofLane rfl
theorem Encoded.tanh : ∀ x0 x1, Encoded.Statement (.tanh x0 x1) := fun _ _ => Encoded.ofLane rfl
theorem Encoded.drcp : ∀ x0 x1, Encoded.Statement (.drcp x0 x1) := fun _ _ => Encoded.ofLane rfl
theorem Encoded.drsq : ∀ x0 x1, Encoded.Statement (.drsq x0 x1) := fun _ _ => Encoded.ofLane rfl
theorem Encoded.shfl : ∀ x0 x1, Encoded.Statement (.shfl x0 x1) := fun _ _ => Encoded.ofLane rfl
theorem Encoded.bcast : ∀ x0 x1, Encoded.Statement (.bcast x0 x1) := fun _ _ => Encoded.ofLane rfl
theorem Encoded.vote : ∀ x0 x1, Encoded.Statement (.vote x0 x1) := fun _ _ => Encoded.ofLane rfl
theorem Encoded.redux : ∀ x0 x1, Encoded.Statement (.redux x0 x1) := fun _ _ => Encoded.ofLane rfl
theorem Encoded.fredux : ∀ x0 x1, Encoded.Statement (.fredux x0 x1) := fun _ _ => Encoded.ofLane rfl
theorem Encoded.scan : ∀ x0 x1, Encoded.Statement (.scan x0 x1) := fun _ _ => Encoded.ofLane rfl
theorem Encoded.matchL : ∀ x0 x1, Encoded.Statement (.matchL x0 x1) := fun _ _ => Encoded.ofLane rfl
theorem Encoded.elect : ∀ x0 x1, Encoded.Statement (.elect x0 x1) := fun _ _ => Encoded.ofLane rfl
theorem Encoded.ld : ∀ x0 x1, Encoded.Statement (.ld x0 x1) := fun _ _ => Encoded.ofLane rfl
theorem Encoded.st : ∀ x0 x1, Encoded.Statement (.st x0 x1) := fun _ _ => Encoded.ofLane rfl
theorem Encoded.ldc : ∀ x0 x1, Encoded.Statement (.ldc x0 x1) := fun _ _ => Encoded.ofLane rfl
theorem Encoded.prf : ∀ x0 x1, Encoded.Statement (.prf x0 x1) := fun _ _ => Encoded.ofLane rfl
theorem Encoded.wbl : ∀ x0 x1, Encoded.Statement (.wbl x0 x1) := fun _ _ => Encoded.ofLane rfl
theorem Encoded.invl : ∀ x0 x1, Encoded.Statement (.invl x0 x1) := fun _ _ => Encoded.ofLane rfl
theorem Encoded.atom : ∀ x0 x1, Encoded.Statement (.atom x0 x1) := fun _ _ => Encoded.ofLane rfl
theorem Encoded.cas : ∀ x0 x1, Encoded.Statement (.cas x0 x1) := fun _ _ => Encoded.ofLane rfl
theorem Encoded.red : ∀ x0 x1, Encoded.Statement (.red x0 x1) := fun _ _ => Encoded.ofLane rfl
theorem Encoded.atomf : ∀ x0 x1, Encoded.Statement (.atomf x0 x1) := fun _ _ => Encoded.ofLane rfl
theorem Encoded.pand : ∀ x0 x1, Encoded.Statement (.pand x0 x1) := fun _ _ => Encoded.ofLane rfl
theorem Encoded.por : ∀ x0 x1, Encoded.Statement (.por x0 x1) := fun _ _ => Encoded.ofLane rfl
theorem Encoded.pxor : ∀ x0 x1, Encoded.Statement (.pxor x0 x1) := fun _ _ => Encoded.ofLane rfl
theorem Encoded.pnot : ∀ x0 x1, Encoded.Statement (.pnot x0 x1) := fun _ _ => Encoded.ofLane rfl
theorem Encoded.lbra : ∀ x0 x1, Encoded.Statement (.lbra x0 x1) := fun _ _ => Encoded.ofLane rfl
theorem Encoded.ljoin : ∀ x0 x1, Encoded.Statement (.ljoin x0 x1) := fun _ _ => Encoded.ofLane rfl
theorem Encoded.lcall : ∀ x0 x1, Encoded.Statement (.lcall x0 x1) := fun _ _ => Encoded.ofLane rfl
theorem Encoded.lret : ∀ x0 x1, Encoded.Statement (.lret x0 x1) := fun _ _ => Encoded.ofLane rfl
theorem Encoded.lexit : ∀ x0 x1, Encoded.Statement (.lexit x0 x1) := fun _ _ => Encoded.ofLane rfl
theorem Encoded.nop : ∀ x0 x1, Encoded.Statement (.nop x0 x1) := fun _ _ => Encoded.ofLane rfl
theorem Encoded.mma : ∀ x0 x1, Encoded.Statement (.mma x0 x1) := fun _ _ => Encoded.ofLane rfl
theorem Encoded.mmag : ∀ x0 x1, Encoded.Statement (.mmag x0 x1) := fun _ _ => Encoded.ofLane rfl
theorem Encoded.mmaw : ∀ x0 x1, Encoded.Statement (.mmaw x0 x1) := fun _ _ => Encoded.ofLane rfl
theorem Encoded.accz : ∀ x0 x1, Encoded.Statement (.accz x0 x1) := fun _ _ => Encoded.ofLane rfl
theorem Encoded.accld : ∀ x0 x1, Encoded.Statement (.accld x0 x1) := fun _ _ => Encoded.ofLane rfl
theorem Encoded.accst : ∀ x0 x1, Encoded.Statement (.accst x0 x1) := fun _ _ => Encoded.ofLane rfl
theorem Encoded.accmv : ∀ x0 x1, Encoded.Statement (.accmv x0 x1) := fun _ _ => Encoded.ofLane rfl
theorem Encoded.primout : ∀ x0 x1, Encoded.Statement (.primout x0 x1) := fun _ _ => Encoded.ofLane rfl
theorem Encoded.binnext : ∀ x0 x1, Encoded.Statement (.binnext x0 x1) := fun _ _ => Encoded.ofLane rfl
theorem Encoded.rastq : ∀ x0 x1, Encoded.Statement (.rastq x0 x1) := fun _ _ => Encoded.ofLane rfl
theorem Encoded.tex : ∀ x0 x1, Encoded.Statement (.tex x0 x1) := fun _ _ => Encoded.ofLane rfl
theorem Encoded.ztest : ∀ x0 x1, Encoded.Statement (.ztest x0 x1) := fun _ _ => Encoded.ofLane rfl
theorem Encoded.tilew : ∀ x0 x1, Encoded.Statement (.tilew x0 x1) := fun _ _ => Encoded.ofLane rfl
theorem Encoded.tilerd : ∀ x0 x1, Encoded.Statement (.tilerd x0 x1) := fun _ _ => Encoded.ofLane rfl
theorem Encoded.tilefl : ∀ x0 x1, Encoded.Statement (.tilefl x0 x1) := fun _ _ => Encoded.ofLane rfl
theorem Encoded.registerWrite : ∀ x0 x1 x2 x3, Encoded.Statement (.registerWrite x0 x1 x2 x3) := fun _ _ _ _ => Encoded.ofEvent rfl
theorem Encoded.pkgpwrLimitWrite : ∀ x0, Encoded.Statement (.pkgpwrLimitWrite x0) := fun _ => Encoded.ofEvent rfl
theorem Encoded.powerWindowEnd : ∀ x0, Encoded.Statement (.powerWindowEnd x0) := fun _ => Encoded.ofEvent rfl
theorem Encoded.supplyEvent : ∀ x0 x1, Encoded.Statement (.supplyEvent x0 x1) := fun _ _ => Encoded.ofEvent rfl
theorem Encoded.supplyRestore : ∀ x0, Encoded.Statement (.supplyRestore x0) := fun _ => Encoded.ofEvent rfl
theorem Encoded.thermalWarning : ∀ x0 x1, Encoded.Statement (.thermalWarning x0 x1) := fun _ _ => Encoded.ofEvent rfl
theorem Encoded.thermalStop : ∀ x0 x1, Encoded.Statement (.thermalStop x0 x1) := fun _ _ => Encoded.ofEvent rfl
theorem Encoded.thermalRestore : ∀ x0 x1, Encoded.Statement (.thermalRestore x0 x1) := fun _ _ => Encoded.ofEvent rfl
theorem Encoded.flitReplay : ∀ x0 x1, Encoded.Statement (.flitReplay x0 x1) := fun _ _ => Encoded.ofEvent rfl
theorem Encoded.moduleDisable : ∀ x0 x1 x2, Encoded.Statement (.moduleDisable x0 x1 x2) := fun _ _ _ => Encoded.ofEvent rfl
theorem Encoded.routerReceive : ∀ x0 x1 x2 x3, Encoded.Statement (.routerReceive x0 x1 x2 x3) := fun _ _ _ _ => Encoded.ofEvent rfl
theorem Encoded.requestTimeout : ∀ x0 x1, Encoded.Statement (.requestTimeout x0 x1) := fun _ _ => Encoded.ofEvent rfl
theorem Encoded.memoryPortRequest : ∀ x0 x1, Encoded.Statement (.memoryPortRequest x0 x1) := fun _ _ => Encoded.ofEvent rfl
theorem Encoded.uncorrectableError : ∀ x0 x1, Encoded.Statement (.uncorrectableError x0 x1) := fun _ _ => Encoded.ofEvent rfl
theorem Encoded.memoryCompletion : ∀ x0 x1, Encoded.Statement (.memoryCompletion x0 x1) := fun _ _ => Encoded.ofEvent rfl
theorem Encoded.rtcmdGoSign : ∀ x0, Encoded.Statement (.rtcmdGoSign x0) := fun _ => Encoded.ofEvent rfl
theorem Encoded.rtcmdGoUnsigned : ∀ x0, Encoded.Statement (.rtcmdGoUnsigned x0) := fun _ => Encoded.ofEvent rfl
theorem Encoded.routeSignDone : Encoded.Statement .routeSignDone := Encoded.ofEvent rfl
theorem Encoded.routerPrepare : ∀ x0, Encoded.Statement (.routerPrepare x0) := fun _ => Encoded.ofEvent rfl
theorem Encoded.prepareAnswer : ∀ x0, Encoded.Statement (.prepareAnswer x0) := fun _ => Encoded.ofEvent rfl
theorem Encoded.prepareTimeout : ∀ x0, Encoded.Statement (.prepareTimeout x0) := fun _ => Encoded.ofEvent rfl
theorem Encoded.routeAbortRetry : Encoded.Statement .routeAbortRetry := Encoded.ofEvent rfl
theorem Encoded.drainMarkerReceive : ∀ x0 x1 x2, Encoded.Statement (.drainMarkerReceive x0 x1 x2) := fun _ _ _ => Encoded.ofEvent rfl
theorem Encoded.drainMarkerAck : ∀ x0 x1 x2, Encoded.Statement (.drainMarkerAck x0 x1 x2) := fun _ _ _ => Encoded.ofEvent rfl
theorem Encoded.drainMarkerResend : ∀ x0 x1 x2, Encoded.Statement (.drainMarkerResend x0 x1 x2) := fun _ _ _ => Encoded.ofEvent rfl
theorem Encoded.dieResetStart : ∀ x0, Encoded.Statement (.dieResetStart x0) := fun _ => Encoded.ofEvent rfl
theorem Encoded.neighborFence : ∀ x0 x1, Encoded.Statement (.neighborFence x0 x1) := fun _ _ => Encoded.ofEvent rfl
theorem Encoded.dieFailure : ∀ x0, Encoded.Statement (.dieFailure x0) := fun _ => Encoded.ofEvent rfl
theorem Encoded.dieDownNotice : ∀ x0 x1, Encoded.Statement (.dieDownNotice x0 x1) := fun _ _ => Encoded.ofEvent rfl
theorem Encoded.dieRelease : ∀ x0, Encoded.Statement (.dieRelease x0) := fun _ => Encoded.ofEvent rfl
theorem Encoded.transientRequest : ∀ x0 x1 x2, Encoded.Statement (.transientRequest x0 x1 x2) := fun _ _ _ => Encoded.ofEvent rfl
theorem Encoded.transientRequestReceive : ∀ x0 x1 x2 x3, Encoded.Statement (.transientRequestReceive x0 x1 x2 x3) := fun _ _ _ _ => Encoded.ofEvent rfl
theorem Encoded.tokenReceive : ∀ x0, Encoded.Statement (.tokenReceive x0) := fun _ => Encoded.ofEvent rfl
theorem Encoded.transientRetry : ∀ x0 x1, Encoded.Statement (.transientRetry x0 x1) := fun _ _ => Encoded.ofEvent rfl
theorem Encoded.persistentConvert : ∀ x0 x1, Encoded.Statement (.persistentConvert x0 x1) := fun _ _ => Encoded.ofEvent rfl
theorem Encoded.persistentRequest : ∀ x0 x1 x2, Encoded.Statement (.persistentRequest x0 x1 x2) := fun _ _ _ => Encoded.ofEvent rfl
theorem Encoded.persistentActivate : ∀ x0, Encoded.Statement (.persistentActivate x0) := fun _ => Encoded.ofEvent rfl
theorem Encoded.activateReceive : ∀ x0 x1, Encoded.Statement (.activateReceive x0 x1) := fun _ _ => Encoded.ofEvent rfl
theorem Encoded.deactivate : ∀ x0 x1, Encoded.Statement (.deactivate x0 x1) := fun _ _ => Encoded.ofEvent rfl
theorem Encoded.persRebroadcast : ∀ x0 x1, Encoded.Statement (.persRebroadcast x0 x1) := fun _ _ => Encoded.ofEvent rfl
theorem Encoded.clusterHeldAge : ∀ x0 x1 x2, Encoded.Statement (.clusterHeldAge x0 x1 x2) := fun _ _ _ => Encoded.ofEvent rfl
theorem Encoded.recreationSweep : ∀ x0 x1, Encoded.Statement (.recreationSweep x0 x1) := fun _ _ => Encoded.ofEvent rfl
theorem Encoded.censusActivate : ∀ x0 x1, Encoded.Statement (.censusActivate x0 x1) := fun _ _ => Encoded.ofEvent rfl
theorem Encoded.censusComplete : ∀ x0, Encoded.Statement (.censusComplete x0) := fun _ => Encoded.ofEvent rfl
theorem Encoded.replicaRead : ∀ x0 x1 x2, Encoded.Statement (.replicaRead x0 x1 x2) := fun _ _ _ => Encoded.ofEvent rfl
theorem Encoded.replicaDemote : ∀ x0 x1, Encoded.Statement (.replicaDemote x0 x1) := fun _ _ => Encoded.ofEvent rfl
theorem Encoded.replicaInvalidate : ∀ x0 x1, Encoded.Statement (.replicaInvalidate x0 x1) := fun _ _ => Encoded.ofEvent rfl
theorem Encoded.replicaDemoteDone : ∀ x0 x1, Encoded.Statement (.replicaDemoteDone x0 x1) := fun _ _ => Encoded.ofEvent rfl
theorem Encoded.homeFlush : ∀ x0 x1, Encoded.Statement (.homeFlush x0 x1) := fun _ _ => Encoded.ofEvent rfl
theorem Encoded.homeReplclr : ∀ x0 x1, Encoded.Statement (.homeReplclr x0 x1) := fun _ _ => Encoded.ofEvent rfl
theorem Encoded.homeBadop : ∀ x0 x1, Encoded.Statement (.homeBadop x0 x1) := fun _ _ => Encoded.ofEvent rfl
theorem Encoded.homeCmdDone : ∀ x0, Encoded.Statement (.homeCmdDone x0) := fun _ => Encoded.ofEvent rfl
theorem Encoded.bootRom : ∀ x0 x1 x2, Encoded.Statement (.bootRom x0 x1 x2) := fun _ _ _ => Encoded.ofEvent rfl
theorem Encoded.bootHub : ∀ x0 x1 x2, Encoded.Statement (.bootHub x0 x1 x2) := fun _ _ _ => Encoded.ofEvent rfl
theorem Encoded.bootDies : ∀ x0, Encoded.Statement (.bootDies x0) := fun _ => Encoded.ofEvent rfl
theorem Encoded.bootSelftest : ∀ x0, Encoded.Statement (.bootSelftest x0) := fun _ => Encoded.ofEvent rfl
theorem Encoded.bootRoute : Encoded.Statement .bootRoute := Encoded.ofEvent rfl
theorem Encoded.bootKeys : ∀ x0, Encoded.Statement (.bootKeys x0) := fun _ => Encoded.ofEvent rfl
theorem Encoded.bootDone : Encoded.Statement .bootDone := Encoded.ofEvent rfl
theorem Encoded.getVersion : Encoded.Statement .getVersion := Encoded.ofEvent rfl
theorem Encoded.getCapabilities : Encoded.Statement .getCapabilities := Encoded.ofEvent rfl
theorem Encoded.negotiateAlgorithms : ∀ x0 x1 x2, Encoded.Statement (.negotiateAlgorithms x0 x1 x2) := fun _ _ _ => Encoded.ofEvent rfl
theorem Encoded.getDigests : Encoded.Statement .getDigests := Encoded.ofEvent rfl
theorem Encoded.getCertificate : ∀ x0 x1 x2, Encoded.Statement (.getCertificate x0 x1 x2) := fun _ _ _ => Encoded.ofEvent rfl
theorem Encoded.challenge : ∀ x0 x1, Encoded.Statement (.challenge x0 x1) := fun _ _ => Encoded.ofEvent rfl
theorem Encoded.getMeasurements : ∀ x0 x1 x2, Encoded.Statement (.getMeasurements x0 x1 x2) := fun _ _ _ => Encoded.ofEvent rfl
theorem Encoded.spdmUnsupported : ∀ x0, Encoded.Statement (.spdmUnsupported x0) := fun _ => Encoded.ofEvent rfl
theorem Encoded.secrangeWrite : ∀ x0 x1 x2 x3, Encoded.Statement (.secrangeWrite x0 x1 x2 x3) := fun _ _ _ _ => Encoded.ofEvent rfl
theorem Encoded.secrangeZerofillDone : ∀ x0 x1, Encoded.Statement (.secrangeZerofillDone x0 x1) := fun _ _ => Encoded.ofEvent rfl
theorem Encoded.bar2Read : ∀ x0 x1, Encoded.Statement (.bar2Read x0 x1) := fun _ _ => Encoded.ofEvent rfl
theorem Encoded.bar2Write : ∀ x0 x1, Encoded.Statement (.bar2Write x0 x1) := fun _ _ => Encoded.ofEvent rfl
theorem Encoded.sqStart : ∀ x0 x1 x2, Encoded.Statement (.sqStart x0 x1 x2) := fun _ _ _ => Encoded.ofEvent rfl
theorem Encoded.sqStop : ∀ x0 x1 x2, Encoded.Statement (.sqStop x0 x1 x2) := fun _ _ _ => Encoded.ofEvent rfl
theorem Encoded.sqDoorbell : ∀ x0 x1 x2 x3, Encoded.Statement (.sqDoorbell x0 x1 x2 x3) := fun _ _ _ _ => Encoded.ofEvent rfl
theorem Encoded.cqDoorbell : ∀ x0 x1 x2 x3, Encoded.Statement (.cqDoorbell x0 x1 x2 x3) := fun _ _ _ _ => Encoded.ofEvent rfl
theorem Encoded.gcpReadEntry : ∀ x0, Encoded.Statement (.gcpReadEntry x0) := fun _ => Encoded.ofEvent rfl
theorem Encoded.waitlistResolve : ∀ x0, Encoded.Statement (.waitlistResolve x0) := fun _ => Encoded.ofEvent rfl
theorem Encoded.gridAdmit : ∀ x0, Encoded.Statement (.gridAdmit x0) := fun _ => Encoded.ofEvent rfl
theorem Encoded.notbeforeRelease : ∀ x0 x1, Encoded.Statement (.notbeforeRelease x0 x1) := fun _ _ => Encoded.ofEvent rfl
theorem Encoded.teamPlace : ∀ x0, Encoded.Statement (.teamPlace x0) := fun _ => Encoded.ofEvent rfl
theorem Encoded.runStart : ∀ x0, Encoded.Statement (.runStart x0) := fun _ => Encoded.ofEvent rfl
theorem Encoded.runEnd : ∀ x0, Encoded.Statement (.runEnd x0) := fun _ => Encoded.ofEvent rfl
theorem Encoded.issueSelect : ∀ x0 x1 x2, Encoded.Statement (.issueSelect x0 x1 x2) := fun _ _ _ => Encoded.ofEvent rfl
theorem Encoded.starvationPromote : ∀ x0, Encoded.Statement (.starvationPromote x0) := fun _ => Encoded.ofEvent rfl
theorem Encoded.matrixAccept : ∀ x0 x1 x2, Encoded.Statement (.matrixAccept x0 x1 x2) := fun _ _ _ => Encoded.ofEvent rfl
theorem Encoded.rbgetServe : ∀ x0 x1, Encoded.Statement (.rbgetServe x0 x1) := fun _ _ => Encoded.ofEvent rfl
theorem Encoded.teamEnd : ∀ x0, Encoded.Statement (.teamEnd x0) := fun _ => Encoded.ofEvent rfl
theorem Encoded.gridFinalStatus : ∀ x0, Encoded.Statement (.gridFinalStatus x0) := fun _ => Encoded.ofEvent rfl
theorem Encoded.completionEntryWrite : ∀ x0, Encoded.Statement (.completionEntryWrite x0) := fun _ => Encoded.ofEvent rfl
theorem Encoded.msixCoalesceTimeout : ∀ x0, Encoded.Statement (.msixCoalesceTimeout x0) := fun _ => Encoded.ofEvent rfl
theorem Encoded.deadlineExpire : ∀ x0, Encoded.Statement (.deadlineExpire x0) := fun _ => Encoded.ofEvent rfl
theorem Encoded.evtstatClear : ∀ x0, Encoded.Statement (.evtstatClear x0) := fun _ => Encoded.ofEvent rfl
theorem Encoded.dalecPortChange : ∀ x0 x1, Encoded.Statement (.dalecPortChange x0 x1) := fun _ _ => Encoded.ofEvent rfl
theorem Encoded.peerRequestReceive : ∀ x0 x1 x2, Encoded.Statement (.peerRequestReceive x0 x1 x2) := fun _ _ _ => Encoded.ofEvent rfl
theorem Encoded.peerRequestTimeout : ∀ x0 x1, Encoded.Statement (.peerRequestTimeout x0 x1) := fun _ _ => Encoded.ofEvent rfl
theorem Encoded.ptpSync : ∀ x0 x1, Encoded.Statement (.ptpSync x0 x1) := fun _ _ => Encoded.ofEvent rfl
theorem Encoded.ptpAnnounce : ∀ x0 x1, Encoded.Statement (.ptpAnnounce x0 x1) := fun _ _ => Encoded.ofEvent rfl
theorem Encoded.ppsEdge : ∀ x0, Encoded.Statement (.ppsEdge x0) := fun _ => Encoded.ofEvent rfl
theorem Encoded.arpReply : ∀ x0, Encoded.Statement (.arpReply x0) := fun _ => Encoded.ofEvent rfl
theorem Encoded.timeSourceLoss : Encoded.Statement .timeSourceLoss := Encoded.ofEvent rfl
theorem Encoded.tsetWrite : ∀ x0 x1, Encoded.Statement (.tsetWrite x0 x1) := fun _ _ => Encoded.ofEvent rfl
theorem Encoded.tctlWrite : ∀ x0, Encoded.Statement (.tctlWrite x0) := fun _ => Encoded.ofEvent rfl
theorem Encoded.frameOpen : ∀ x0 x1 x2, Encoded.Statement (.frameOpen x0 x1 x2) := fun _ _ _ => Encoded.ofEvent rfl
theorem Encoded.frameAbort : ∀ x0 x1, Encoded.Statement (.frameAbort x0 x1) := fun _ _ => Encoded.ofEvent rfl
theorem Encoded.gatePrimReceive : ∀ x0 x1 x2, Encoded.Statement (.gatePrimReceive x0 x1 x2) := fun _ _ _ => Encoded.ofEvent rfl
theorem Encoded.gateMarkerReceive : ∀ x0 x1 x2 x3, Encoded.Statement (.gateMarkerReceive x0 x1 x2 x3) := fun _ _ _ _ => Encoded.ofEvent rfl
theorem Encoded.gateObjectCheck : ∀ x0 x1, Encoded.Statement (.gateObjectCheck x0 x1) := fun _ _ => Encoded.ofEvent rfl
theorem Encoded.partialRenderDone : ∀ x0 x1, Encoded.Statement (.partialRenderDone x0 x1) := fun _ _ => Encoded.ofEvent rfl
theorem Encoded.frameLatchWrite : ∀ x0, Encoded.Statement (.frameLatchWrite x0) := fun _ => Encoded.ofEvent rfl
theorem Encoded.activityWindowEnd : ∀ x0 x1, Encoded.Statement (.activityWindowEnd x0 x1) := fun _ _ => Encoded.ofEvent rfl
theorem Encoded.throttleEnd : ∀ x0 x1, Encoded.Statement (.throttleEnd x0 x1) := fun _ _ => Encoded.ofEvent rfl
theorem Encoded.tlbiAll : ∀ x0 x1, Encoded.Statement (.tlbiAll x0 x1) := fun _ _ => Encoded.ofEvent rfl
theorem Encoded.tlbiRoot : ∀ x0 x1, Encoded.Statement (.tlbiRoot x0 x1) := fun _ _ => Encoded.ofEvent rfl
theorem Encoded.tlbiPage : ∀ x0 x1, Encoded.Statement (.tlbiPage x0 x1) := fun _ _ => Encoded.ofEvent rfl
theorem Encoded.tlbiDone : Encoded.Statement .tlbiDone := Encoded.ofEvent rfl
theorem Encoded.fqbaseEnable : ∀ x0 x1 x2 x3, Encoded.Statement (.fqbaseEnable x0 x1 x2 x3) := fun _ _ _ _ => Encoded.ofEvent rfl
theorem Encoded.fqcmdReplay : ∀ x0 x1 x2 x3, Encoded.Statement (.fqcmdReplay x0 x1 x2 x3) := fun _ _ _ _ => Encoded.ofEvent rfl
theorem Encoded.fqcmdKill : ∀ x0 x1 x2 x3, Encoded.Statement (.fqcmdKill x0 x1 x2 x3) := fun _ _ _ _ => Encoded.ofEvent rfl
theorem Encoded.faultStallRetry : ∀ x0 x1, Encoded.Statement (.faultStallRetry x0 x1) := fun _ _ => Encoded.ofEvent rfl
theorem Encoded.windowAccess : ∀ x0 x1, Encoded.Statement (.windowAccess x0 x1) := fun _ _ => Encoded.ofEvent rfl
theorem Encoded.qctlWrite : ∀ x0 x1 x2 x3, Encoded.Statement (.qctlWrite x0 x1 x2 x3) := fun _ _ _ _ => Encoded.ofEvent rfl
theorem Encoded.qstatClear : ∀ x0 x1 x2 x3, Encoded.Statement (.qstatClear x0 x1 x2 x3) := fun _ _ _ _ => Encoded.ofEvent rfl
theorem Encoded.promotionRequest : ∀ x0 x1 x2, Encoded.Statement (.promotionRequest x0 x1 x2) := fun _ _ _ => Encoded.ofEvent rfl
theorem Encoded.watchFire : ∀ x0, Encoded.Statement (.watchFire x0) := fun _ => Encoded.ofEvent rfl
theorem Encoded.smwaitTimeout : ∀ x0, Encoded.Statement (.smwaitTimeout x0) := fun _ => Encoded.ofEvent rfl
theorem Encoded.feedRowAppend : ∀ x0 x1 x2, Encoded.Statement (.feedRowAppend x0 x1 x2) := fun _ _ _ => Encoded.ofEvent rfl
theorem Encoded.engineComplete : ∀ x0 x1, Encoded.Statement (.engineComplete x0 x1) := fun _ _ => Encoded.ofEvent rfl
theorem Encoded.sscbCompare : ∀ x0, Encoded.Statement (.sscbCompare x0) := fun _ => Encoded.ofEvent rfl
theorem Encoded.watchdogExpire : ∀ x0, Encoded.Statement (.watchdogExpire x0) := fun _ => Encoded.ofEvent rfl
theorem Encoded.preempt : ∀ x0 x1, Encoded.Statement (.preempt x0 x1) := fun _ _ => Encoded.ofEvent rfl
theorem Encoded.preemptComplete : Encoded.Statement .preemptComplete := Encoded.ofEvent rfl
theorem Encoded.resume : ∀ x0 x1, Encoded.Statement (.resume x0 x1) := fun _ _ => Encoded.ofEvent rfl
theorem Encoded.teamRestore : ∀ x0, Encoded.Statement (.teamRestore x0) := fun _ => Encoded.ofEvent rfl
theorem Encoded.matrixUnitFinish : ∀ x0 x1, Encoded.Statement (.matrixUnitFinish x0 x1) := fun _ _ => Encoded.ofEvent rfl
theorem Encoded.grantedStart : ∀ x0 x1, Encoded.Statement (.grantedStart x0 x1) := fun _ _ => Encoded.ofEvent rfl
theorem Encoded.ptpFollowUp : ∀ x0, Encoded.Statement (.ptpFollowUp x0) := fun _ => Encoded.ofEvent rfl
theorem Encoded.ptpDelayResp : ∀ x0, Encoded.Statement (.ptpDelayResp x0) := fun _ => Encoded.ofEvent rfl
theorem Encoded.ptpDelayReq : Encoded.Statement .ptpDelayReq := Encoded.ofEvent rfl
theorem Encoded.ppsseenExpire : Encoded.Statement .ppsseenExpire := Encoded.ofEvent rfl
theorem Encoded.endOfTeamMarkerAck : ∀ x0 x1, Encoded.Statement (.endOfTeamMarkerAck x0 x1) := fun _ _ => Encoded.ofEvent rfl
theorem Encoded.frameOpenReceive : ∀ x0 x1, Encoded.Statement (.frameOpenReceive x0 x1) := fun _ _ => Encoded.ofEvent rfl
theorem Encoded.frameOpenAck : ∀ x0 x1, Encoded.Statement (.frameOpenAck x0 x1) := fun _ _ => Encoded.ofEvent rfl
theorem Encoded.censusMarkReceive : ∀ x0 x1 x2, Encoded.Statement (.censusMarkReceive x0 x1 x2) := fun _ _ _ => Encoded.ofEvent rfl
theorem Encoded.hostConfigurationRequest : ∀ x0 x1 x2, Encoded.Statement (.hostConfigurationRequest x0 x1 x2) := fun _ _ _ => Encoded.ofEvent rfl

end Sys2Proof.Laws
end

