-- ==== Sys2Proof/Tests/Slice0.lean ====
section
/-! SUPPORT. Tests: what the checks of WellFormed refuse, words written out from the spec's encodings, small steps, and a state that
meets the hypotheses of each statement. -/
namespace Sys2Proof.Tests
open Sys2Proof.Machine Sys2Proof.Rules

set_option Elab.async false

/-- A warp alone in slot 0 of core 0 of site 0, with one scalar instruction placed at its PC. -/
def base : State := State.reset.withFetchWord 32 0x24541800
/-- The same with a lane run of one path. -/
def lanePlaced : State := State.reset.withFetchWord 96 0x002E00000064500000000000
/-- `lanePlaced` at its lane instruction. -/
def laneBase : State := { lanePlaced with cur := { site := 0, core := 0, slot := 0, lane := some false } }
/-- A state with its executing warp changed. -/
def withW (s : State) (f : Warp → Warp) : State := s.setW (f s.curW)
/-- A state with its core changed. -/
def withC (s : State) (f : Core → Core) : State := s.setC (f s.curCore)
/-- A state with its grid changed. -/
def withG (s : State) (f : Grid → Grid) : State := s.setGrid 0 (f (s.grid 0))
/-- A state whose kernel descriptor has more fields set. -/
def withKd (s : State) (off v : Nat) : State := s.setTeam 0 { s.team 0 with kd := (s.team 0).kd + BitVec.ofNat 2048 (v * 2 ^ (8 * off)) }
/-- The slot of the other warp of a pair. -/
def other : WRef := { site := 0, core := 0, slot := 1 }
/-- The warp of `base` as the leader of a pair with the warp in slot 1. -/
def lead : State := (withW base fun w => { w with mate := some other }).setWref other { base.curW with shadow := true, mate := some base.curRef }
/-- The warp of `base` as the trailing warp of a pair with the warp in slot 1. -/
def trail (lvq : List LvqEnt) : State :=
  (withW base fun w => { w with shadow := true, mate := some other, lvq := lvq }).setWref other { base.curW with mate := some base.curRef }

/-- A trailing warp with an agreeing jump to 5 in its LVQ (R317). -/
def trailAgrees : State := trail [lvqVal false true (crc64 (leBytes 4 5)).toNat]
/-- `base` behind a SYNCL.RESUME whose entry has run. -/
def resumed : State := withW base fun w => { w with resAt := some 0 }
/-- `base` with one operation on path COPY under way. -/
def copying : State := withW base fun w => { w with cnt := [(3, 1)] }
/-- `base` with lane code of 2^20 words only. -/
def shortLane : State := base.setTeam 0 { base.team 0 with kd := BitVec.ofNat 2048 ((base.team 0).kd.toNat % 2 ^ 352 + 2 ^ 20 * 2 ^ 352) }
/-- `base` with data in its page, and address pairs in s2 (0x80008), s4 (0x100410, in the team's data
granule), s6 (unmapped), s10 (odd) and s12 (a page that may only be read). -/
def loaded : State :=
  { (withC (withW base fun w => { w with s := [(2, 0x80008), (4, 0x100410), (6, 0x300000), (8, 7), (10, 0x80009), (12, 0x180000)] }) fun c =>
      { c with tlb := c.tlb ++ [{ root := 0, sec := false, big := false, vpage := 2, pte := BitVec.ofNat 64 (3 * 2 ^ 62 + 0xF00000100061), entry := 0 },
        { root := 0, sec := false, big := false, vpage := 3, pte := 0x100021, entry := 0 }] }) with
    mem := writeBytes base.mem 0x80008 8 0x1122334455667788 }

/-- Where `loaded` finds 0x80008. -/
def dataTr : Tr := { kind := .localMem, pa := 0x80008, attr := 0, set := BitVec.allOnes 48, sec := false, page := 0x80000, entry := 0 }
/-- Where `loaded` finds 0x100410, in the data granule of its team. -/
def barTr : Tr := { kind := .localMem, pa := 0xF00000100410, attr := 3, set := BitVec.allOnes 48, sec := false, page := 0xF00000100000, entry := 0 }
/-- `loaded` with a data section. -/
def dataSection : State := withKd (withKd loaded 0x20 0x80000) 0x30 16
/-- `loaded` in a handler, ready for a watch or a wait. -/
def watching (x : Watch) : State := withW loaded fun w => { w with watch := some x }
/-- The leader of a pair over `loaded`. -/
def leadLoaded : State := (withW loaded fun w => { w with mate := some other }).setWref other { base.curW with shadow := true, mate := some base.curRef }
/-- The trailing warp of a pair over `loaded`. -/
def trailLoaded : State :=
  (withW loaded fun w => { w with shadow := true, mate := some other }).setWref other { base.curW with mate := some base.curRef }
/-- A scalar load under way. -/
def load : AsyncOp :=
  { tag := 0, path := 0, pc := 0, isLane := false, slot1 := false, dst := none, width := 1, ext := false, acq := false, res := [],
    base := 0, len := 4, off := 0, cause := 0, detail := 0, fmask := 0, retries := 0, engine := false, held := false, op := 0,
    order := 0, scope := 0, hint := 0, done := false }
/-- `loaded` with an atomic under way. -/
def atomicPending : State := withW loaded fun w => { w with ops := [{ load with op := 16 }] }

theorem agrees_alone {s : State} {lane : Bool} {v : Nat} (h : s.role = .alone) : CheckAgrees s lane v := by
  unfold CheckAgrees; rw [h]; trivial
theorem agrees_lead {s : State} {sh : WRef} {lane : Bool} {v : Nat} (h : s.role = .lead sh) (g : lvqRoom s sh 1 = true) :
    CheckAgrees s lane v := by
  unfold CheckAgrees; rw [h]; exact g
theorem outside_alone {s : State} {v : Nat} (h : s.role = .alone) : OutsideGives s v v := by
  unfold OutsideGives; rw [h]
theorem pinned_of {s : State} {fs : List (BitVec 13)} (h : FMap.wf s.curCore.places = true)
    (g : (fs.all fun f => decide (1536 ≤ num f) ||
      s.curW.pinned.getLsbD (num f / 32) && (placeFind s.curCore s.cur.slot (num f / 32)).isSome) = true) : Pinned s fs := by
  refine ⟨h, fun f hf hn => ?_⟩
  have := List.all_eq_true.mp g f hf
  simpa [Nat.not_le.mpr hn] using this

theorem pair_of {α β : Type} {x : α × β} {b : β} (h : x.2 = b) : x = (x.1, b) := Prod.ext rfl h
/-- Whether an outcome is a next state with a property. -/
def nextHas (o : Out) (p : State → Bool) : Bool := match o with | .next u => p u | _ => false
theorem next_of {o : Out} {p : State → Bool} (h : nextHas o p = true) : ∃ u, o = .next u ∧ p u = true := by
  cases o with | next u => exact ⟨u, rfl, h⟩ | _ => cases h
theorem may_of {s : State} {n : Nat} (h : seqRoom s s.cur.site s.cur.core false n = true) : MayRequest s n := h
/-! A state for the hypotheses of each statement. -/

theorem witness_ScalarArithmetic_register :
    wellFormed (Instr.ssra 63 2 3) = true ∧
    scalarResult (Instr.ssra 63 2 3) base.curW =
        some (63, 0) := by
  (repeat' apply And.intro) <;> decide +kernel

theorem witness_ScalarArithmetic_pair :
    (Instr.ssub64 62 2 4 =
            Instr.sadd64 62 2 4 ∧
          loaded.curW.rdPair 2 - loaded.curW.rdPair 4 =
            loaded.curW.rdPair 2 + loaded.curW.rdPair 4 ∨
        Instr.ssub64 62 2 4 =
            Instr.ssub64 62 2 4 ∧
          loaded.curW.rdPair 2 - loaded.curW.rdPair 4 =
            loaded.curW.rdPair 2 - loaded.curW.rdPair 4) ∧
    wellFormed (Instr.ssub64 62 2 4) = true := by
  (repeat' apply And.intro) <;> decide +kernel

theorem witness_BranchesTransferControl_call :
    wellFormed (Instr.call 5) = true ∧
    branchResult (Instr.call 5) base.curW = some (true, 5, some (62, 1)) ∧
    (true = true → CheckAgrees base false (crc64 (leBytes 4 (BitVec.toNat (5 : Word)))).toNat) := by
  (repeat' apply And.intro) <;> first | decide +kernel | exact fun _ => agrees_alone (by decide +kernel)

theorem witness_BranchesTransferControl_loop :
    wellFormed (Instr.loop 2 8 65535) = true ∧
    branchResult (Instr.loop 2 8 65535) loaded.curW =
        some (true, 4294967295, some (8, 6)) ∧
    (true = true → CheckAgrees loaded false (crc64 (leBytes 4 (BitVec.toNat (4294967295 : Word)))).toNat) := by
  (repeat' apply And.intro) <;> first | decide +kernel | exact fun _ => agrees_alone (by decide +kernel)

theorem witness_BranchesTransferControl_mismatch :
    trailAgrees.role = Role.trail other ∧
    takeLvq false trailAgrees.curW.lvq = some (lvqVal false true (crc64 (leBytes 4 5)).toNat, []) ∧
    (lvqVal false true (crc64 (leBytes 4 5)).toNat).trap = false ∧
    (lvqVal false true (crc64 (leBytes 4 5)).toNat).val ≠
        BitVec.ofNat 1024
          (crc64 (leBytes 4 (BitVec.toNat (trailAgrees.curW.pc + BitVec.signExtend 32 (6 : BitVec 26))))).toNat := by
  (repeat' apply And.intro) <;> decide +kernel

theorem witness_LaneRunsAreEnqueued_vrunr :
    (∃ a : BitVec 6, Instr.vrunr 63 = Instr.vrunr a ∧ 0 = base.curW.rd a) ∧ 0 < (base.team base.curW.team).llen ∧
    base.curW.queue.length < 4 ∧
    CheckAgrees base false (crc64 (leBytes 4 0 ++ (List.range 64).flatMap fun k => leBytes 4 (FMap.get 0 base.curW.s k).toNat)).toNat :=
  ⟨⟨63, rfl, by decide +kernel⟩, by decide +kernel, by decide +kernel, agrees_alone (by decide +kernel)⟩

theorem witness_LaneRunsAreEnqueued_beyond :
    shortLane.role = Role.alone ∧
    shortLane.cur.lane = none ∧
    (shortLane.team shortLane.curW.team).llen ≤ BitVec.toNat (1048576 : BitVec 26) := by
  (repeat' apply And.intro) <;> decide +kernel

theorem witness_ScalarStreamWaits_syncl :
    Drained base.curW := by
  (repeat' apply And.intro) <;> decide +kernel

theorem witness_ScalarStreamWaits_syncl_waits :
    ¬Drained laneBase.curW :=
  fun h => absurd h.2 (by decide +kernel)

theorem witness_ScalarStreamWaits_resume :
    laneBase.curW.resAt ≠ some laneBase.curW.pc ∧
    laneBase.curW.queue.length < 4 := by
  (repeat' apply And.intro) <;> decide +kernel

theorem witness_ScalarStreamWaits_resumed :
    resumed.curW.resAt = some resumed.curW.pc ∧
    Drained resumed.curW := by
  (repeat' apply And.intro) <;> decide +kernel

theorem witness_ScalarStreamWaits_swait :
    BitVec.toNat (3 : BitVec 3) ≤ 3 ∧
    Drained base.curW ∧
    report base.curW (some (BitVec.toNat (3 : BitVec 3))) false = none ∧
    base.curW.count (BitVec.toNat (3 : BitVec 3)) ≤ BitVec.toNat (base.curW.rd 63) := by
  (repeat' apply And.intro) <;> decide +kernel

theorem witness_ScalarStreamWaits_swait_parks :
    BitVec.toNat (3 : BitVec 3) ≤ 3 ∧
    Drained copying.curW ∧
    report copying.curW (some (BitVec.toNat (3 : BitVec 3))) false = none ∧
    BitVec.toNat (copying.curW.rd 63) < copying.curW.count (BitVec.toNat (3 : BitVec 3)) ∧
    copying.curW.park ≠ Park.swait (BitVec.toNat (3 : BitVec 3)) (BitVec.toNat (copying.curW.rd 63)) := by
  (repeat' apply And.intro) <;> decide +kernel

theorem witness_ScalarLoadsReadMemory :
    wellFormed (.sld 10 2 23 0) = true ∧ Issues loaded ∧ loaded.curW.recs.length < 16 ∧ MayRequest loaded 1 ∧
    scalarCheck loaded (sldAddress loaded.curW 2 23 0) (sldSize 23) .load = (loaded, .ok dataTr) ∧
    AccessGoes loaded (sldAddress loaded.curW 2 23 0) dataTr (sldSize 23) ∧
    (doLoad (acquireAct loaded 0 0 (sldScope 23)) (loaded.who loaded.curRef) dataTr (sldSize 23) 0).2 = (0x1122334455667788, stOk) := by
  (repeat' apply And.intro) <;> first | decide +kernel | (apply may_of; decide +kernel) | exact .inl (by decide +kernel)

theorem witness_ScalarConstantsReadTheDataSection :
    wellFormed (.sldc 60 63 0 2) = true ∧ Issues dataSection ∧ dataSection.curW.recs.length < 16 ∧ MayRequest dataSection 2 ∧
    (dataSection.team 0).dataVa = 0x80000 ∧ 0 + 4 * 2 ^ 2 ≤ (dataSection.team 0).dlen ∧
    scalarCheck dataSection 0x80000 16 .load = (dataSection, .ok { dataTr with pa := 0x80000 }) ∧
    AccessGoes dataSection 0x80000 { dataTr with pa := 0x80000 } 16 ∧
    ∃ u, ConstantsRead dataSection (dataSection.who dataSection.curRef) { dataTr with pa := 0x80000 } 4 u
      0x11223344556677880000000024541800 := by
  refine ⟨?_, .inl ?_, ?_, may_of ?_, ?_, ?_, ?_, ⟨?_, ?_⟩, _, _, 0x24541800, 0x1122334455667788, pair_of ?_, pair_of ?_, ?_⟩
  all_goals decide +kernel

theorem witness_ScalarConstantsReadTheDataSection_word :
    wellFormed (.sldc 60 63 2 0) = true ∧ 0 + 4 * 2 + 4 * 2 ^ 0 ≤ (dataSection.team 0).dlen ∧
    scalarCheck dataSection 0x80008 4 .load = (dataSection, .ok dataTr) ∧ AccessGoes dataSection 0x80008 dataTr 4 ∧
    ConstantsRead dataSection (dataSection.who dataSection.curRef) dataTr 1
      (doLoad dataSection (dataSection.who dataSection.curRef) dataTr 4 0).1 0x55667788 := by
  refine ⟨?_, ?_, ?_, ⟨?_, ?_⟩, pair_of ?_⟩
  all_goals decide +kernel

theorem witness_ScalarStoresWriteTheirBytes :
    wellFormed (Instr.sst 62 2 39 0) = true ∧
    loaded.role = Role.alone ∧
    loaded.curW.canIssue 1 = true ∧ MayRequest loaded 1 ∧
    dataTr.kind = Kind.localMem ∧
    scalarCheck loaded (sldAddress loaded.curW 2 39 0)
          (sldSize 39) Acc.store =
        (loaded, Checked.ok dataTr) ∧
    ((39 : BitVec 6).getLsbD 2 = true → loaded.curW.owesEnded = false) ∧ peerHeld loaded 0 0 dataTr = false := by
  (repeat' apply And.intro) <;> first | decide +kernel | (apply may_of; decide +kernel)

theorem witness_PairedStoresWaitForTheirMatch_leader :
    leadLoaded.role = Role.lead other ∧
    leadLoaded.curW.canIssue 1 = true ∧ MayRequest leadLoaded 1 ∧
    (leadLoaded.wref other).sscb.length < 32 ∧
    warpKey other.site other.core other.slot ≠ leadLoaded.curKey ∧
    scalarCheck leadLoaded (sldAddress leadLoaded.curW 2 3 0)
          (sldSize 3) Acc.store =
        (leadLoaded, Checked.ok dataTr) ∧
    ((3 : BitVec 6).getLsbD 2 = true → leadLoaded.curW.owesEnded = false) ∧ peerHeld leadLoaded 0 0 dataTr = false := by
  (repeat' apply And.intro) <;> first | decide +kernel | (apply may_of; decide +kernel)

theorem witness_PairedStoresWaitForTheirMatch_trailing :
    trailLoaded.role = Role.trail other :=
  by decide +kernel

theorem witness_RefusedScalarAccessesTrap :
    loaded.role = .alone ∧ loaded.cur.lane = none ∧ loaded.curW.recs.length < 16 ∧ loaded.curW.canIssue 1 = true ∧ MayRequest loaded 1 ∧
    loaded.curW.owesEnded = false ∧ sldAddress loaded.curW 12 2 0 = 0x180000 ∧ scalarCheck loaded 0x180000 4 .store = (loaded, .perm) ∧
    sldAddress loaded.curW 10 1 0 = 0x80009 ∧ scalarCheck loaded 0x80009 2 .store = (loaded, .misalign) ∧
    sldAddress loaded.curW 6 2 0 = 0x300000 ∧ (scalarCheck loaded 0x300000 4 .load).2 = .page 1 1 := by
  (repeat' apply And.intro) <;> first | decide +kernel | (apply may_of; decide +kernel)

theorem witness_BarriersCountArrivals_bara :
    Drained loaded.curW ∧
    Issues loaded ∧
    report loaded.curW none true = none ∧
    loaded.curW.owes = false ∧
    scalarCheck (atDrain loaded) (loaded.curW.rdPair 4) 8 Acc.atomic = (atDrain loaded, Checked.ok barTr) ∧
    AccessGoes (atDrain loaded) (loaded.curW.rdPair 4) barTr 8 ∧
    BarrierPlace (atDrain loaded) barTr := by
  (repeat' apply And.intro) <;> first | decide +kernel | exact .inl (by decide +kernel)

theorem witness_BarriersCountArrivals_barw :
    Drained loaded.curW ∧
    Issues loaded ∧
    report loaded.curW none true = none ∧
    scalarCheck (atDrain loaded) (loaded.curW.rdPair 4) 8 Acc.load = (atDrain loaded, Checked.ok barTr) ∧
    AccessGoes (atDrain loaded) (loaded.curW.rdPair 4) barTr 8 ∧
    BarrierPlace (atDrain loaded) barTr ∧
    BitVec.ofNat 16 (readBytes (atDrain loaded).mem barTr.pa 8 / 2 ^ 32) = (loaded.curW.rd 63).extractLsb' 0 16 ∧
    BitVec.ofNat 16 (readBytes (atDrain loaded).mem barTr.pa 8 / 2 ^ 32) ≠ (loaded.curW.rd 8).extractLsb' 0 16 := by
  (repeat' apply And.intro) <;> first | decide +kernel | exact .inl (by decide +kernel)

theorem witness_WatchesWakeTheirWarp_smon :
    loaded.role = Role.alone ∧
    scalarCheck loaded (loaded.curW.rdPair 2) 1 Acc.load = (loaded, Checked.ok dataTr) ∧
    AccessGoes loaded (loaded.curW.rdPair 2) dataTr 1 := by
  (repeat' apply And.intro) <;> decide +kernel

theorem witness_WatchesWakeTheirWarp_answers :
    Drained loaded.curW ∧ Issues loaded ∧ loaded.curW.watch = none ∧
    (watching ⟨5, true, true⟩).curW.watch = some ⟨5, true, true⟩ ∧ Drained (watching ⟨5, true, true⟩).curW ∧
    (watching ⟨5, false, false⟩).curW.watch = some ⟨5, false, false⟩ ∧ Issues (watching ⟨5, false, false⟩) ∧
    (loaded.curW.rd 63).toNat = 0 := by
  (repeat' apply And.intro) <;> first | decide +kernel | exact .inl (by decide +kernel)

/-- `watching` after it has been parked for as long as its limit in s8. -/
def limitOut : State := withC (withW (watching ⟨5, true, false⟩) fun w => { w with park := .smwait 0 (some 7), parkAt := 3, parkPast := 2 }) fun c => { c with clk := 8 }

theorem witness_WatchesWakeTheirWarp_limit :
    Drained limitOut.curW ∧ Issues limitOut ∧ limitOut.curW.watch = some ⟨5, true, false⟩ ∧ (limitOut.curW.rd 8).toNat ≠ 0 ∧
    (∃ d' l', limitOut.curW.park = .smwait d' l') ∧
    limitOut.curW.parkAt + (limitOut.curW.rd 8).toNat ≤ limitOut.curCore.clk + limitOut.curW.parkPast := by
  refine ⟨⟨?_, ?_⟩, .inl ?_, ?_, ?_, ⟨0, some 7, ?_⟩, ?_⟩
  all_goals decide +kernel

theorem witness_WatchesWakeTheirWarp_parks :
    Drained (watching ⟨5, true, false⟩).curW ∧ Issues (watching ⟨5, true, false⟩) ∧
    (watching ⟨5, true, false⟩).curW.watch = some ⟨5, true, false⟩ ∧ (watching ⟨5, true, false⟩).curW.park = .none := by
  (repeat' apply And.intro) <;> first | decide +kernel | exact .inl (by decide +kernel)

theorem witness_FencesOrderAccesses :
    atomicPending.role = .alone ∧ Drained atomicPending.curW ∧ fenceWaits atomicPending 2 = true ∧
    loaded.role = .alone ∧ Drained loaded.curW ∧ fenceWaits loaded 3 = false := by
  (repeat' apply And.intro) <;> decide +kernel

theorem witness_RemoteAcquiresPromoteTheirCores :
    loaded.role = .alone ∧ Drained loaded.curW ∧ scalarCheck (atDrain loaded) (loaded.curW.rdPair 2) 1 .load = (atDrain loaded, .ok dataTr) ∧
    AccessGoes (atDrain loaded) (loaded.curW.rdPair 2) dataTr 1 ∧ AccessGoes (atDrain loaded) (loaded.curW.rdPair 4) barTr 1 ∧
    (atDrain loaded).racqDenied 0 0 = false ∧
    scalarCheck (atDrain loaded) (loaded.curW.rdPair 4) 1 .load = (atDrain loaded, .ok barTr) ∧ barTr.kind = .localMem ∧ barTr.attr = 3 ∧
    region barTr.pa = .window 0 0 0x100410 := by
  (repeat' apply And.intro) <;> decide +kernel

/-- Control bits of an instruction without S under p7 (always). -/
def always : Hdr := { s := false, pred := 7 }

theorem witness_LaneIntegerValues :
    let i : Instr := .iadd always { d := 0, a := 4, b := 8, c := 0, m := 0 }
    wellFormed i = true ∧ ∃ x, integerValue laneBase i = some x ∧ Pinned laneBase (x.2.1 :: x.2.2.1) :=
  ⟨by decide +kernel, _, rfl, pinned_of (by decide +kernel) (by decide +kernel)⟩

theorem witness_LaneFloatValues :
    let i : Instr := .fadd always { d := 0, a := 4, b := 8, c := 0, m := 0 }
    wellFormed i = true ∧ ∃ x, floatValue laneBase i = some x ∧ Pinned laneBase (x.2.1 :: x.2.2.1) :=
  ⟨by decide +kernel, _, rfl, pinned_of (by decide +kernel) (by decide +kernel)⟩

theorem witness_LaneConversions :
    let i : Instr := .cvt always { d := 4, a := 8, b := 0, c := 0, m := 0x8000 }
    wellFormed i = true ∧ ∃ x, convertValue laneBase i = some x ∧ Pinned laneBase (x.2.1 :: x.2.2.1) :=
  ⟨by decide +kernel, _, rfl, pinned_of (by decide +kernel) (by decide +kernel)⟩

theorem witness_CrossLaneValues :
    let i : Instr := .bcast always { d := 4, a := 8, b := 12, c := 0, m := 0 }
    wellFormed i = true ∧ ∃ x, crossValue laneBase i = some x ∧ Pinned laneBase (x.2.1 :: x.2.2.1) :=
  ⟨by decide +kernel, _, rfl, pinned_of (by decide +kernel) (by decide +kernel)⟩

theorem witness_CrossLaneValues_shfl :
    wellFormed (.shfl always { d := 4, a := 8, b := 12, c := 0, m := 0 }) = true ∧ Pinned laneBase [4, 8, 12] := by
  (repeat' apply And.intro) <;> decide +kernel

theorem witness_LanePredicateValues :
    let i : Instr := .iset always { d := 0, a := 4, b := 8, c := 0, m := 0 }
    wellFormed i = true ∧ ∃ x, predValue laneBase i = some x ∧ Pinned laneBase x.2.1 :=
  ⟨by decide +kernel, _, rfl, pinned_of (by decide +kernel) (by decide +kernel)⟩

theorem witness_LaneInstructionsTrapFirst_unpinned :
    let i : Instr := .iadd always { d := 128, a := 4, b := 8, c := 0, m := 0 }
    laneBase.role = .alone ∧ laneBase.cur.lane = some false ∧
      ∃ x, integerValue laneBase i = some x ∧
        ∃ f ∈ x.2.1 :: x.2.2.1, num f < 1536 ∧ laneBase.curW.pinned.getLsbD (num f / 32) = false :=
  ⟨by decide +kernel, by decide +kernel, _, rfl, 128, List.mem_cons_self, by decide +kernel, by decide +kernel⟩

/-- `laneBase` in a grid with redundancy. -/
def redundant : State := withG laneBase fun g => { g with pkt := BitVec.ofNat 1024 (2 ^ (8 * 0x12)) }

theorem witness_LaneInstructionsTrapFirst_render :
    redundant.role = .alone ∧ redundant.cur.lane = some false ∧ (redundant.gridOf redundant.curW).redun ≠ 0 := by
  (repeat' apply And.intro) <;> decide +kernel

/-- `base` with a trap vector. -/
def vectored : State := withKd base 0x38 0x100
/-- `base` in its trap handler, with lane state set aside. -/
def handling : State :=
  withW base fun w => { w with
    hflag := true, tpc := 7, tlpc := 0x4000000900000000, tamask := 0x0000000F00000000
    aside := some { lane := LaneCtx.none, queue := [], running := none, resAt := none } }
/-- `base` with both slots HELD and WAIT, and a trap vector. -/
def stopped : State :=
  withW vectored fun w => { w with
    lane := { w.lane with
      s0 := { st := .held, pc := 5, mask := 0xF, cnt := 1, age := 0 }, s1 := { st := .wait, pc := 9, mask := 0xF0, cnt := 2, age := 1 } } }
/-- `base` with a pool that has no free place (R172). -/
def poolEmpty : State := withC base fun c => { c with rbWait := [(3, 0, 1, 0)] }
/-- `base` with a declaration record in force. -/
def declared : State := withC base fun c => { c with phase := some { tg := 0, te := 1000, cls := 3 } }
/-- `loaded` with descriptors: a FEED at 0x80200, a COPY at 0x80300 with its completion object at 0x80400, an NBR at 0x80340 and a COPY of no
bytes at 0x80380; s14 and s16 are address pairs, s18, s19 and s20 indices. -/
def described : State :=
  { (withW loaded fun w => { w with s := [(2, 0x80008), (14, 0x80200), (16, 0x80300), (19, 1), (20, 2)] }) with
    mem := writeBytes (writeBytes (writeBytes (writeBytes loaded.mem 0x80218 16 0x00000001000000010000000100000001) 0x80310 16
      0x00000000000804000000000000000001) 0x80358 8 4) 0x80390 8 0 }
/-- Where `described` finds an address of its page. -/
def at' (pa : Nat) : Tr := { dataTr with pa := pa }
/-- The descriptors of the FEED, the COPY and the NBR of `described`. -/
def feedDesc : Nat := 0x00000001000000010000000100000001 * 2 ^ (8 * 0x18)
def copyDesc : Nat := 0x80400 * 2 ^ (8 * 0x18) + 2 ^ (8 * 0x10)
def nbrDesc : Nat := 4 * 2 ^ (8 * 0x18)
/-- `base` with the onset, the length and an address for PHASE. -/
def phased : State := withW base fun w => { w with s := [(2, 65535), (3, 4095)] }

theorem witness_RegisterBlocksArePinned_get :
    wellFormed (Instr.rbget 47 1) = true ∧
    base.curCore.rbWait = [] ∧
    needed base.curW (BitVec.toNat (47 : BitVec 6)) (BitVec.toNat (1 : BitVec 5)) ≤ poolFree base.curCore := by
  (repeat' apply And.intro) <;> decide +kernel

theorem witness_RegisterBlocksArePinned_waits :
    (∀ e ∈ poolEmpty.curCore.rbWait, e.1 ≠ poolEmpty.cur.slot) ∧
    (poolEmpty.curCore.rbWait ≠ [] ∨
        poolFree poolEmpty.curCore < needed poolEmpty.curW (BitVec.toNat (1 : BitVec 6)) (BitVec.toNat (1 : BitVec 5))) ∧
    poolEmpty.curW.park = Park.none := by
  (repeat' apply And.intro) <;> decide +kernel

theorem witness_RegisterBlocksArePinned_put :
    wellFormed (Instr.rbput 0 1) = true ∧
    Drained base.curW := by
  (repeat' apply And.intro) <;> decide +kernel

theorem witness_PhasesAreDeclared :
    BitVec.toNat (phased.curW.rd 2) ≤ 65535 ∧
    1 ≤ BitVec.toNat (phased.curW.rd 3) ∧
    BitVec.toNat (phased.curW.rd 3) ≤ 4095 := by
  (repeat' apply And.intro) <;> decide +kernel

theorem witness_RegionsSnapshotTheStreams :
    base.curW.hflag = false ∧
    Drained base.curW ∧
    (∀ (sh : WRef), base.role ≠ Role.lead sh) :=
  ⟨by decide +kernel, ⟨by decide +kernel, by decide +kernel⟩, fun _ h => by rw [show base.role = .alone by decide +kernel] at h; cases h⟩

theorem witness_RegionsSnapshotTheStreams_handler :
    handling.curW.hflag = true ∧
    handling.role = Role.alone ∧
    handling.cur.lane = none := by
  (repeat' apply And.intro) <;> decide +kernel

theorem witness_LaunchesEnterTheGridTable :
    described.role = Role.alone ∧
    Drained described.curW ∧
    described.curW.owes = false ∧ MayRequest described 4 ∧
    (List.filter (fun e => e.2.st == GridSt.waiting && e.2.q == none) described.hub.grids).length < 256 ∧
    scalarCheck (atDrain described) (described.curW.rdPair 14) 128 Acc.load = (atDrain described, Checked.ok (at' 524800)) ∧
    AccessGoes (atDrain described) (described.curW.rdPair 14) (at' 524800) 128 ∧
    readPieces (releaseAct (atDrain described) described.cur.site described.cur.core 4) (described.who described.curRef) (at' 524800)
          4 =
        ((readPieces (releaseAct (atDrain described) 0 0 4) (described.who described.curRef) (at' 524800) 4).1,
          feedDesc, stOk) := by
  (repeat' apply And.intro) <;> first | decide +kernel | (apply may_of; decide +kernel)

theorem witness_CommandsAreHandedOver_feed :
    described.role = Role.alone ∧
    described.curW.canIssue 2 = true ∧
    described.curCore.feeds.length < 16 ∧
    scalarCheck described (described.curW.rdPair 14) 128 Acc.load = (described, Checked.ok (at' 524800)) ∧
    readPieces described (described.who described.curRef) (at' 524800) 4 =
        ((readPieces described (described.who described.curRef) (at' 524800) 4).1,
          feedDesc, stOk) ∧
    MayRequest described 4 ∧ PlainFeed feedDesc ∧ described.curW.owesEnded = false ∧
    AccessGoes described (described.curW.rdPair 14) (at' 524800) 128 := by
  refine ⟨?_, ?_, ?_, ?_, ?_, may_of ?_, ?_, ?_, ?_, ?_⟩
  on_goal 7 => unfold PlainFeed zeroFrom
  all_goals decide +kernel

theorem witness_CommandsAreHandedOver_copy :
    described.role = Role.alone ∧
    described.curW.canIssue 3 = true ∧
    (described.die described.cur.site).copies.length < 64 ∧
    scalarCheck described (indexed described.curW 16 18) 64 Acc.load =
        (described, Checked.ok (at' 525056)) ∧
    readPieces described (described.who described.curRef) (at' 525056) 2 =
        ((readPieces described (described.who described.curRef) (at' 525056) 2).1, copyDesc, stOk) ∧
    MayRequest described 4 ∧ CopyDescriptor copyDesc ∧ described.curW.owesEnded = false ∧
    AccessGoes described (indexed described.curW 16 18) (at' 525056) 64 := by
  refine ⟨?_, ?_, ?_, ?_, ?_, may_of ?_, ?_, ?_, ?_, ?_⟩
  on_goal 7 => unfold CopyDescriptor zeroFrom
  all_goals decide +kernel

/-- `described` after the descriptor of its COPY has been read. -/
def copyRead : State := (readPieces described (described.who described.curRef) (at' 525056) 2).1

theorem witness_CommandsAreHandedOver_resume :
    descField copyDesc 0x18 8 ≠ 0 ∧
    scalarCheck copyRead (BitVec.ofNat 64 (descField copyDesc 0x18 8 + 8)) 8 .load = (copyRead, .ok (at' 0x80408)) ∧
    AccessGoes copyRead (BitVec.ofNat 64 (descField copyDesc 0x18 8 + 8)) (at' 0x80408) 8 ∧
    (∃ s4, doLoad copyRead (copyRead.who copyRead.curRef) (at' 0x80408) 8 0 = (s4, 0, stOk)) ∧ 0 < descField copyDesc 0x10 8 := by
  refine ⟨?_, ?_, ⟨?_, ?_⟩, ⟨_, pair_of ?_⟩, ?_⟩
  all_goals decide +kernel

theorem witness_CommandsAreHandedOver_neighbour :
    described.role = .alone ∧ described.curW.canIssue 3 = true ∧ (described.die described.cur.site).copies.length < 64 ∧
    scalarCheck described (indexed described.curW 16 19) 64 .load = (described, .ok (at' 0x80340)) ∧
    AccessGoes described (indexed described.curW 16 19) (at' 0x80340) 64 ∧
    (∃ s2, readPieces described (described.who described.curRef) (at' 0x80340) 2 = (s2, nbrDesc, stOk) ∧ s2.logical described.cur.site < 64) ∧
    MayRequest described 4 ∧ NbrDescriptor nbrDesc ∧ described.curW.owesEnded = false := by
  refine ⟨?_, ?_, ?_, ?_, ⟨?_, ?_⟩, ⟨_, pair_of ?_, ?_⟩, may_of ?_, ?_, ?_⟩
  on_goal 10 => unfold NbrDescriptor zeroFrom
  all_goals decide +kernel

theorem witness_SpecialRegistersReadAndWrite_sread :
    wellFormed (Instr.sread 62 24) = true ∧
    OutsideGives base (specialValue base (BitVec.toNat (24 : BitVec 14))) base.curCore.clk := by
  (repeat' apply And.intro) <;> first | decide +kernel | exact outside_alone (by decide +kernel)

theorem witness_SpecialRegistersReadAndWrite_swrite :
    handling.role = Role.alone ∧
    wellFormed (Instr.swrite 2 36) = true ∧
    handling.curW.hflag = true := by
  (repeat' apply And.intro) <;> decide +kernel

theorem witness_SpecialRegistersReadAndWrite_refused :
    base.role = Role.alone ∧
    base.cur.lane = none ∧
    base.curW.hflag = false := by
  (repeat' apply And.intro) <;> decide +kernel

theorem witness_TrapsEnterTheHandler_vector :
    stopped.role = Role.alone ∧
    Drained stopped.curW ∧
    stopped.curW.hflag = false ∧
    (stopped.team stopped.curW.team).trapvec ≠ 0 ∧
    stopped.curW.lane.stack.length ≤ 32 := by
  (repeat' apply And.intro) <;> decide +kernel

theorem witness_TrapsEnterTheHandler_fatal :
    base.role = Role.alone ∧
    Drained base.curW ∧
    (base.curW.hflag = true ∨ (base.team base.curW.team).trapvec = 0) := by
  (repeat' apply And.intro) <;> decide +kernel

theorem witness_ReturnsResumeTheStreams :
    handling.curW.hflag = true ∧
    Drained handling.curW ∧
    handling.curW.aside = some { lane := LaneCtx.none, queue := [], running := none, resAt := none } := by
  (repeat' apply And.intro) <;> decide +kernel

/-- `handling` with slot 0's lanes exited; slot 1 is named too, and an entry of the stack is set aside or none is. -/
def comingBack (st : List StackEnt) : State :=
  withW handling fun w => { w with exited := 0x0000000F, tamask := 0x000000F00000000F, tlpc := 0x8000000940000005, aside := some { lane := { LaneCtx.none with stack := st }, queue := [], running := none, resAt := none } }
/-- `handling` with both slots in WAIT at different PCs. -/
def bothStopped : State := withW handling fun w => { w with tamask := 0x000000F00000000F, tlpc := 0x8000000980000005 }

theorem witness_ReturnsResumeTheStreams_gone :
    (∀ st ∈ [[], [({ pc := 7, mask := 0xF00, cnt := 0, age := 0 } : StackEnt)]], (comingBack st).curW.hflag = true ∧ Drained (comingBack st).curW ∧
      SlotGone (comingBack st).curW false ∧ ¬SlotGone (comingBack st).curW true) := by
  unfold Drained SlotGone; decide +kernel

theorem witness_ReturnsResumeTheStreams_both :
    bothStopped.curW.hflag = true ∧ Drained bothStopped.curW ∧ bothStopped.curW.aside.isSome = true ∧
    (resumedSlot bothStopped.curW false).1 = .wait ∧ (resumedSlot bothStopped.curW true).1 = .wait ∧
    (resumedSlot bothStopped.curW false).2.1 < (resumedSlot bothStopped.curW true).2.1 := by
  (repeat' apply And.intro) <;> decide +kernel

theorem witness_ReturnsResumeTheStreams_plain :
    handling.curW.aside.isSome = true ∧ ¬SlotGone handling.curW false ∧ ¬SlotGone handling.curW true ∧
    (resumedSlot handling.curW false).1 ≠ .wait := by
  unfold SlotGone; (repeat' apply And.intro) <;> decide +kernel

theorem witness_ReturnsResumeTheStreams_refused :
    base.curW.hflag = false ∧
    base.role = Role.alone ∧
    base.cur.lane = none := by
  (repeat' apply And.intro) <;> decide +kernel

theorem witness_ExitEndsTheWarp :
    base.role = Role.alone ∧
    Drained base.curW ∧
    base.curW.ops = [] ∧
    report base.curW none true = none := by
  (repeat' apply And.intro) <;> decide +kernel

/-- A record that no operation made. -/
def oneRec : AsyncRec := { tag := 0, path := 1, cause := 5, tinfo := [], taddr := 0, tfmask := 0, extra := 0 }
/-- `base` with a pending record. -/
def recorded : State := withW base fun w => { w with recs := [oneRec] }

theorem witness_CommandsAreHandedOver_length :
    described.role = .alone ∧ described.cur.lane = none ∧ MayRequest described 4 ∧ described.curW.canIssue 3 = true ∧
      scalarCheck described (indexed described.curW 16 20) 64 .load = (described, .ok (at' 0x80380)) ∧
      AccessGoes described (indexed described.curW 16 20) (at' 0x80380) 64 ∧ described.curW.owesEnded = false ∧
      (∃ s2, readPieces described (described.who described.curRef) (at' 0x80380) 2 = (s2, 0, stOk)) ∧ descField 0 0x10 8 = 0 := by
  refine ⟨?_, ?_, may_of ?_, ?_, ?_, ⟨?_, ?_⟩, ?_, ⟨_, pair_of ?_⟩, ?_⟩
  all_goals decide +kernel

theorem witness_ReturnUndoesTheEntry :
    stopped.role = .alone ∧ Drained stopped.curW ∧ stopped.curW.hflag = false ∧ (stopped.team stopped.curW.team).trapvec ≠ 0 ∧
      Restorable stopped.curW.exited stopped.curW.lane.s0 ∧ Restorable stopped.curW.exited stopped.curW.lane.s1 ∧
      stopped.curW.lane.s0.st ≠ .live ∧ stopped.curW.lane.s1.st ≠ .live ∧ stopped.curW.lane.s0.st ≠ .wait ∧
      (∀ e ∈ stopped.curW.lane.stack, e.mask &&& stopped.curW.exited = 0 ∧ e.mask ≠ 0) ∧ ∃ t, exec (.trap 5) stopped = .next t := by
  refine ⟨?_, ⟨?_, ?_⟩, ?_, ?_, ?_, ?_, ?_, ?_, ?_, ?_, _, rfl⟩ <;> first | decide +kernel | (unfold Restorable; decide +kernel)

theorem witness_ExitEndsTheWarp_waits :
    Drained atomicPending.curW ∧ atomicPending.curW.ops ≠ [] ∧ ¬Drained laneBase.curW :=
  ⟨⟨by decide +kernel, by decide +kernel⟩, by decide +kernel, fun h => absurd h.2 (by decide +kernel)⟩

theorem witness_ExitEndsTheWarp_reports :
    recorded.role = .alone ∧ Drained recorded.curW ∧ recorded.curW.ops = [] ∧ (report (atDrain recorded).curW none true).isSome = true := by
  (repeat' apply And.intro) <;> decide +kernel


/-- `laneBase` with the data of `loaded` and lanes 0 and 1 on its path; s2 (0x80008), s4 (0x80009), s6 (2^55) and s8 (7) are
captured. -/
def laneLoaded : State :=
  { (withW laneBase fun w => { w with
      lane := { w.lane with s0 := { w.lane.s0 with mask := 3 } }
      running := some { resume := false, pc := 0, caps := [(2, 0x80008), (4, 0x80009), (7, 0x800000), (8, 7)], enq := 0 } }) with
    mem := writeBytes laneBase.mem 0x80008 8 0x1122334455667788 }
/-- `laneLoaded` with a data section. -/
def laneData : State := withKd (withKd laneLoaded 0x20 0x80000) 0x30 16
/-- A lane memory instruction on v4, the pair in s2 or at `a`, and v8. -/
def lm (a : BitVec 13) (m : BitVec 22) : LM := { d := 16, a := a, b := 32, off := 0, m := m }
/-- The field of a captured scalar register, and of a pair of them. -/
def sreg (n : Nat) : BitVec 13 := BitVec.ofNat 13 (4 * (1600 + n))
def spair (n : Nat) : BitVec 13 := BitVec.ofNat 13 (4 * (1600 + n) + 1)
theorem acquired_of {s : State} {h : Hdr} (g : s.curW.ops = []) : PathAcquired s h := by
  unfold PathAcquired; rw [g]; intro o m; cases m
theorem laneFree_of {s : State} {h : Hdr} {f : LM} {path : Nat} {atomic : Bool} (g : s.curW.ops = [])
    (k : decide (s.role = .alone ∧ s.curW.canIssue path = true ∧ seqRoom s s.cur.site s.cur.core atomic 32 = true ∧
      (2 ≤ lmOrder f → s.curW.owesLanes (s.laneEnv h).act = false)) = true) : LaneFree s h f path atomic :=
  have k := of_decide_eq_true k
  ⟨k.1, k.2.1, k.2.2.1, acquired_of g, k.2.2.2⟩
/-- The lanes of `laneLoaded` with the places of their accesses. -/
def placed : List (LaneAddr × Tr) := [({ lane := 0, va := 0x80008 }, dataTr), ({ lane := 1, va := 0x80008 }, dataTr)]

theorem witness_LaneAccessesAreInFlight_load :
    let f : LM := { d := 16, a := spair 2, b := 0, off := 0, m := 2 }
    wellFormed (.ld always f) = true ∧ LaneFree laneLoaded always f 0 false ∧ Pinned laneLoaded [f.d, f.a] ∧
      laneChecks laneLoaded always (lmAddress laneLoaded always f) (lmBytes f) .load = (laneLoaded, .ok placed) ∧
      LanesGo laneLoaded laneLoaded.curW placed true (ownResults placed (lmBytes f) fun _ => 0) := by
  refine ⟨?_, laneFree_of ?_ ?_, pinned_of ?_ ?_, ?_, ⟨?_, ?_⟩⟩ <;> decide +kernel

theorem witness_LaneAccessesAreInFlight_constant :
    let f : LM := { d := 16, a := sreg 20, b := 0, off := 8, m := 2 }
    let va : Nat → DWord := fun l => BitVec.ofInt 64 ((laneData.team laneData.curW.team).dataVa + ldcOffset laneData always f l)
    wellFormed (.ldc always f) = true ∧ LaneFree laneData always f 0 false ∧ Pinned laneData [f.d, f.a] ∧
      (laneData.team laneData.curW.team).dataVa ≠ 0 ∧
      (∀ l ∈ lanesOf (laneData.laneEnv always).act, ldcOffset laneData always f l % lmBytes f = 0 ∧ 0 ≤ ldcOffset laneData always f l ∧
        ldcOffset laneData always f l + lmBytes f ≤ (laneData.team laneData.curW.team).dlen) ∧
      laneChecks laneData always va (lmBytes f) .load = (laneData, .ok placed) ∧
      LanesGo laneData laneData.curW placed true (ownResults placed (lmBytes f) fun _ => 0) := by
  refine ⟨?_, laneFree_of ?_ ?_, pinned_of ?_ ?_, ?_, ?_, ?_, ⟨?_, ?_⟩⟩ <;> decide +kernel

theorem witness_LaneAccessesAreInFlight_store :
    let f : LM := { d := 0, a := spair 2, b := sreg 8, off := 0, m := 2 }
    let data (l : Nat) : Nat := srcVal laneLoaded (laneLoaded.laneEnv always) f.b l % 2 ^ (8 * lmBytes f)
    wellFormed (.st always f) = true ∧ wellFormed (.red always f) = true ∧ LaneFree laneLoaded always f 1 false ∧
      LaneFree laneLoaded always f 1 true ∧ Pinned laneLoaded [f.a, f.b] ∧
      mirrored laneLoaded (laneLoaded.laneEnv always) (fun l => (lmAddress laneLoaded always f l).toNat) data = true ∧
      laneChecks laneLoaded always (lmAddress laneLoaded always f) (lmBytes f) .store = (laneLoaded, .ok placed) ∧
      laneChecks laneLoaded always (lmAddress laneLoaded always f) (lmBytes f) .atomic = (laneLoaded, .ok placed) ∧
      LanesGo laneLoaded laneLoaded.curW placed true (ownResults placed (lmBytes f) data) ∧
      ∀ x ∈ placed, x.2.kind = .localMem := by
  refine ⟨?_, ?_, laneFree_of ?_ ?_, laneFree_of ?_ ?_, pinned_of ?_ ?_, ?_, ?_, ?_, ⟨?_, ?_⟩, ?_⟩ <;> decide +kernel

theorem witness_LaneAccessesAreInFlight_atomic :
    let f : LM := { d := 16, a := spair 2, b := sreg 8, off := 0, m := 2 }
    let data (l : Nat) : Nat := srcVal laneLoaded (laneLoaded.laneEnv always) f.b l % 2 ^ (8 * lmBytes f)
    wellFormed (.atom always f) = true ∧ LaneFree laneLoaded always f 0 true ∧ Pinned laneLoaded [f.d, f.a, f.b] ∧
      mirrored laneLoaded (laneLoaded.laneEnv always) (fun l => (lmAddress laneLoaded always f l).toNat) data = true ∧
      laneChecks laneLoaded always (lmAddress laneLoaded always f) (lmBytes f) .atomic = (laneLoaded, .ok placed) ∧
      LanesGo laneLoaded laneLoaded.curW placed true (ownResults placed (lmBytes f) data) ∧
      ∀ x ∈ placed, x.2.kind = .localMem := by
  refine ⟨?_, laneFree_of ?_ ?_, pinned_of ?_ ?_, ?_, ?_, ⟨?_, ?_⟩, ?_⟩ <;> decide +kernel

theorem witness_LaneAccessesAreInFlight_cas :
    let f : LM := { d := 16, a := spair 2, b := spair 8, off := 0, m := 2 }
    let data (l : Nat) : Nat := srcVal laneLoaded (laneLoaded.laneEnv always) f.b l % 2 ^ (8 * (2 * lmBytes f))
    wellFormed (.cas always f) = true ∧ LaneFree laneLoaded always f 0 true ∧ Pinned laneLoaded [f.d, f.a, f.b] ∧
      mirrored laneLoaded (laneLoaded.laneEnv always) (fun l => (lmAddress laneLoaded always f l).toNat) data = true ∧
      laneChecks laneLoaded always (lmAddress laneLoaded always f) (lmBytes f) .atomic = (laneLoaded, .ok placed) ∧
      LanesGo laneLoaded laneLoaded.curW placed true (ownResults placed (lmBytes f) data) := by
  refine ⟨?_, laneFree_of ?_ ?_, pinned_of ?_ ?_, ?_, ?_, ⟨?_, ?_⟩⟩ <;> decide +kernel

theorem witness_CacheInstructionsKeepMemory :
    let f : LM := { d := 0, a := spair 2, b := 0, off := 0, m := 0 }
    wellFormed (.wbl always f) = true ∧ wellFormed (.prf always f) = true ∧ LaneFree laneLoaded always f 1 false ∧ MayRequest laneLoaded 32 ∧
      PathAcquired laneLoaded always ∧ Pinned laneLoaded [f.a] ∧
      laneChecks laneLoaded always (lmAddress laneLoaded always f) 1 .load = (laneLoaded, .ok placed) ∧
      LanesGo laneLoaded laneLoaded.curW placed false [] := by
  refine ⟨?_, ?_, laneFree_of ?_ ?_, may_of ?_, acquired_of ?_, pinned_of ?_ ?_, ?_, ⟨?_, ?_⟩⟩ <;> decide +kernel

theorem witness_LaneAddressesAreChecked_high :
    let f : LM := { d := 16, a := spair 6, b := 0, off := 0, m := 2 }
    laneLoaded.cur.lane = some false ∧ LaneFree laneLoaded always f 0 false ∧ LaneFree laneLoaded always f 1 false ∧
      (laneLoaded.gridOf laneLoaded.curW).mirror = false ∧ wellFormed (.ld always f) = true ∧ Pinned laneLoaded [f.d, f.a, f.b] ∧
      (laneLoaded.laneEnv always).act.getLsbD 0 = true ∧ 2 ^ 55 ≤ (lmAddress laneLoaded always f 0).toNat := by
  refine ⟨?_, laneFree_of ?_ ?_, laneFree_of ?_ ?_, ?_, ?_, pinned_of ?_ ?_, ?_, ?_⟩ <;> decide +kernel

theorem witness_LaneAddressesAreChecked_misaligned :
    let f : LM := { d := 16, a := spair 4, b := sreg 8, off := 0, m := 2 }
    LaneFree laneLoaded always f 0 true ∧ LaneFree laneLoaded always f 1 true ∧ wellFormed (.atom always f) = true ∧
      Pinned laneLoaded [f.d, f.a, f.b] ∧
      (∀ l < 32, (laneLoaded.laneEnv always).act.getLsbD l = true → decide (2 ^ 55 ≤ (lmAddress laneLoaded always f l).toNat) = false) ∧
      (lmAddress laneLoaded always f 0).toNat % lmBytes f ≠ 0 := by
  refine ⟨laneFree_of ?_ ?_, laneFree_of ?_ ?_, ?_, pinned_of ?_ ?_, ?_, ?_⟩ <;> decide +kernel

/-- `laneBase` with lanes 0 to 3 in predicate p1. -/
def split : State := withW laneBase fun w => { w with p := [(1, 0xF)] }
/-- `split` with a path in slot 1 and `n` entries on its divergence stack. -/
def deep (n : Nat) : State :=
  withW split fun w => { w with
    lane := { w.lane with
      s1 := { st := .held, pc := 4, mask := 0, cnt := 0, age := 1 }
      stack := List.replicate n { pc := 1, mask := 0, cnt := 0, age := 0 } } }
/-- Control bits under a predicate. -/
def under (p : BitVec 4) : Hdr := { s := false, pred := p }

theorem act_under {s : State} {p : BitVec 4} (h1 : p.extractLsb' 0 3 ≠ 7) (h2 : p.getLsbD 3 = false)
    (h : lateMask s.curW true (p.extractLsb' 0 3).toNat = 0) :
    (s.laneEnv (under p)).act = (lanePathOf s (under p)).mask &&& FMap.get 0 s.curW.p (p.extractLsb' 0 3).toNat := by
  show activeMask s s.curW (lanePathOf s (under p)) (under p) = _
  unfold activeMask predMask
  rw [show (under p).pred = p from rfl, if_neg h1, h2, h]
  simp only [Bool.false_eq_true, if_false]
  exact congrArg _ (by rw [show (0 : Word) = 0#32 from rfl, BitVec.and_zero, BitVec.or_zero, BitVec.not_zero, BitVec.and_allOnes])

theorem act_split {s : State} (h : lateMask s.curW true 1 = 0) (h2 : (lanePathOf s (under 1)).mask = BitVec.allOnes 32)
    (h3 : FMap.get 0 s.curW.p 1 = 0xF) : (s.laneEnv (under 1)).act = 0xF := by
  rw [act_under (by decide) (by decide) h, h2, show ((1 : BitVec 4).extractLsb' 0 3).toNat = 1 from rfl, h3]; decide

theorem act_deep (n : Nat) (h : n = 31 ∨ n = 32) : ((deep n).laneEnv (under 1)).act = 0xF := by
  rcases h with rfl | rfl <;> (apply act_split <;> decide +kernel)

theorem witness_LaneBranchesSplitPaths_none : (split.gridOf split.curW).mirror = false ∧ (split.laneEnv (under 0)).act = 0 :=
  ⟨by decide +kernel, by rw [act_under (by decide) (by decide) (by decide +kernel)]; decide +kernel⟩

theorem witness_LaneBranchesSplitPaths_all :
    (split.laneEnv always).act ≠ 0 ∧ (split.laneEnv always).act = (lanePathOf split always).mask := by
  (repeat' apply And.intro) <;> decide +kernel

theorem witness_LaneBranchesSplitPaths_split :
    ((deep 31).laneEnv (under 1)).act ≠ 0 ∧ ((deep 31).laneEnv (under 1)).act ≠ (lanePathOf (deep 31) (under 1)).mask ∧
      (deep 31).curW.lane.stack.length < 32 := by
  rw [act_deep 31 (.inl rfl)]; (repeat' apply And.intro) <;> decide +kernel

theorem witness_LaneBranchesSplitPaths_full :
    ((deep 32).laneEnv (under 1)).act ≠ 0 ∧ ((deep 32).laneEnv (under 1)).act ≠ (lanePathOf (deep 32) (under 1)).mask ∧
      (otherSlot (deep 32) (under 1)).st ≠ .empty ∧ 32 ≤ (deep 32).curW.lane.stack.length ∧ (deep 32).role = .alone ∧
      (deep 32).cur.lane = some false := by
  rw [act_deep 32 (.inr rfl)]
  (repeat' apply And.intro) <;> decide +kernel

/-- `laneBase` with another path in slot 1 and a divergence stack. -/
def joining (o : Path) (st : List StackEnt) : State := withW laneBase fun w => { w with lane := { w.lane with s1 := o, stack := st } }
/-- A path that waits at lane PC 0. -/
def waiting : Path := { st := .wait, pc := 0, mask := 0xC, cnt := 9, age := 5 }
/-- A path on the divergence stack. -/
def stacked : StackEnt := { pc := 7, mask := 0x30, cnt := 2, age := 8 }

theorem witness_JoinsWaitForTheirPaths_merge :
    CheckAgrees (joining waiting []) true (laneSig (joining waiting []).curW.lane).toNat ∧
      (lanePathOf (joining waiting []) always).st = .live ∧ (otherSlot (joining waiting []) always).st = .wait ∧
      (otherSlot (joining waiting []) always).pc = (lanePathOf (joining waiting []) always).pc ∧ (joining waiting []).curW.lane.stack = [] := by
  (repeat' apply And.intro) <;> first | decide +kernel | exact agrees_alone (by decide +kernel)

theorem witness_JoinsWaitForTheirPaths_pop :
    (lanePathOf (joining waiting [stacked]) always).st = .live ∧ (otherSlot (joining waiting [stacked]) always).st = .wait ∧
      (otherSlot (joining waiting [stacked]) always).pc = (lanePathOf (joining waiting [stacked]) always).pc ∧
      (joining waiting [stacked]).curW.lane.stack = [stacked] ∧
      (otherSlot (joining { waiting with pc := 5 } []) always).st = .wait ∧
      (otherSlot (joining { waiting with pc := 5 } []) always).pc ≠ (lanePathOf (joining { waiting with pc := 5 } []) always).pc := by
  (repeat' apply And.intro) <;> decide +kernel

theorem witness_JoinsWaitForTheirPaths_waits :
    (lanePathOf (joining { waiting with st := .held } []) always).st = .live ∧
      (otherSlot (joining { waiting with st := .held } []) always).st = .held := by
  (repeat' apply And.intro) <;> decide +kernel

theorem witness_JoinsWaitForTheirPaths_stack :
    (lanePathOf (joining Path.none [stacked]) always).st = .live ∧ (otherSlot (joining Path.none [stacked]) always).st = .empty ∧
      (joining Path.none [stacked]).curW.lane.stack = [stacked] := by
  (repeat' apply And.intro) <;> decide +kernel

theorem witness_JoinsWaitForTheirPaths_alone :
    (lanePathOf laneBase always).st = .live ∧ (otherSlot laneBase always).st = .empty ∧ laneBase.curW.lane.stack = [] := by
  (repeat' apply And.intro) <;> decide +kernel

theorem witness_LaneCallsReturn_call :
    wellFormed (.lcall always { a := 16, off := 0xFFFFFE, m := 0 }) = true ∧ Pinned laneBase [16] := by
  (repeat' apply And.intro) <;> decide +kernel

theorem witness_LaneCallsReturn_returns :
    Pinned laneLoaded [sreg 8] ∧ (laneLoaded.laneEnv always).act.getLsbD 0 = true ∧
      ∀ l < 32, (laneLoaded.laneEnv always).act.getLsbD l = true →
        srcVal laneLoaded (laneLoaded.laneEnv always) (sreg 8) l = srcVal laneLoaded (laneLoaded.laneEnv always) (sreg 8) 0 := by
  (repeat' apply And.intro) <;> decide +kernel

/-- The lane id as a source: it differs from lane to lane (R388). -/
def laneId : BitVec 13 := BitVec.ofNat 13 (4 * 1553)

theorem witness_LaneCallsReturn_differs :
    laneLoaded.role = .alone ∧ Pinned laneLoaded [laneId] ∧ (laneLoaded.laneEnv always).act.getLsbD 0 = true ∧
      (laneLoaded.laneEnv always).act.getLsbD 1 = true ∧
      srcVal laneLoaded (laneLoaded.laneEnv always) laneId 1 ≠ srcVal laneLoaded (laneLoaded.laneEnv always) laneId 0 := by
  (repeat' apply And.intro) <;> decide +kernel

theorem witness_LanesExit :
    (lanePathOf split (under 1)).mask &&& ~~~(split.laneEnv (under 1)).act ≠ 0 ∧
      (lanePathOf laneBase always).mask &&& ~~~(laneBase.laneEnv always).act = 0 ∧ laneBase.curW.lane.stack = [] ∧
      (otherSlot laneBase always).st ≠ .wait := by
  have h : (split.laneEnv (under 1)).act = 0xF := by apply act_split <;> decide +kernel
  rw [h]
  (repeat' apply And.intro) <;> decide +kernel


/-- `laneBase` with format blocks captured in s0 (FP16) and s4 (Q4 weights), the address of row counts in s8, 128 rows in q0 and
q1 for both warps of a pair, and a row count of 3. -/
def matrix : State :=
  { (withC (withW laneBase fun w => { w with
        running := some { resume := false, pc := 0, caps := [(0, 0x22), (4, 0x3A), (8, 0x100410), (10, 0x80020)], enq := 0 } }) fun c =>
      { c with queues := [(0, { OpQueue.none with left := 128, left2 := 128 }), (1, { OpQueue.none with left := 128, left2 := 128 })] }) with
    mem := writeBytes laneBase.mem (winAddr 0 0 + 0x100410) 2 3 }
/-- Operands of a matrix instruction: tile 0, queues 0 and 1, the format block at `k`, the register field `x`. -/
def lx (k : BitVec 6) (x : BitVec 13) (m : BitVec 46) : LX := { zd := 0, qa := 0, qb := 1, fbq := k, shape := 0, x := x, m := m }
/-- `laneBase` with queues that hold no row. -/
def noRows : State := withC matrix fun c => { c with queues := [] }
/-- An instruction at the matrix unit. -/
def atUnit (i : Instr) : MatOp :=
  { w := { site := 0, core := 0, slot := 0 }, one := false, sec := false, alive := true, ins := i, act := 3, fb := 0, counts := [], heads := 0,
    pos := 0, addr := 0, data := 5, mem := none, gate := none }
/-- `matrix` whose unit has accepted one instruction. -/
def accepted (m : MatOp) : State := withC matrix fun c => { c with matQ := [m] }
/-- An MMA and an MMAG of FP16 at the unit. -/
def mmaOp : MatOp := { atUnit (.mma always (lx 0 0 0)) with fb := 0x22 }
def mmagOp : MatOp := { atUnit (.mmag always (lx 0 (spair 8) 0)) with fb := 0x22, counts := [3] }
/-- The operation of a get of ACCMV, and that of an ACCST of two words. -/
def getting : AsyncOp := { load with op := 6, isLane := true }
def storingTile : AsyncOp :=
  { load with op := 6, path := 1, isLane := true, res := [laneResult 0 0x80008 dataTr 4 0, laneResult 0 0x8000C { dataTr with pa := 0x8000C } 4 0] }
/-- `matrix` with an MMA at pipe 0 that a granted start at clk 200 holds. -/
def gatedMma : State :=
  withC matrix fun c => { c with matWait0 := some { mmaOp with gate := some 200 }, phase := some { tg := 200, te := 1000, cls := 3 } }
/-- `matrix` with a path LOAD that is full. -/
def loadsFull : State := withW matrix fun w => { w with cnt := [(0, 255)] }
/-- `matrix` with an ACCZ at pipe 0, and a declaration whose start is granted. -/
def presented : State :=
  withC matrix fun c => { c with matWait0 := some (atUnit (.accz always (lx 0 0 3))), phase := some { tg := 0, te := 1000, cls := 3 } }

/-- A frame of 128 by 128 pixels with the tile memory at 0 of a team's allocation, every tile owned by core 0 of site 0. -/
def frame2 : Frame := { Frame.none with desc := BitVec.ofNat 2048 (128 * 2 ^ 16 + 128 * 2 ^ 32 + 4 * 2 ^ 48), own := [0, 0, 0, 0] }
/-- `laneBase` in a frame that is OPEN in slot 1. -/
def drawing : State :=
  ((withW laneBase fun w => { w with
      running := some { resume := false, pc := 0, caps := [(0, 0x20001), (1, 3), (2, 0x80020), (3, 0), (4, 1)], enq := 0 } }).setFrame 1 frame2).setReg (frstatA 1) 1 |> fun s => { s with mem := writeBytes s.mem 0x80030 1 3 }
/-- A triangle handed to a team, with a batch to come. -/
def handed : Handed := { ord := 0, prim := { frame := 1, key := 0, payload := 0 }, todo := [(5, 0xF)], blocks := [5] }
/-- A claim of tile 0 by team 0, whose triangle is handed out. -/
def claim : Claim :=
  { frame := 1, fr := frame2, ended := false, tile := 0, team := 0, final := true, nextOrd := 1, handed := [handed], flushing := false }
/-- `drawing` with a claimed tile and a current batch. -/
def tiled : State :=
  withC (withW drawing fun w => { w with prim := some 0, batch := some { blk := 5, cov := 0xF, opened := false } }) fun c =>
    { c with claims := [claim] }
/-- The same before a batch is current. -/
def asking : State := withW tiled fun w => { w with batch := none }
/-- The same with a primitive in the tile's bin, and before the warp has one. -/
def offered : State := (withW asking fun w => { w with prim := none }).setGate 0 1 { Gate.reset with bins := [(0, [{ frame := 1, key := 3, payload := 0 }])] }

/-- The format block of `k` that a matrix instruction accepts. -/
theorem allowed_fp16 : FormatAllowed (capturedQuad matrix.curW 0) false := by
  rw [show capturedQuad matrix.curW 0 = 0x22 by decide +kernel]; unfold FormatAllowed; decide +kernel
theorem allowed_q4 : FormatAllowed (capturedQuad matrix.curW 4) true := by
  rw [show capturedQuad matrix.curW 4 = 0x3A by decide +kernel]; unfold FormatAllowed; decide +kernel

theorem witness_MatrixInstructionsReachTheUnit_taken :
    FormatAllowed (capturedQuad matrix.curW (lx 0 0 0).fbq.toNat) false ∧
      (lx 0 0 0).zd.toNat % (4 * tilesPer 0 (capturedQuad matrix.curW 0)) = 0 ∧
      (lx 0 0 0).zd.toNat + 4 * tilesPer 0 (capturedQuad matrix.curW 0) ≤ tileLimit matrix ∧ (lx 0 0 0).qa ≠ (lx 0 0 0).qb ∧
      (shapeOf 0).1 * fbSegs (capturedQuad matrix.curW 0) ≤ 128 ∧ (matrix.laneEnv always).act ≠ 0 ∧
      unitTakes matrix (matrixOp matrix always (.mma always (lx 0 0 0)) (capturedQuad matrix.curW 0) []) := by
  refine ⟨allowed_fp16, ?_⟩
  (repeat' apply And.intro) <;> decide +kernel

theorem witness_MatrixInstructionsReachTheUnit_weights :
    FormatAllowed (capturedQuad matrix.curW (lx 4 0 0).fbq.toNat) true ∧
      unitTakes matrix (matrixOp matrix always (.mmaw always (lx 4 0 0)) (capturedQuad matrix.curW 4) []) :=
  ⟨allowed_q4, ⟨by decide +kernel, by decide +kernel⟩⟩

theorem witness_MatrixInstructionsReachTheUnit_waits :
    ¬ unitTakes noRows (matrixOp noRows always (.mma always (lx 0 0 0)) (capturedQuad noRows.curW 0) []) :=
  fun h => absurd h.1 (by decide +kernel)

theorem witness_MatrixInstructionsReachTheUnit_groups :
    let f := lx 0 (spair 8) 0
    let off := (BitVec.ofNat 64 (srcVal matrix (matrix.laneEnv always) f.x 0) - matrix.scrBase (matrix.team matrix.curW.team)).toNat
    let counts := (List.range 1).map fun g => readBytes matrix.mem (winAddr 0 0 + 0x100000 + 1024 * 1 + off + 2 * g) 2
    FormatAllowed (capturedQuad matrix.curW f.fbq.toNat) false ∧ (matrix.laneEnv always).act.getLsbD 0 = true ∧
      srcVal matrix (matrix.laneEnv always) f.x 0 % 2 = 0 ∧ off + 2 ≤ 1024 ∧ counts = [3] ∧
      unitTakes matrix (matrixOp matrix always (.mmag always f) (capturedQuad matrix.curW 0) counts) := by
  refine ⟨allowed_fp16, ?_⟩
  (repeat' apply And.intro) <;> decide +kernel

theorem act_none : (matrix.laneEnv (under 0)).act = 0 := by
  rw [act_under (by decide) (by decide) (by decide +kernel)]; decide +kernel

theorem witness_MatrixInstructionsReachTheUnit_nothing :
    FormatAllowed (capturedQuad matrix.curW (lx 0 0 0).fbq.toNat) false ∧ (matrix.laneEnv (under 0)).act = 0 ∧
      (lx 0 0 0).zd.toNat % tilesPer 0 (capturedQuad matrix.curW 0) = 0 ∧
      (lx 0 0 0).zd.toNat + 64 * tilesPer 0 (capturedQuad matrix.curW 0) ≤ tileLimit matrix ∧ Pinned matrix [35] :=
  ⟨allowed_fp16, act_none, by decide +kernel, by decide +kernel, pinned_of (by decide +kernel) (by decide +kernel)⟩

theorem witness_MatrixInstructionsReachTheUnit_full :
    (lx 0 35 0).zd.toNat + 1 ≤ tileLimit loadsFull ∧ (loadsFull.laneEnv always).act ≠ 0 ∧ (lx 0 35 0).m.getLsbD 0 = false ∧
      255 ≤ loadsFull.curW.count 0 := by
  (repeat' apply And.intro) <;> decide +kernel

theorem witness_MatrixInstructionsReachTheUnit_zero :
    (lx 0 0 255).zd.toNat + ((lx 0 0 255).m.extractLsb' 0 8).toNat + 1 ≤ tileLimit matrix ∧
      unitTakes matrix (matrixOp matrix always (.accz always (lx 0 0 255)) 0 []) := by
  (repeat' apply And.intro) <;> decide +kernel

theorem takes_data {s : State} {m : MatOp} (h : unitTakes s m) (data : BitVec 8192) : unitTakes s { m with data := data } :=
  ⟨(show matReady s s.cur.site s.cur.core { m with data := data } = matReady s s.cur.site s.cur.core m by cases m; rfl).trans h.1, h.2⟩

theorem witness_MatrixInstructionsReachTheUnit_move :
    (lx 0 35 1).zd.toNat + 1 ≤ tileLimit matrix ∧ (matrix.laneEnv always).act ≠ 0 ∧ Pinned matrix [35] ∧ matrix.curW.count 0 < 255 ∧
      unitTakes matrix (matrixOp matrix always (.accmv always (lx 0 35 0)) 0 []) ∧
      ∀ data, unitTakes matrix { matrixOp matrix always (.accmv always (lx 0 35 1)) 0 [] with data := data } := by
  refine ⟨?_, ?_, ?_, ?_, ⟨?_, ?_⟩, takes_data ⟨?_, ?_⟩⟩
  on_goal 3 => apply pinned_of
  all_goals decide +kernel

/-- Whether checks let an instruction go on. -/
def LaneCheck.isOk (c : LaneCheck) : Bool := match c with | .ok _ => true | _ => false
theorem behind_none {w : Warp} (h : w.ops = []) (lane : Bool) (l : List LaneRes) : w.behindOwn lane l = false := by
  unfold Warp.behindOwn; rw [h]; rfl
theorem near_of {s : State} {site core : Nat} (h : s.hub.peerHold = []) (t : Tr) : peerHeld s site core t = false := by
  unfold peerHeld; rw [h]; simp
theorem ok_of {c : LaneCheck} (h : LaneCheck.isOk c = true) : ∃ l, c = .ok l := by cases c with | ok l => exact ⟨l, rfl⟩ | _ => cases h

theorem witness_TilesMoveThroughMemory :
    let f : LX := { lx 0 (spair 10) 0 with qb := 0 }
    let addr := BitVec.ofNat 64 (srcVal matrix (matrix.laneEnv always) f.x 0) + (f.m.extractLsb' 19 20).signExtend 64
    let words := (List.range 256).map fun w => ({ lane := 0, va := addr + BitVec.ofNat 64 (w / 16 * 64 + w % 16 * 4) } : LaneAddr)
    let c := checkEach matrix matrix.curRef (matrix.gridOf matrix.curW).root (matrix.gridOf matrix.curW).sec 4 .store words
    matrix.role = .alone ∧ f.zd.toNat + 1 ≤ tileLimit matrix ∧ matrix.curW.canIssue 1 = true ∧
      (matrix.laneEnv always).act.getLsbD 0 = true ∧ (∃ ts, verdict c.2 = .ok ts) ∧ c.1 = matrix ∧
      unitTakes matrix { matrixOp matrix always (.accst always f) 0 [] with addr := addr } ∧
      wellFormed (.accst always f) = true ∧ wellFormed (.accld always f) = true ∧ MayRequest matrix 256 ∧
      matrix.curW.canIssue 0 = true ∧ (∀ t, peerHeld matrix 0 0 t = false) ∧ (∀ l, matrix.curW.behindOwn true l = false) ∧
      unitTakes matrix { matrixOp matrix always (.accld always f) 0 [] with addr := addr } := by
  (repeat' apply And.intro) <;> first | decide +kernel | (apply ok_of; decide +kernel) | (apply may_of; decide +kernel) |
    exact near_of (by decide +kernel) | exact behind_none (by decide +kernel) true

theorem next_mma : NextStep mmaOp { qa := 0, na := 16, qb := 1, nb := 16, popB := true, z := 0, m := 16, n := 16 } :=
  .inl ⟨always, lx 0 0 0, 0, .inl rfl, by decide +kernel, by decide +kernel⟩
theorem next_mmag : NextStep mmagOp { qa := 0, na := 3, qb := 1, nb := 16, popB := true, z := 0, m := 3, n := 16 } :=
  .inr ⟨always, lx 0 (spair 8) 0, 3, rfl, by decide +kernel, by decide +kernel⟩

theorem witness_MatrixUnitTakesEffect_steps :
    ((accepted mmaOp).core 0 0).matQ = [mmaOp] ∧ ((accepted mmagOp).core 0 0).matQ = [mmagOp] ∧
      ((accepted mmaOp).core 0 0).busyTo ≤ ((accepted mmaOp).core 0 0).clk ∧ 0 < coreRate (accepted mmaOp) 0 0 ∧
      16 ≤ rowsLeft ((accepted mmaOp).core 0 0) mmaOp.heads 0 ∧ 16 ≤ rowsLeft ((accepted mmaOp).core 0 0) mmaOp.heads 1 ∧
      0 < coreRate (accepted mmagOp) 0 0 ∧ 3 ≤ rowsLeft ((accepted mmagOp).core 0 0) mmagOp.heads 0 ∧
      16 ≤ rowsLeft ((accepted mmagOp).core 0 0) mmagOp.heads 1 := by
  (repeat' apply And.intro) <;> decide +kernel

theorem witness_MatrixUnitTakesEffect_ends :
    let m := { mmaOp with pos := 4 }
    let busy := withC (accepted mmaOp) fun c => { c with busyTo := 9 }
    ((accepted m).core 0 0).matQ = [m] ∧ m.items ≠ [] ∧ m.items.length ≤ m.pos ∧ m.bad = [] ∧
      ((accepted m).core 0 0).busyTo ≤ ((accepted m).core 0 0).clk ∧ (busy.core 0 0).clk < (busy.core 0 0).busyTo := by
  (repeat' apply And.intro) <;> decide +kernel

theorem witness_MatrixUnitTakesEffect_moves :
    let z := atUnit (.accz always (lx 0 0 255))
    let p := atUnit (.accmv always (lx 0 35 1))
    let l := { atUnit (.accld always (lx 0 35 0)) with mem := some getting }
    let g := { atUnit (.accmv always (lx 0 35 0)) with mem := some getting }
    (∀ m ∈ [z, p, l, g], ((accepted m).core 0 0).matQ = [m] ∧ m.bad = [] ∧ m.alive = true ∧
      ((accepted m).core 0 0).busyTo ≤ ((accepted m).core 0 0).clk) ∧
      (lx 0 35 1).m.getLsbD 0 = true ∧ (∀ x ∈ getting.res, x.status ≠ stPoison) ∧ (lx 0 35 0).m.getLsbD 0 = false := by
  (repeat' apply And.intro) <;> decide +kernel

theorem witness_MatrixUnitTakesEffect_stores :
    let m := { atUnit (.accst always (lx 0 35 0)) with mem := some storingTile }
    ((accepted m).core 0 0).matQ = [m] ∧ m.bad = [] ∧ ((accepted m).core 0 0).busyTo ≤ ((accepted m).core 0 0).clk ∧ storingTile.held = false ∧
      storingTile.res.length ≤ 256 ∧ (∀ x ∈ storingTile.res, x.tr.kind = .localMem) ∧
      ((performLanes (accepted m) { site := 0, core := 0, slot := 0, sec := false, own := true } { storingTile with op := 1 }
        (storingTile.res.mapIdx fun k x => { x with val := (tileAt ((accepted m).core 0 0) 0 k).setWidth 256 })).1.core 0 0).matQ = [m] := by
  (repeat' apply And.intro) <;> decide +kernel

theorem witness_MatrixUnitTakesEffect_accepts :
    let m := atUnit (.accz always (lx 0 0 3))
    (presented.core 0 0).matWait 0 false = some m ∧ (presented.core 0 0).matWait 0 true = none ∧ isMatrix m.ins = true ∧
      matMay presented 0 0 m = true ∧ matWins presented 0 0 0 = true ∧ (∃ u, exec m.ins (actMat presented m) = .next u ∧
        decide (∀ x, (u.core 0 0).matWait 1 x = none) = true) ∧
      (presented.core 0 0).phase = some { tg := 0, te := 1000, cls := 3 } ∧ 0 ≤ (presented.core 0 0).clk := by
  refine ⟨?_, ?_, ?_, ?_, ?_, next_of (p := fun u => decide (∀ x, (u.core 0 0).matWait 1 x = none)) ?_, ?_, ?_⟩ <;> decide +kernel

theorem witness_MatrixUnitTakesEffect_gate :
    (gatedMma.core 0 0).matWait 0 false = some { mmaOp with gate := some 200 } ∧ (gatedMma.core 0 0).matWait 0 true = none ∧
      MatOp.items { mmaOp with gate := some 200 } ≠ [] ∧ (gatedMma.core 0 0).clk < 200 ∧
      (gatedMma.core 0 0).phase = some { tg := 200, te := 1000, cls := 3 } := by
  (repeat' apply And.intro) <;> decide +kernel

theorem bit_small {l : Nat} {m : Word} (h : m.getLsbD l = true) : l < 32 :=
  Nat.lt_of_not_le fun g => by simp [BitVec.getLsbD_of_ge m l g] at h
theorem uniform_of {s : State} {h : Hdr} {f : BitVec 13} {v : Nat} (c : (List.range 32).all (fun l => srcVal s (s.laneEnv h) f l == v) = true) :
    Uniform s h f v := fun l hl => by
  simpa using List.all_eq_true.mp c l (List.mem_range.mpr (bit_small hl))

theorem witness_PrimitivesReachTheirTiles_out :
    Renders drawing [16, 32, sreg 0] ∧ drawing.curW.canIssue 1 = true ∧ (drawing.laneEnv always).act.getLsbD 0 = true ∧
      Uniform drawing always (sreg 0) 0x20001 ∧ (drawing.team drawing.curW.team).bound = none ∧ drawing.frameSt 1 = 1 ∧
      drawing.regF (frstatA 1) 4 4 = 0 := by
  (repeat' apply And.intro) <;>
    first | decide +kernel | (apply uniform_of; decide +kernel)

theorem witness_PrimitivesReachTheirTiles_next :
    Renders drawing [16, sreg 1] ∧ Uniform drawing always (sreg 1) 3 ∧ drawing.curW.batch = none ∧ drawing.curW.binWait = none ∧
      drawing.curW.canIssue 0 = true ∧ drawing.frameSt 3 = 0 ∧ drawing.curW.ops = [] ∧ claimOf drawing drawing.curRef = none ∧
      (drawing.laneEnv always).act.getLsbD 0 = true := by
  (repeat' apply And.intro) <;>
    first | decide +kernel | (apply uniform_of; decide +kernel)

theorem witness_PrimitivesReachTheirTiles_end :
    Renders asking [16, sreg 4] ∧ Uniform asking always (sreg 4) 1 ∧ claimOf asking asking.curRef = some claim ∧ claim.frame = 1 ∧
      claim.flushing = false ∧ claim.ended = false ∧ asking.regF (frstatA 1) 4 4 = 0 ∧ FMap.get [] (asking.gate 0 1).bins 0 = [] ∧
      asking.curW.batch = none ∧ asking.curW.binWait = none ∧ asking.curW.canIssue 0 = true ∧ asking.curW.ops = [] := by
  (repeat' apply And.intro) <;>
    first | decide +kernel | (apply uniform_of; decide +kernel)

theorem witness_PrimitivesReachTheirTiles_given :
    Renders offered [16, sreg 4] ∧ Uniform offered always (sreg 4) 1 ∧ claimOf offered offered.curRef = some claim ∧ claim.frame = 1 ∧
      claim.flushing = false ∧ claim.ended = false ∧ claim.handed.length < 64 ∧ offered.regF (frstatA 1) 4 4 = 0 ∧
      FMap.get [] (offered.gate 0 1).bins claim.tile = [{ frame := 1, key := 3, payload := 0 }] ∧ offered.curW.prim = none ∧
      offered.curW.batch = none ∧ offered.curW.binWait = none ∧ offered.curW.canIssue 0 = true ∧ offered.curW.ops = [] := by
  (repeat' apply And.intro) <;>
    first | decide +kernel | (apply uniform_of; decide +kernel)

theorem witness_PrimitivesReachTheirTiles_batch :
    Renders asking [16] ∧ (claimOf asking asking.curRef).isSome = true ∧ asking.curW.batch = none ∧ asking.curW.canIssue 0 = true ∧
      asking.curW.prim = some 0 ∧ handed.todo = [(5, 0xF)] := by
  (repeat' apply And.intro) <;> decide +kernel

theorem witness_TilesAreReadAndWritten :
    Renders tiled [16, 17, 32] ∧ Pinned tiled [16, 32] ∧ wellFormed (.ztest always { d := 0, a := 16, b := 0, c := 0, m := 0x100 }) = true ∧
      wellFormed (.tilew always { d := 0, a := 17, b := 0, c := 0, m := 0 }) = true ∧
      wellFormed (.tilerd always { d := 16, a := 32, b := 0, c := 0, m := 0x80 }) = true ∧
      claimOf tiled tiled.curRef = some claim ∧ 1024 * (tiled.team tiled.curW.team).gran + fieldAt claim.fr.desc 0x4C 4 + 49152 ≤ 2 ^ 19 ∧
      tiled.curW.batch = some { blk := 5, cov := 0xF, opened := false } ∧ tiled.curW.prim = some 0 ∧ stepFree claim 0 5 = true ∧
      claim.flushing = false ∧ tiled.curW.canIssue 3 = true := by
  (repeat' apply And.intro) <;> decide +kernel

theorem witness_TexturesAreSampled :
    let c := laneChecks drawing always (fun l => BitVec.ofNat 64 (srcVal drawing (drawing.laneEnv always) (spair 2) l)) 32 .load
    Renders drawing [18, 33, spair 2] ∧ drawing.curW.canIssue 0 = true ∧ MayRequest drawing 288 ∧ c.1 = drawing ∧ (∃ ts, c.2 = .ok ts) ∧
      ∀ t, peerHeld drawing 0 0 t = false := by
  (repeat' apply And.intro) <;>
    first | exact near_of (by decide +kernel) | decide +kernel | (apply ok_of; decide +kernel) | (apply may_of; decide +kernel)


/-- `base` at the end of an activity window with 600 clk of matrix work by its warp. -/
def busy : State := withC base fun c => { c with clk := 1024, busy := 600, matWarps := 1 }
/-- A header with a wrong parity, and one from die 0 to die 1 (R46). -/
def badHdr : BitVec 128 := 1
def goodHdr (dest : Nat) : BitVec 128 := mkHdr dest 0 0 0 0 1 0 5 0 0 0
/-- `base` with a packet of `badHdr` at router 0. -/
def badPacket : State := { base with mesh := [{ router := 0, hdr := badHdr, set := 0, slot := 0, data := 0 }] }
/-- `base` whose router 0 knows the ways to itself and to die 1. -/
def routed : State := ({ base with rt := [(0, 4), (1, 1)] }).setReg (mlinkA 0) 0xF0000000
/-- One lane's access to 0x80008. -/
def oneLane : LaneRes := { lane := 0, va := 0x80008, tr := dataTr, size := 4, val := 7, status := stOk }
/-- `base` with a load of v1 in flight, and with a store that has been issued four times. -/
def loading : State := withW base fun w => { w with ops := [{ load with isLane := true, dst := some 1, res := [oneLane] }], cnt := [(0, 1)] }
def lastTry : State := withW base fun w => { w with ops := [{ load with op := 1, path := 1, retries := 3, res := [oneLane] }], cnt := [(1, 1)] }
/-- A load of 8 bytes by die 1. -/
def req (pa : Nat) : Req := { srcSite := 1, srcCore := 2, seq := 9, lwm := 9, kind := .load, pa := pa, size := 8, data := 0, aop := 0, sec := false }
/-- The same access as a store or an atomic, and as a store or an atomic to the window of core 0. -/
def reqOf (k : ReqKind) : Req := { req 0x80008 with kind := k, data := 5, aop := 0 }
def reqWin (k : ReqKind) : Req := { req (winAddr 0 0 + 0x100410) with kind := k, data := 5, aop := 0 }
/-- `base` whose port has applied the atomic with SEQ 9 of that requester, and whose port knows that SEQ as completed. -/
def replayed : State := base.setDie 0 { base.die 0 with filter := [(reqKey 1 2, [(9, 5)])] }
def late : State := base.setDie 0 { base.die 0 with lwms := [(reqKey 1 2, 10)] }
/-- An error in a register of the warp of `base`. -/
def regErr (corrected : Bool) : ErrAt := { unit := 0, core := 0, slot := 0, addr := 0, reader := true, dirty := false, corrected := corrected }
/-- `base` in a region. -/
def inRegion : State := withW base fun w => { w with inRgn := true, snapPc := 3, pc := 9 }

/-- `base` with an image in a routing update that has reached PREPARE, to which the routers in `made` have answered. -/
def preparing (st : BitVec 64) (made : FMap Nat) (answered : BitVec 49) (changed : Bool) : State :=
  { (base.setReg rtstatA st) with hub := { base.hub with upd := some { img := [], made := made, answered := answered, changed := changed } } }
/-- An image whose tables name no port, and `base` as it signs that image. -/
def blankImage : List Byte := List.replicate 0xF20 7
def wrongImage : List Byte := List.replicate 0xF20 0
theorem refusal_unreached {s : State} {t : Table} (h : ∀ r < 49, ∀ d < 49, (t r d).extractLsb' 0 3 = 7) : refusal s t = none := by
  have hp : ((List.range 49).flatMap fun r =>
      ((List.range 49).filter fun d => d != r && (t r d).extractLsb' 0 3 != 7).map fun d => (r, d)) = [] :=
    List.flatMap_eq_nil_iff.mpr fun r hr => by
      rw [List.map_eq_nil_iff, List.filter_eq_nil_iff]
      intro d hd; simp [h r (List.mem_range.mp hr) d (List.mem_range.mp hd)]
  have hc : channelDeps t = [] := List.flatMap_eq_nil_iff.mpr fun d hd => by
    rw [List.filterMap_eq_nil_iff]
    intro r hr
    rw [h r (List.mem_range.mp hr) d (List.mem_range.mp hd)]
    have : linkOf r 7 = none := by unfold linkOf; split <;> rfl
    simp [this]
  unfold refusal
  simp only [hp, hc, List.find?_nil]
  decide +kernel
theorem refusal_lost {s : State} {t : Table} {r d : Nat} (hr : r < 49) (hd : d < 49) (hn : d ≠ r) (h : (t r d).extractLsb' 0 3 ≠ 7)
    (g : routeHops t d 64 r = none) : (refusal s t).isSome = true := by
  unfold refusal
  dsimp only
  split
  · rfl
  · split
    · rfl
    · next hf =>
      exact absurd (List.find?_eq_none.mp hf (r, d) (List.mem_flatMap.mpr ⟨r, List.mem_range.mpr hr, List.mem_map.mpr ⟨d, List.mem_filter.mpr
        ⟨List.mem_range.mpr hd, by simp only [bne_iff_ne, ne_eq, Bool.and_eq_true]; exact ⟨hn, h⟩⟩, rfl⟩⟩)) (by simp [g])
theorem blank_table (r : Nat) (hr : r < 49) (d : Nat) (hd : d < 49) : (imgTable blankImage r d).extractLsb' 0 3 = 7 := by
  unfold imgTable blankImage
  rw [List.getD_eq_getElem?_getD, List.getElem?_replicate, if_pos (by omega)]; rfl
theorem wrong_table (r d : Nat) (hr : r < 49) (hd : d < 49) : imgTable wrongImage r d = 0 := by
  unfold imgTable wrongImage
  rw [List.getD_eq_getElem?_getD, List.getElem?_replicate, if_pos (by omega)]; rfl
def signing : State :=
  { (base.setReg rtstatA 1) with hub := { base.hub with upd := some { img := blankImage, made := [], answered := 0, changed := false } } }
/-- `base` with markers of one or two channels under way, and with the acknowledgement of the first. -/
def marked : State := { base with markers := [(0, 1, 0), (1, 0, 0)] }
def markAcked : State := { marked with mesh := [markerAck marked 0 0 1 0] }
/-- `base` in DRAIN, with a marker from die 0 at die 1, whose old tables know the way back. -/
def draining : State :=
  let s := ((base.setReg rtstatA 3).setReg (mlinkA 0) 0xF0000000).setReg (mlinkA 1) 0xF000000000000000
  let u := { s with rtOld := [(64, 3)], markers := [(0, 1, 0)], hub := { s.hub with upd := some { img := [], made := [], answered := 0, changed := false } } }
  { u with mesh := [{ markerMsg u 0 1 0 with router := 1 }] }
/-- The same without a packet, and with the acknowledgement of the last marker. -/
def markerLost : State := { draining with mesh := [] }
def drained : State := { draining with mesh := [markerAck draining 0 0 1 0] }
/-- `base` with die 1 in RESET and the way to it from die 0 gone. -/
def lost : State := ({ base with rt := [(1, 7)] }).setReg (dstateA 1) 4
/-- The same once die 0 has fenced its east edge. -/
def fenced : State := lost.setDie 0 { lost.die 0 with fenced := 2 }

/-- `base` with dies 0 and 1 UP and a share of line 4096's tokens at die 1. -/
def shared : State :=
  { (base.setReg (dstateA 1) 2) with
    tokens := [(4096, { serial := 0, home := 60, homeOwner := true, set := 0, sec := false, dies := [(1, { tokens := 4, owner := false, valid := true, slices := 1, dirty := none, sec := false })] })] }
/-- A request of die 0 for line 4096. -/
def pendOne (tries : Nat) (pers : Bool) : PendReq := { line := 4096, write := true, tries := tries, persistent := pers, born := 0, sent := 0, seen := [] }
/-- `shared` with a request of die 0 for that line, `ticks` after it. -/
def wanting (tries : Nat) (pers : Bool) (ticks : Nat) : State :=
  let s := shared.setDie 0 { shared.die 0 with pend := [pendOne tries pers] }
  { s with ticks := ticks }
/-- `shared` with tokens on their way to die 0. -/
def flying : State :=
  { shared with coh := [{ line := 4096, serial := 0, src := 1, dst := some 0, tokens := 4, owner := false, dirty := false, data := true }] }
/-- A persistent request of die 0 at the arbiter of the line's home, queued or active. -/
def queued : State := (wanting 2 true 1).setDie 0 { (wanting 2 true 1).die 0 with arbQ := [(0, 4096)] }
/-- A request of die 1 for another line has come to the arbiter in this clk. -/
def contended : State := (wanting 2 true 5).setDie 0 { (wanting 2 true 5).die 0 with arbQ := [(1, 8192)], arbAt := 5, arbNew := 1 }
def active : State := (wanting 2 true 0).setDie 0 { (wanting 2 true 0).die 0 with arbAct := [{ line := 4096, site := 0 }] }
/-- `active` with all tokens at die 0. -/
def granted : State :=
  { active with tokens := [(4096, { serial := 0, home := 0, homeOwner := false, set := 0, sec := false, dies := [(0, { tokens := 64, owner := true, valid := true, slices := 1, dirty := none, sec := false })] })] }
/-- `base` with old cluster-held bytes of line 4096. -/
def aged : State :=
  let h : Held := { line := 4096, data := 5, mask := 1, cores := 1, started := false, born := 0, sec := false }
  { (base.setDie 0 { base.die 0 with held := [(0, [h])] }) with ticks := 121600 }

/-- `shared` in a sweep of die 0, with a census of the line that has reached `act` and been acknowledged by `acks`. -/
def sweeping : State := shared.setDie 0 { shared.die 0 with sweep := [63] }
def census (act acks : BitVec 48) : Census := { line := 4096, sites := 3, active := act, acks := acks, marks := [] }
def counting (act acks : BitVec 48) : State := { sweeping with census := [census act acks] }
/-- A replica of the page at 0x80000, at die 0. -/
def replica (gate : Bool) (acks : BitVec 48) : RepEnt := { page := 0x80000, entry := 8, sites := 1, acks := acks, demoted := false, gate := gate, big := false, held := [] }
def replicated (gate : Bool) (acks : BitVec 48) : State :=
  base.setDie 0 { base.die 0 with repDir := [replica gate acks], replicas := [0x80000] }
/-- `base` with HADDR at 0x80000, and with a home command. -/
def homed : State := base.setReg (haddrA 0) 0x80000
def homing (flush : Bool) : State := homed.setDie 0 { homed.die 0 with home := some { flush := flush, addr := 0x80000, count := 2 } }

/-- The warp of `base`. -/
def me : WRef := { site := 0, core := 0, slot := 0 }

theorem witness_PowerAndHeatGovernIssue :
    1024 * ((busy.core 0 0).win + 1) ≤ (busy.core 0 0).clk ∧ (busy.core 0 0).phase = none ∧ 128 < min (busy.core 0 0).busy 1024 ∧
      base.hub.limit < (30000 : BitVec 16).toNat ∧ base.hub.cap = none ∧ (base.core 0 0).throttle ≤ (base.core 0 0).clk := by
  (repeat' apply And.intro) <;> decide +kernel

/-- `base` with one working module east of die 0, and with a Dalec port in service. -/
def lastModule : State := base.setReg (mlinkA 0) 0x10000000
def ported : State := base.setReg (dlstatA 0) 2
/-- `base` with a COPY handed to the engines of its die. -/
def engaged : State :=
  let s := withW base fun w => { w with ops := [{ load with path := 3, engine := true }], cnt := [(3, 1)] }
  s.setDie 0 { s.die 0 with copies := [command base .copy 0 0 0 0 none] }

theorem witness_RequestsCrossTheMesh_modules :
    linkOf 0 1 = some 1 ∧ edgeMask base 0 1 = 0 ∧ edgeMask routed 0 1 ≠ 0 ∧ edgeFenced routed 0 1 = false ∧ edgeMask lastModule 0 1 = 1 ∧
      sitePort (portSite 0) = 0 ∧ portSite 0 < 48 ∧ ported.regF (dlstatA 0) 1 0 = 2 := by
  (repeat' apply And.intro) <;> decide +kernel

theorem witness_RequestsCrossTheMesh_parity :
    hdrPar badHdr ≠ hdrF badHdr 7 0 ∧ hdrF badHdr 109 107 < 2 ∧
      { router := 0, hdr := badHdr, set := 0, slot := 0, data := 0 } ∈ badPacket.mesh := by
  (repeat' apply And.intro) <;> decide +kernel

theorem witness_RequestsCrossTheMesh_routes :
    routed.mesh = [] ∧ routed.regF rtstatA 2 0 = 0 ∧ hdrPar (goodHdr 1) = hdrF (goodHdr 1) 7 0 ∧ hdrF (goodHdr 1) 127 122 = 1 ∧
      ((FMap.get 0 routed.rt 1).extractLsb' 0 3).toNat = 1 ∧ ((FMap.get 0 routed.rt 0).extractLsb' 0 3).toNat = 4 ∧
      hdrF (goodHdr 0) 127 122 = 0 ∧ ¬ (hdrF (goodHdr 1) 115 110 = 63 ∧ hdrF (goodHdr 1) 105 100 = 31) ∧ hdrF (goodHdr 1) 109 107 ≤ 5 := by
  (repeat' apply And.intro) <;> decide +kernel

theorem witness_RequestsCrossTheMesh_timeout :
    (loading.wref me).ops = [{ load with isLane := true, dst := some 1, res := [oneLane] }] ∧ oneLane.tr.kind = .localMem ∧
      (lastTry.wref me).ops = [{ load with op := 1, path := 1, retries := 3, res := [oneLane] }] ∧ (lastTry.wref me).recs.length < 16 ∧
      engineOp loading me 0 = none ∧ engineOp lastTry me 0 = none ∧ (engineOp engaged me 0).isSome = true ∧
      (engaged.wref me).ops = [{ load with path := 3, engine := true }] := by
  (repeat' apply And.intro) <;> decide +kernel

theorem witness_RequestsCrossTheMesh_ports :
    base.dieUp 0 = true ∧ region (req 0x80008).pa = .hbm 0 ∧ (req 0x80008).pa % 8 = 0 ∧ portSt base 0x80008 false = stOk ∧ base.poison.contains (lineOf 0x80008) = false ∧
      region (winAddr 0 0 + 0x180000) = .window 0 0 0x180000 ∧ windowSt base 0 0 0 false = stOk := by
  (repeat' apply And.intro) <;> decide +kernel

theorem witness_RequestsCrossTheMesh_atomics :
    (reqOf .store).kind = .store ∧ (reqOf .store).size ∈ [1, 2, 4, 8, 16, 32] ∧ (reqOf .cas).size = 8 ∧
      seqAbove 9 (portMark (late.die 0) (reqKey 1 2) (reqOf .atomic).lwm) = false ∧ late.dieUp 0 = true ∧ portSt late 0x80008 false = stOk ∧
      seqAbove 9 (portMark (replayed.die 0) (reqKey 1 2) (reqOf .atomic).lwm) = true ∧
      FMap.find (FMap.get [] (replayed.die 0).filter (reqKey 1 2)) 9 = some 5 ∧ replayed.dieUp 0 = true ∧ portSt replayed 0x80008 false = stOk ∧
      seqAbove 9 (portMark (base.die 0) (reqKey 1 2) (reqOf .atomic).lwm) = true ∧
      FMap.find (FMap.get [] (base.die 0).filter (reqKey 1 2)) 9 = none := by
  (repeat' apply And.intro) <;> decide +kernel

theorem witness_RequestsCrossTheMesh_windows :
    region (reqWin .store).pa = .window 0 0 0x100410 ∧ (reqWin .store).pa % (reqWin .store).size = 0 ∧ (reqWin .atomic).size = 8 ∧
      region (reqWin .cas).pa = .window 0 0 0x100410 ∧ (reqWin .cas).kind = .cas ∧ (reqWin .atomic).kind = .atomic ∧
      windowSt base 0 0 0 (reqWin .store).sec = stOk := by
  (repeat' apply And.intro) <;> decide +kernel

/-- The same in a grid with redundancy. -/
def checkedRegion : State := withG inRegion fun g => { g with pkt := BitVec.ofNat 1024 (2 ^ (8 * 0x12)) }

theorem witness_RequestsCrossTheMesh_errors :
    (regErr false).unit ∉ [3, 4, 7, 12, 14] ∧ errSite (regErr false) 0 = 0 ∧ errSite (regErr true) 0 = 0 ∧ (regErr false).tag = none ∧
      (inRegion.wref me).restAt ≠ some (inRegion.core 0 0).clk ∧ (checkedRegion.wref me).restAt ≠ some (checkedRegion.core 0 0).clk ∧ Stands inRegion me ∧ (inRegion.wref me).inRgn = true ∧ (inRegion.wref me).restarts < 3 ∧
      Stands checkedRegion me ∧ (checkedRegion.wref me).inRgn = true ∧ (checkedRegion.gridOf (checkedRegion.wref me)).redun ≠ 0 := by
  (repeat' apply And.intro) <;> decide +kernel

theorem witness_RequestsCrossTheMesh_completion :
    (loading.wref me).ops = [{ load with isLane := true, dst := some 1, res := [oneLane] }] ∧ oneLane.status = stOk ∧ oneLane.lane < 32 ∧
      (vaddr (loading.core 0 0) 0 1 0).isSome = true := by
  (repeat' apply And.intro) <;> decide +kernel

theorem witness_RoutingUpdatesAndDieLoss_starts :
    base.regF rtstatA 2 0 = 0 ∧ (preparing 2 [] 0 false).regF rtstatA 2 0 ≠ 0 ∧ (3 : BitVec 64).getLsbD 1 = true := by
  (repeat' apply And.intro) <;> decide +kernel

theorem witness_RoutingUpdatesAndDieLoss_signs :
    signing.regF rtstatA 2 0 = 1 ∧ refusal signing (imgTable blankImage) = none ∧ signing.hub.detour = false ∧
      (refusal signing (imgTable wrongImage)).isSome = true :=
  ⟨by decide +kernel, refusal_unreached blank_table, by decide +kernel,
    refusal_lost (r := 0) (d := 1) (by decide) (by decide) (by decide) (by rw [wrong_table 0 1 (by decide) (by decide)]; decide)
      (by unfold routeHops; rw [wrong_table 0 1 (by decide) (by decide)]; rfl)⟩

theorem witness_RoutingUpdatesAndDieLoss_prepares :
    takesPart (preparing 2 [] 0 false) 48 = true ∧ (preparing 2 [] 0 false).regF rtstatA 2 0 = 2 ∧
      (preparing 2 [] 0 false).hub.upd = some { img := [], made := [], answered := 0, changed := false } ∧ FMap.find ([] : FMap Nat) 48 = none ∧ (preparing 2 [] 0 false).hub.detour = false := by
  (repeat' apply And.intro) <;> decide +kernel

theorem witness_RoutingUpdatesAndDieLoss_answers :
    FMap.find [(0, 6)] 0 = some 6 ∧ FMap.find [(0, 0)] 0 = some 0 ∧
      (∀ r ∈ routers (preparing 2 [(0, 0)] (1 <<< 48) false), r = 0 ∨ (1 <<< 48 : BitVec 49).getLsbD r = true) := by
  (repeat' apply And.intro) <;> decide +kernel

theorem witness_RoutingUpdatesAndDieLoss_aborts :
    takesPart (preparing 2 [] 0 true) 48 = true ∧ (preparing 2 [] 0 true).regF rtstatA 2 0 = 2 ∧ (preparing 2 [] 0 true).hub.upd = some { img := [], made := [], answered := 0, changed := true } := by
  (repeat' apply And.intro) <;> decide +kernel

theorem witness_RoutingUpdatesAndDieLoss_drains :
    draining.markers.contains (0, 1, 0) = true ∧ draining.regF rtstatA 2 0 = 3 ∧
      draining.mesh = [{ markerMsg draining 0 1 0 with router := 1 }] ∧ ((FMap.get 0 draining.rtOld 64).extractLsb' 0 3).toNat = 3 ∧
      oldTokens draining 0 1 = false ∧
      linkOf 1 3 = some 0 ∧ edgeFenced draining 1 3 = false ∧ edgeMask draining 1 3 ≠ 0 ∧
      markerLost.mesh = [] ∧ markerLost.regF rtstatA 2 0 = 3 ∧ markerLost.markers.contains (0, 1, 0) = true ∧
      markAcked.mesh = [markerAck markAcked 0 0 1 0] ∧ markAcked.markers = [(0, 1, 0), (1, 0, 0)] ∧
      drained.mesh = [markerAck drained 0 0 1 0] ∧ drained.markers = [(0, 1, 0)] ∧ drained.regF rtstatA 2 0 = 3 ∧ drained.hub.detour = false := by
  (repeat' apply And.intro) <;> decide +kernel

theorem witness_RoutingUpdatesAndDieLoss_loses :
    base.dieUp 0 = true ∧ linkOf 0 1 = some 1 ∧ lost.dieSt 1 = 4 ∧ (FMap.get 0 lost.tables 1).extractLsb' 0 3 = 7 ∧ edgeFenced lost 0 1 = false ∧
      lost.mesh = [] ∧ fenced.dieUp 1 = false ∧ fenced.dieUp 0 = true ∧ noticed fenced 1 = true ∧
      (FMap.get (0 : BitVec 48) fenced.hub.told 1).getLsbD 0 = false := by
  (repeat' apply And.intro) <;> decide +kernel

theorem witness_TokensFollowRequests_request :
    shared.dieUp 0 = true ∧ (lineSet shared 4096).getLsbD 0 = true ∧ satisfied shared 4096 0 true = false ∧ requestOf shared 0 4096 = none ∧
      requestOf (wanting 1 false 0) 0 4096 = some (pendOne 1 false) ∧ (wanting 1 false 0).dieUp 1 = true ∧
      (lineSet (wanting 1 false 0) 4096).getLsbD 1 = true ∧ censusOf (wanting 1 false 0) 4096 = none ∧
      tableHas (wanting 1 false 0) 1 4096 = none ∧ 0 < (dirOf (wanting 1 false 0) 4096 1).tokens := by
  (repeat' apply And.intro) <;> decide +kernel

theorem witness_TokensFollowRequests_receive :
    flying.regF rtstatA 2 0 ≠ 3 ∧ flying.coh = [{ line := 4096, serial := 0, src := 1, dst := some 0, tokens := 4, owner := false, dirty := false, data := true }] ∧
      (tokOf flying 4096).serial = 0 ∧ flying.dieUp 0 = true ∧ censusOf flying 4096 = none ∧ tableHas flying 0 4096 = none ∧
      dirRoom flying 0 4096 = true ∧ (sliceLines flying 0 (dirSlice flying 0 4096)).length < 65536 := by
  (repeat' apply And.intro) <;> decide +kernel

theorem witness_TokensFollowRequests_retries :
    requestOf (wanting 1 false 2850) 0 4096 = some (pendOne 1 false) ∧ (pendOne 1 false).sent + 2850 ≤ (wanting 1 false 2850).ticks ∧
      satisfied (wanting 1 false 2850) 4096 0 true = false ∧ satisfied (wanting 2 false 2850) 4096 0 true = false ∧
      requestOf (wanting 2 false 2850) 0 4096 = some (pendOne 2 false) ∧
      (((wanting 2 false 2850).die 0).pend.filter fun x => x.persistent).length < 32 := by
  (repeat' apply And.intro) <;> decide +kernel

theorem witness_TokensFollowRequests_arbiter :
    homeOf 4096 = 0 ∧ requestOf (wanting 2 true 0) 0 4096 = some (pendOne 2 true) ∧ ((wanting 2 true 0).die 0).arbQ = [] ∧
      activeAt (wanting 2 true 0) 4096 = none ∧ ((wanting 2 true 0).die 0).sweep = [] ∧ tokTotal (wanting 2 true 0) 4096 = 64 ∧
      tokTotal queued 4096 = 64 ∧ (queued.die 0).arbAt ≠ queued.ticks ∧ (queued.die 0).sweep = [] ∧ (queued.die 0).arbQ = [(0, 4096)] ∧
      (queued.die 0).arbAct = [] ∧ censusOf queued 4096 = none ∧ queued.dieUp 0 = true := by
  (repeat' apply And.intro) <;> decide +kernel

theorem witness_TokensFollowRequests_order :
    requestOf contended 0 4096 = some (pendOne 2 true) ∧ contended.dieUp 0 = true ∧ (contended.die 0).arbQ = [(1, 8192)] ∧
      (contended.die 0).arbAt = contended.ticks ∧ (contended.die 0).arbNew = 1 ∧ activeAt contended 4096 = none ∧
      (contended.die 0).sweep = [] ∧ tokTotal contended 4096 = 64 := by
  (repeat' apply And.intro) <;> decide +kernel

theorem witness_TokensFollowRequests_active :
    activeAt active 4096 = some 0 ∧ active.dieUp 1 = true ∧ (lineSet active 4096).getLsbD 1 = true ∧ tableHas active 1 4096 = none ∧ 0 < (dirOf active 4096 1).tokens ∧
      activeAt granted 4096 = some 0 ∧ requestOf granted 0 4096 = some (pendOne 2 true) ∧ satisfied granted 4096 0 true = true := by
  (repeat' apply And.intro) <;> decide +kernel

theorem witness_TokensFollowRequests_held :
    heldOf aged 0 0 = [{ line := 4096, data := 5, mask := 1, cores := 1, started := false, born := 0, sec := false }] ∧ 0 + 121600 ≤ aged.ticks := by
  (repeat' apply And.intro) <;> decide +kernel

theorem witness_LinesPagesAndHomesRecover_census :
    sweeping.dieUp 0 = true ∧ (sweeping.die 0).sweep = [63] ∧ (sweeping.die 0).swept = [] ∧ (tokOf sweeping 4096).home ≠ 64 ∧ censusOf sweeping 4096 = none ∧
      censusOf (counting 0 0) 4096 = some (census 0 0) ∧ (census 0 0).sites.getLsbD 1 = true ∧ (census 0 0).active.getLsbD 1 = false ∧
      censusOf (counting 3 0) 4096 = some (census 3 0) ∧ (census 3 0).active.getLsbD 1 = true ∧ (counting 3 0).coh = [] ∧
      (counting 3 3).census = [census 3 3] ∧ activeAt (counting 3 3) 4096 = none ∧
      (census 3 3).acks &&& ((census 3 3).sites &&& upSet (counting 3 3)) = (census 3 3).sites &&& upSet (counting 3 3) := by
  (repeat' apply And.intro) <;> decide +kernel

theorem witness_LinesPagesAndHomesRecover_pages :
    base.dieUp (pageHome 0x80000) = true ∧ repOf base 0x80000 = none ∧ (base.die 0).repDir.length < 4096 ∧ base.dieUp 0 = true ∧
      repOf (replicated false 0) 0x80000 = some (replica false 0) ∧ repOf (replicated true 0) 0x80000 = some (replica true 0) ∧
      (replicated true 0).dieUp 0 = true ∧ (replica true 0).sites.getLsbD 0 = true ∧
      (replica true 1).acks &&& ((replica true 1).sites &&& upSet (replicated true 1)) = (replica true 1).sites &&& upSet (replicated true 1) := by
  (repeat' apply And.intro) <;> decide +kernel

theorem witness_LinesPagesAndHomesRecover_homes :
    homed.dieUp 0 = true ∧ getF (0x201 : BitVec 64) 2 0 = 1 ∧ (homed.die 0).home = none ∧ getF (0x201 : BitVec 64) 27 8 = 2 ∧
      getF (homed.reg (haddrA 0)) 47 12 * 4096 = 0x80000 ∧ ((homing true).die 0).home ≠ none ∧ getF (3 : BitVec 64) 2 0 = 3 ∧
      ((homing false).die 0).home = some { flush := false, addr := 0x80000, count := 2 } := by
  (repeat' apply And.intro) <;> decide +kernel


/-- The package in a phase of the boot, with every die held in reset, or loaded. -/
def booting (phase : BitVec 64) : State := State.reset.setReg bootstatA (0xFF0000 + phase)
def loadedDies (phase : BitVec 64) : State := (booting phase).setReg (dstateA 3) (0xFFFF0001)
/-- The package with the policy measured. -/
def measuring : State := { loadedDies 5 with trust := { (loadedDies 5).trust with meas := [(53, 1)] } }
/-- What the checks of a die found: nothing wrong, or an image whose signature fails. -/
def fine (site : Nat) : DieTest :=
  { site := site, sigOk := true, loadOk := true, dieOk := true, badCores := 0, badSlices := 0, badLanes := [], laneReps := 0, badMods := 0, digest := 9 }
/-- `base` after the boot, with die 1 in RESET with one core and all slices. -/
def booted : State := base.setReg bootstatA 6
def inReset : State :=
  let s := (((booted.setReg (dstateA 1) 4).setReg (dcoreA 1) 1).setReg (dsliceA 1) 0xFFF).setDie 0 { booted.die 0 with fenced := 2 }
  { s with hub := { s.hub with told := [(1, 1)] } }
/-- The same before any neighbour has fenced its edge. -/
def untold : State := booted.setReg (dstateA 1) 4
/-- `booted` with a fill of units 16 and 17 of secure range 1 of die 0 under way. -/
def filling : State :=
  let s := { booted with mem := writeBytes booted.mem 0x800000 4 7, trust := { booted.trust with fills := [(0, 1, 16, 18)] } }
  s.setReg (secrangeA 0 1) 0x4000000000000000
/-- `booted` with ways from the hub to die 0, and BAR2's first aperture at its HBM. -/
def reached : State :=
  let s := { booted with rt := [(512, 0), (1024, 0), (3072, 1)] }
  (((s.setReg (mlinkA 16) 0xF00000000000F000).setReg (mlinkA 8) 0xF000).setReg (apmapA 0) 0x8000000000000000)
/-- `booted` with queue 5 OFF, both its rings in host memory. -/
def offQueue : State :=
  ((booted.setReg (sqbaseA 5) 0x8000000000001000).setReg (cqbaseA 5) 0x8000000000002000).setReg (cqcfgA 5) 0x40
/-- The same with the queue running, an entry rung for, two completion entries written, one read, and one held. -/
def runQueue : State :=
  ((offQueue.setReg (sqcfgA 5) 0x41).setReg (cqcfgA 5) 0x0000000200100040).setQint 5 { QInt.reset with tail := 1, held := [7], unsig := 1 }
def latePeriod : State := { runQueue with ticks := 38000 }
/-- `booted` as package 1 with Dalec port 0 up at a die that is UP. -/
def peerUp : State :=
  ((booted.setReg pkgidA 0x8000000000000001).setReg (dlstatA 0) 2).setReg (dstateA (portSite 0)) 2
/-- The same with MSI-X enabled. -/
def messaging : State := { latePeriod with trust := { latePeriod.trust with pci := [(0x14, 0x80000000)] } }
/-- A store to a peer in flight. -/
def peering : State :=
  withW base fun w => { w with ops := [{ load with op := 1, path := 1, res := [{ oneLane with tr := { dataTr with kind := .peer } }] }] }
/-- The same with port 0 up and on the way to the store's package. -/
def peerBusy : State := (peering.setReg (dlstatA 0) 2).setReg (pkgrtA (peerOf dataTr.pa)) 1
/-- `booted` with a source of device time. -/
def timed (src : BitVec 64) : State :=
  { (booted.setReg tctlA src) with
    time := 1000, ticks := 3800000000, hub := { booted.hub with ptp := { booted.hub.ptp with master := some 5, pendingSync := some 3 } } }


theorem witness_BootRunsItsPhases_firmware :
    (booting 0).phase = 0 ∧ (booting 0).trust.bootFail = false ∧ (booting 1).phase = 1 ∧ (booting 1).regF bootstatA 7 4 = 0 := by
  (repeat' apply And.intro) <;> decide +kernel

theorem witness_BootRunsItsPhases_dies :
    (booting 2).phase = 2 ∧ testOf [fine 0, { fine 3 with sigOk := false }] 3 = { fine 3 with sigOk := false } ∧ testOf [fine 0] 0 = fine 0 ∧
      (loadedDies 3).phase = 3 ∧ (loadedDies 3).dieSt 3 = 1 ∧ edgesDead (fine 3) = false ∧ edgesDead { fine 3 with badMods := 0xFFFF } = true ∧
      coreWorks (~~~(fusesOf (loadedDies 3) 3).cores) (~~~(fusesOf (loadedDies 3) 3).slices) (fusesOf (loadedDies 3) 3) (fine 3) 0 = true ∧
      (fine 3).dieOk = true := by
  (repeat' apply And.intro) <;> decide +kernel

theorem witness_BootRunsItsPhases_ends :
    (loadedDies 4).phase = 4 ∧ (loadedDies 4).dieSt 3 ≠ 3 ∧ (loadedDies 5).phase = 5 ∧ measured (loadedDies 5) 53 = false ∧
      (loadedDies 5).regF bootstatA 7 4 = 0 ∧ (loadedDies 5).dieSt 3 = 1 ∧ measuring.phase = 5 ∧ measured measuring 53 = true ∧
      measuring.dieSt 3 = 1 := by
  (repeat' apply And.intro) <;> decide +kernel

theorem witness_BootRunsItsPhases_release :
    (fine 1).site < 48 ∧ inReset.dieSt 1 = 4 ∧ allTold inReset 1 = true ∧ (fine 1).sigOk = true ∧ (fine 1).loadOk = true ∧
      (fine 1).dieOk = true ∧ edgesDead (fine 1) = false ∧
      coreWorks ((inReset.reg (dcoreA 1)).setWidth 48) ((inReset.reg (dsliceA 1)).setWidth 12) (fusesOf inReset 1) (fine 1) 0 = true ∧
      edgesDead { fine 1 with badMods := 0xFFFF } = true ∧ untold.dieSt 1 = 4 ∧ allTold untold 1 = false := by
  (repeat' apply And.intro) <;> decide +kernel

theorem witness_TrustDieAnswers :
    2 ≤ booted.phase ∧ booted.phase ≠ 15 ∧ booted.trust.doe = none ∧ (inMailbox booted (.version 0x12)).trust.doe.isSome = true ∧ booted.phase = 6 ∧ (booting 5).phase ≠ 6 ∧ rangeOk 0x8000000100000010 = true ∧
      rangeOk 0x8000000000000010 = false ∧ (0, 1, 16, 18) ∈ filling.trust.fills ∧ booted.msixOn = false := by
  (repeat' apply And.intro) <;> decide +kernel

theorem witness_HostDrivesQueuesAndRegisters_aperture :
    reached.phase = 6 ∧ reached.asleep = false ∧ 0x80008 % 128 + 8 ≤ 128 ∧ apAddr reached 0x80008 = some 0x80008 ∧
      region 0x80008 = .hbm 0 ∧ siteSt reached 48 0 = stOk ∧ portSt reached 0x80008 false = stOk ∧
      LineWhole reached (lineOf 0x80008) ∧ apAddr booted 0x80008 = none := by
  (repeat' apply And.intro) <;> decide +kernel

theorem witness_HostDrivesQueuesAndRegisters_starts :
    (secQueue offQueue 5 && !true) = false ∧ getF (0x41 : DWord) 1 0 = 1 ∧ offQueue.qState 5 = 0 ∧ 4 ≤ getF (0x41 : DWord) 7 4 ∧
      4 ≤ offQueue.regF (cqcfgA 5) 7 4 ∧ baseBad (offQueue.reg (sqbaseA 5)) (128 * 2 ^ 4) = false ∧
      baseBad (offQueue.reg (cqbaseA 5)) (32 * 2 ^ offQueue.regF (cqcfgA 5) 7 4) = false ∧ getF (0x31 : DWord) 7 4 < 4 := by
  (repeat' apply And.intro) <;> decide +kernel

theorem witness_HostDrivesQueuesAndRegisters_runs :
    runQueue.phase = 6 ∧ runQueue.qState 5 = 1 ∧ getF (15 : DWord) 15 0 < 2 ^ runQueue.regF (sqcfgA 5) 7 4 ∧
      2 ^ runQueue.regF (sqcfgA 5) 7 4 ≤ getF (16 : DWord) 15 0 ∧
      (2 + 16 - (runQueue.qint 5).cqHead) % 16 ≤ (runQueue.regF (cqcfgA 5) 47 32 + 16 - (runQueue.qint 5).cqHead) % 16 ∧
      runQueue.regF (sqcfgA 5) 47 32 ≠ (runQueue.qint 5).tail ∧ (∀ e ∈ runQueue.hub.grids, e.2.q ≠ some 5) ∧
      (runQueue.reg (sqbaseA 5)).getLsbD 63 = true ∧ (runQueue.qint 5).held = [7] ∧ cqFull runQueue 5 = false ∧
      (runQueue.reg (cqbaseA 5)).getLsbD 63 = true := by
  (repeat' apply And.intro) <;> decide +kernel

theorem witness_HostDrivesQueuesAndRegisters_period :
    (messaging.reg (cqcfgA 5)).getLsbD 20 = true ∧ 0 < (messaging.qint 5).unsig ∧
      (messaging.qint 5).oldest + 38000 ≤ messaging.ticks ∧ messaging.msixOn = true ∧ latePeriod.msixOn = false := by
  (repeat' apply And.intro) <;> decide +kernel

theorem witness_HostDrivesQueuesAndRegisters_ports :
    booted.regF (dlstatA 0) 1 0 ≠ 2 ∧ peerUp.dieUp (portSite 0) = true ∧ (peerUp.reg pkgidA).getLsbD 63 = true ∧
      peerUp.regF (dlstatA 0) 1 0 = 2 ∧ region (portSite 0 * 0x1000000000 + 0x80008) = .hbm (portSite 0) ∧
      siteSt peerUp (portSite 0) (portSite 0) = stOk ∧ portSt peerUp (portSite 0 * 0x1000000000 + 0x80008) false = stOk ∧
      (peering.wref me).ops = [{ load with op := 1, path := 1, res := [{ oneLane with tr := { dataTr with kind := .peer } }] }] ∧
      engineOp peering me load.tag = none ∧ LineWhole peerUp (lineOf (portSite 0 * 0x1000000000 + 0x80008)) ∧ booted.asleep = false ∧
      peerBusy.regF (dlstatA 0) 1 0 = 2 ∧ oneLane.tr.kind = .localMem ∧
      (peerBusy.reg (pkgrtA (peerOf dataTr.pa))).getLsbD 0 = true ∧ (peerBusy.wref me).ops = (peering.wref me).ops := by
  (repeat' apply And.intro) <;> decide +kernel

/-- `booted` in D3hot. -/
def sleeping : State := { booted with trust := { booted.trust with pci := [(0x11, 3)] } }

theorem witness_HostDrivesQueuesAndRegisters_asleep : sleeping.asleep = true ∧ runQueue.asleep = false ∧ offQueue.asleep = false := by
  (repeat' apply And.intro) <;> decide +kernel

theorem witness_DeviceTimeFollowsItsSource :
    fromMaster (timed 1) ⟨5, 0, 7⟩ = true ∧ (timed 3).timeSrc = 3 ∧ secondOff { timed 3 with time := 0 } = 0 ∧
      (timed 1).hub.ptp.pendingSync.isSome = true ∧ secondOff (timed 2) = 1000 ∧ (timed 2).timeSrc = 2 ∧
      (timed 1).timeSrc = 1 ∧ fromMaster (timed 1) ⟨6, 0, 7⟩ = false ∧ (timed 2).hub.ptp.lastPps + 2850000000 ≤ (timed 2).ticks ∧
      (0x0A000001 : BitVec 32).toNat = (timed 0x0A00000100000001).regF tctlA 63 32 ∧
      (timed 2).hub.ptp.lastPps + 3800000000 ≤ (timed 2).ticks := by
  (repeat' apply And.intro) <;> decide +kernel

/-- A packet of one team of one warp of one block, with its descriptor at 0x81000, its contexts at 0x80000, and `more` (R151). -/
def packet (more : Nat) : BitVec 1024 :=
  BitVec.ofNat 1024 (0x81000 + 2 ^ 64 + 2 ^ 96 + 2 ^ 112 + 2 ^ 128 + 2 ^ 136 + 0x80000 * 2 ^ 768 + 2 ^ 960 + more)
/-- `base` with grid 1, and with device time at 1000. -/
def gridded (st : GridSt) (checked : Bool) (more : Nat) : State :=
  { base.setGrid 1 { Grid.none with pkt := packet more, st := st, checked := checked } with time := 1000 }
/-- `base` with grid 1 admitted to die 0, whose cluster TLB holds the page of its descriptor. -/
def placing : State :=
  let s := base.setGrid 1 { Grid.none with pkt := packet 0, st := .running, checked := true, ranges := [(0, 0, 1)], ready := 1 }
  { s.setDie 0 { s.die 0 with grids := [1], clTlb := [(12, [placedTlb 0 false])] } with
    mem := writeBytes s.mem 0x81000 256 placedKd.toNat }
/-- An entry of the lane queue. -/
def runEntry (resume : Bool) : RunEnt := { resume := resume, pc := 7, caps := [], enq := 0 }
/-- `base` with a lane run queued, and its pipe its own. -/
def runQueued (resume : Bool) : State :=
  withC (withW base fun w => { w with queue := [runEntry resume] }) fun c => { c with pipe0 := some 0 }
/-- `laneBase` whose one path is HELD. -/
def runHeld : State := withW laneBase fun w => { w with lane := { w.lane with s0 := { w.lane.s0 with st := .held } } }
/-- `base` that has not been selected for 4096 clk. -/
def starved : State := withC base fun c => { c with clk := 4096 }
/-- `base` first in the queue of RBGET. -/
def waitsForBlock : State := withC (withW base fun w => { w with park := .rbget 1 1 }) fun c => { c with rbWait := [(0, 1, 1, 0)] }
/-- A team without a warp left. -/
def gone (st : TeamSt) (bound : Option (Nat × Nat)) (marks acked : BitVec 48) : Team :=
  { Team.none with st := st, bound := bound, marks := marks, acked := acked }
/-- `drawing` in a frame of die 0, with team 7 that has no warp left. -/
def teamGone (t : Team) : State := (drawing.setFrame 1 { frame2 with sites := 1 }).setTeam 7 t
/-- Grid 1 done, of no queue or of a queue whose completion ring is full. -/
def doneGrid (q : Option Nat) : State :=
  let s := runQueue.setGrid 1 { Grid.none with pkt := packet 0, st := .done, status := 1, q := q }
  s.setQint 5 { s.qint 5 with cqHead := 3 }

theorem witness_GridsBecomeTeamsAndRuns_waits :
    ((gridded .waiting false 1).grid 1).st = .waiting ∧ ((gridded .waiting false 1).grid 1).checked = false ∧
      packetBad ((gridded .waiting false 1).grid 1) = true ∧ ((gridded .waiting true 0).grid 1).checked = true ∧
      (∀ i < 4, ((gridded .waiting true 0).grid 1).wait i = 0) := by
  (repeat' apply And.intro) <;> decide +kernel

theorem witness_GridsBecomeTeamsAndRuns_admits :
    let s := gridded .resolved true 0
    let far := gridded .resolved true (31 * 2 ^ 128 + 47 * 2 ^ 136)
    (s.grid 1).st = .resolved ∧ launchedBefore s 1 = false ∧ unitTeams (s.grid 1) ≠ 0 ∧ upByLogical s = [0] ∧ 0 < dieUnits s 0 (s.grid 1) ∧
      (s.grid 1).redun ≠ 2 ∧ 0 < (s.grid 1).total ∧ (s.grid 1).coop = false ∧ (far.grid 1).st = .resolved ∧
      launchedBefore far 1 = false ∧ unitTeams (far.grid 1) = 0 := by
  (repeat' apply And.intro) <;> decide +kernel

theorem witness_GridsBecomeTeamsAndRuns_places :
    placing.dieUp 0 = true ∧ dispatchOrder placing 0 = [1] ∧ unplaced (placing.grid 1) 0 = some (0, 1) ∧ returnee placing 0 1 = none ∧
      (placing.grid 1).ready.getLsbD 0 = true ∧ coopHolds placing 0 1 = false ∧
      (bestCore placing 0 (placing.grid 1) ((placing.grid 1).teamSize * (placing.grid 1).blocks) none (fun _ => true)).isSome = true ∧
      (match (readKd placing 0 1).2 with | .ok d => d == placedKd | _ => false) = true ∧ kdBad placedKd = false ∧ (FMap.find (placing.grid 1).ranges 0).isSome = true ∧
      (placing.grid 1).notBefore ≤ (placing.timeAt 0).toNat := by
  (repeat' apply And.intro) <;> decide +kernel

theorem witness_GridsBecomeTeamsAndRuns_runs :
    ((runQueued false).wref me).resident = true ∧ ((runQueued false).core 0 0).pipe 0 = some 0 ∧ ((runQueued false).wref me).running = none ∧
      ((runQueued false).wref me).queue = [runEntry false] ∧ ((runQueued true).wref me).queue = [runEntry true] ∧
      ((runQueued false).wref me).lane = LaneCtx.none ∧ ((runQueued false).wref me).exited ≠ BitVec.allOnes 32 ∧
      Stands runHeld me ∧ (runHeld.wref me).running.isSome = true ∧ (runHeld.wref me).lane.s0.st ≠ .live ∧
      (runHeld.wref me).lane.s1.st ≠ .live ∧ (runHeld.wref me).recs = [] ∧
      (runHeld.wref me).lane.s0.mask = ~~~(runHeld.wref me).exited := by
  (repeat' apply And.intro) <;> decide +kernel

theorem witness_GridsBecomeTeamsAndRuns_selects :
    base.dieUp 0 = true ∧ base.coreOn 0 0 = true ∧ portReady (starved.wref me) = true ∧
      (starved.wref me).sSince + 4096 ≤ (starved.core 0 0).clk ∧ (waitsForBlock.core 0 0).rbWait = [(0, 1, 1, 0)] ∧ Stands waitsForBlock me ∧
      needed (waitsForBlock.wref me) 1 1 ≤ poolFree (waitsForBlock.core 0 0) := by
  (repeat' apply And.intro) <;> decide +kernel

theorem witness_GridsBecomeTeamsAndRuns_ends :
    FMap.find (teamGone (gone .running none 0 0)).hub.teams 7 = some (gone .running none 0 0) ∧
      FMap.find (teamGone (gone .running (some (1, 2)) 0 0)).hub.teams 7 = some (gone .running (some (1, 2)) 0 0) ∧
      (gone .running (some (1, 2)) 0 0).gone = false ∧ (teamGone (gone .running none 0 0)).frameSt 1 ≠ 0 ∧ ((teamGone (gone .running none 0 0)).frame 1).sites ≠ 0 ∧
      FMap.find (teamGone (gone .ended (some (1, 2)) 3 1)).hub.teams 7 = some (gone .ended (some (1, 2)) 3 1) ∧
      (gone .ended (some (1, 2)) 3 1).acked.getLsbD 0 = true ∧ (gone .ended (some (1, 2)) 3 1).marks.getLsbD 0 = true := by
  (repeat' apply And.intro) <;> decide +kernel

theorem witness_GridsBecomeTeamsAndRuns_final :
    (FMap.find (doneGrid none).hub.grids 1).isSome = true ∧ finalStatus (doneGrid none) 1 = some 1 ∧
      fieldAt ((doneGrid none).grid 1).pkt 0x30 8 = 0 ∧ ((doneGrid none).grid 1).q = none ∧ ((doneGrid (some 5)).grid 1).q = some 5 ∧
      finalStatus (doneGrid (some 5)) 1 = some 1 ∧ ((doneGrid (some 5)).grid 1).throt < 2 ^ 32 ∧ cqFull (doneGrid (some 5)) 5 = true := by
  (repeat' apply And.intro) <;> decide +kernel

/-- Grid 1 with a deadline that has passed, with a team to place and no other team. -/
def overdue (st : GridSt) (checked : Bool) (more : Nat) : State :=
  let s := gridded st checked (2 ^ 256 + more)
  { s.setGrid 1 { s.grid 1 with ranges := [(0, 0, 1)] } with hub := { (s.setGrid 1 { s.grid 1 with ranges := [(0, 0, 1)] }).hub with teams := [] } }

theorem witness_GridsBecomeTeamsAndRuns_deadline :
    ((overdue .waiting true 0).grid 1).deadline = 1 ∧ ((overdue .waiting true 0).grid 1).st = .waiting ∧
      ((overdue .waiting true 0).grid 1).checked = true ∧ ((overdue .waiting true 0).grid 1).fallback = 0 ∧
      packetBad ((overdue .waiting false 1).grid 1) = true ∧ ((overdue .running true 0).grid 1).st = .running ∧
      (overdue .running true 0).hub.teams = [] ∧ unplaced ((overdue .running true 0).grid 1) 0 = some (0, 1) ∧
      1 ≤ (overdue .running true 0).time.toNat ∧ ((overdue .running true 0).grid 1).missed = false ∧
      ((overdue .running true 0).grid 1).fault = false := by
  (repeat' apply And.intro) <;> decide +kernel

/-- A frame descriptor of 128 by 128 pixels with one draw of two teams, and its draw table (R182, R184). -/
def frameDesc : Nat := 1 + 128 * 2 ^ 16 + 128 * 2 ^ 32 + 2 ^ 48 + 0x80600 * 2 ^ 128 + 17 * 2 ^ 704
def drawEntry : Nat := 0x80700 + 2 * 2 ^ 64
/-- `reached` with that descriptor at 0x80400. -/
def framed : State := { reached with mem := writeBytes (writeBytes reached.mem 0x80400 256 frameDesc) 0x80600 16 drawEntry }
/-- Its frame, with every tile owned by core 0 of die 0. -/
def openFrame (opening : Bool) : Frame := { Frame.none with desc := BitVec.ofNat 2048 frameDesc, own := [0, 0, 0, 0], sites := 1, opening := opening }
/-- `framed` with slot 1 in a state, and a gate of die 0. -/
def gated (st : BitVec 64) (opening : Bool) (g : FMap Gate) (l : List PrimMsg) : State :=
  let s := (framed.setFrame 1 (openFrame opening)).setReg (frstatA 1) st
  { s.setDie 0 { s.die 0 with gates := g } with prims := l }
/-- A primitive packet at die 0 for frame 1 with a key. -/
def primMsg (key : BitVec 48) : PrimMsg :=
  { hdr := 5, lost := false, site := 0, prim := { frame := 1, key := key, payload := 0 }, team := 0, src := me, tag := 0 }
/-- A gate that waits for team 0 of draw 0, and the packet of its team 1. -/
def binning : State := gated 1 false [(1, Gate.reset)] [primMsg 0x1000]

theorem witness_FramesOpenBinAndFinish_opens :
    framed.frameSt 1 = 0 ∧ (framed.frame 1).opening = false ∧ getF (0x80401 : DWord) 2 0 = 1 ∧
      (checkFrame (framed.setReg (frctlA 1) (setF 0 47 8 (getF 0x80401 47 8))) (getF 0x80401 47 8 * 256)).2.1 = some (openFrame true) ∧
      (checkFrame (framed.setReg (frctlA 1) (setF 0 47 8 (getF 0x81001 47 8))) (getF 0x81001 47 8 * 256)).2.1 = none ∧
      (binning.frameSt 1 ≠ 0) ∧ binning.regF (frstatA 1) 4 4 = false.toNat ∧ getF (2 : DWord) 2 0 = 2 ∧
      ((gated 0 true [] []).frame 1).opening = true ∧ ((gated 0 true [] []).frame 1).sites.getLsbD 0 = true ∧
      FMap.find ((gated 0 true [] []).die 0).gates 1 = none ∧ (FMap.find ((gated 0 true [(1, Gate.reset)] []).die 0).gates 1).isSome = true ∧
      ((gated 0 true [] []).frame 1).acks ||| (1 : BitVec 48) <<< 0 = ((gated 0 true [] []).frame 1).sites := by
  (repeat' apply And.intro) <;> decide +kernel

theorem arrived_one {s : State} {m : PrimMsg} (h : s.mesh = []) (l : m.lost = false) (e : s.prims = [m]) : Arrived s m :=
  ⟨fun _ hx => absurd (h ▸ hx) List.not_mem_nil, l, [], [], e, fun _ hx => absurd hx List.not_mem_nil⟩
theorem not_arrived {s : State} {m : PrimMsg} {x : MeshMsg} (h : x ∈ s.mesh) (e : x.hdr = m.hdr) : ¬ Arrived s m := fun a => a.1 x h e
/-- `binning` whose packet is still at a router. -/
def underWay (s : State) : State := { s with mesh := [{ router := 1, hdr := 5, set := 0, slot := 1, data := 0 }] }

theorem witness_FramesOpenBinAndFinish_arrives :
    Arrived binning (primMsg 0x1000) ∧ ¬ Arrived (underWay binning) (primMsg 0x1000) ∧
      Arrived (gated 0 false [(1, Gate.reset)] [primMsg 0]) (primMsg 0) ∧
      Arrived (gated 1 false [(1, { Gate.reset with full := true })] [primMsg 0]) (primMsg 0) ∧
      Arrived (gated 1 false [(1, Gate.reset)] [primMsg 0x100000000]) (primMsg 0x100000000) :=
  ⟨arrived_one (by decide +kernel) (by decide +kernel) (by decide +kernel), not_arrived List.mem_cons_self (by decide +kernel),
    arrived_one (by decide +kernel) (by decide +kernel) (by decide +kernel), arrived_one (by decide +kernel) (by decide +kernel) (by decide +kernel),
    arrived_one (by decide +kernel) (by decide +kernel) (by decide +kernel)⟩

theorem witness_FramesOpenBinAndFinish_takes :
    (binning.prims.filter fun x => x.site == 0 && x.prim.frame == 1 && !x.lost && !x.marker)[0]? = some (primMsg 0x1000) ∧
      binning.frameSt 1 = 1 ∧ (FMap.find (binning.die 0).gates 1).isSome = true ∧ binning.gate 0 1 = Gate.reset ∧
      (binning.frame 1).ndraws = 1 ∧ (drawTeams binning 0 1 0).2 = 2 ∧
      Gate.reset.room (binning.frame 1).pool 0 = true ∧
      (let u := drawTeams binning 0 1 0
       let p := binPut (primTaken u.1 (primMsg 0x1000)) 0 1 (binning.frame 1) (u.1.gate 0 1) (stageList (primMsg 0x1000).prim) 0 (primMsg 0x1000).prim
       let v := curDraw (p.1.setGate 0 1 { p.2 with staged := [(primMsg 0x1000).prim] }) 0 1
       v.2 = (0x80700, 2) ∧ (readPa v.1 (gateWho binning 0 1) 0x80700 2 1).2 = some 0) ∧
      (gated 0 false [(1, Gate.reset)] [primMsg 0]).frameSt 1 = 0 ∧ ((gated 1 false [(1, { Gate.reset with full := true })] [primMsg 0]).gate 0 1).full = true ∧
      (binning.frame 1).ndraws ≤ (primMsg 0x100000000).prim.key.toNat / 2 ^ 32 := by
  (repeat' apply And.intro) <;> decide +kernel

/-- Team 7 at its end, with its marker under way to die 0. -/
def markerTeam (draw : Nat) : Team := gone .ended (some (1, draw)) 1 0
def marker (draw : Nat) : PrimMsg := { primMsg (teamKey draw 0) with marker := true, team := 7 }
def markerSent (draw : Nat) : State := { binning with hub := { binning.hub with teams := [(7, markerTeam draw)] }, prims := [marker draw] }
def markerGone : State := { gated 0 false [] [marker 0] with hub := { binning.hub with teams := [(7, markerTeam 0)] } }
/-- A gate past its last draw, whose partial render is or is not over. -/
def lastDraw (full : Bool) : State := gated 1 false [(1, { Gate.reset with d := 1, full := full })] []
/-- A frame whose latch is to be written, at 0x80800. -/
def latching : State :=
  (gated 3 false [] []).setFrame 1 { openFrame false with desc := BitVec.ofNat 2048 (frameDesc + 0x80800 * 2 ^ 448) }

theorem witness_FramesOpenBinAndFinish_ends :
    FMap.find (markerSent 0).hub.teams (marker 0).team = some (markerTeam 0) ∧
      (∀ d ∈ [0, 9], (((markerSent d).prims.filter fun x => x.marker && x.site == 0 && x.prim.frame == 1 && !x.lost && x.prim.key == teamKey d 0) =
        [marker d])) ∧
      ((markerSent 0).gate 0 1).full = false ∧ (markerSent 0).frameSt 1 ≠ 0 ∧ (FMap.find ((markerSent 0).die 0).gates 1).isSome = true ∧
      ((markerSent 9).frame 1).ndraws ≤ 9 ∧ markerGone.frameSt 1 = 0 ∧ markerGone.prims = [marker 0] ∧
      FMap.find markerGone.hub.teams (marker 0).team = some (markerTeam 0) ∧ (lastDraw false).frameSt 1 = 1 ∧ (FMap.find ((lastDraw false).die 0).gates 1).isSome = true ∧
      ((lastDraw false).gate 0 1).closed = false ∧ ((lastDraw false).gate 0 1).work = [] ∧
      ((lastDraw false).frame 1).ndraws ≤ ((lastDraw false).gate 0 1).d ∧ ((lastDraw true).gate 0 1).full = true ∧
      ((lastDraw true).gate 0 1).part = [] := by
  (repeat' apply And.intro) <;> decide +kernel

/-- `markerSent 0` at a gate that is full. -/
def markerHeld : State := (markerSent 0).setDie 0 { (markerSent 0).die 0 with gates := [(1, { Gate.reset with full := true })] }

theorem witness_FramesOpenBinAndFinish_markers :
    Arrived (markerSent 0) (marker 0) ∧ Arrived (markerSent 9) (marker 9) ∧ Arrived markerGone (marker 0) ∧ Arrived markerHeld (marker 0) ∧
      (markerHeld.gate 0 1).full = true ∧ ¬ Arrived (underWay (markerSent 0)) (marker 0) :=
  ⟨arrived_one (by decide +kernel) (by decide +kernel) (by decide +kernel), arrived_one (by decide +kernel) (by decide +kernel) (by decide +kernel),
    arrived_one (by decide +kernel) (by decide +kernel) (by decide +kernel), arrived_one (by decide +kernel) (by decide +kernel) (by decide +kernel),
    by decide +kernel, not_arrived List.mem_cons_self (by decide +kernel)⟩

theorem witness_FramesOpenBinAndFinish_latch :
    latching.frameSt 1 = 3 ∧ (latching.frame 1).rel ≤ latching.time.toNat ∧ fieldAt (latching.frame 1).desc 0x38 8 = 0x80800 ∧
      region 0x80800 = .hbm 0 ∧ siteSt latching 48 0 = stOk ∧ portSt latching 0x80800 true = stOk ∧
      LineWhole latching (lineOf 0x80800) := by
  (repeat' apply And.intro) <;> decide +kernel

/-- `loaded` with a command of translation invalidation running, and with an ACCST that has its translations. -/
def invalidating : State := loaded.setReg tlbistatA 1
/-- A store of a pair's leader that has been translated and not yet performed. -/
def heldStore : AsyncOp := { load with op := 1, path := 1, held := true, res := [oneLane] }
def owing : State := withW loaded fun w => { w with ops := [heldStore] }
def storing : State := { owing.setReg tlbistatA 1 with hub := { (owing.setReg tlbistatA 1).hub with inval := [(me, 0)] } }
/-- A warp with a trap vector that waits on fault record 3 of its die. -/
def faultRec : FRec := { seq := 3, idx := 0, va := 0x300000, root := 0, reason := 1, waiters := [me] }
def faulting : State :=
  let s := withW vectored fun w => { w with park := .fault [(3, 1, 0x300000)] false none }
  s.setDie 0 { s.die 0 with fq0 := { (s.die 0).fq0 with next := 4, recs := [faultRec] } }
/-- A warp that waits for a place in a fault queue, for a page that is there (0x80008) or missing (0x300000). -/
def stall (va : Nat) : Stall := { who := me, va := va, lanes := 1, root := 0, flags := 0 }
def stalledAt (va : Nat) : State :=
  let s := (withW loaded fun w => { w with park := .fault [] true none }).setReg (fqbaseA 0 0) 0x40001
  s.setDie 0 { s.die 0 with fq0 := { (s.die 0).fq0 with next := 4, stalled := [stall va] } }

theorem witness_TranslationFaultsAndWaits_invalidates :
    loaded.regF tlbistatA 0 0 = 0 ∧ getF (0x4000000000000000 : DWord) 63 62 = 1 ∧ getF (0xC000000000000000 : DWord) 63 62 = 3 ∧
      getF (0x8000000000000000 : DWord) 63 62 = 2 ∧ invalidating.regF tlbistatA 0 0 = 1 ∧ invalidating.hub.inval.any (stillOwed invalidating) = false ∧
      storing.regF tlbistatA 0 0 = 1 ∧ storing.hub.inval.any (stillOwed storing) = true ∧ owing.regF tlbistatA 0 0 = 0 ∧
      (owing.wref me).ops = [heldStore] ∧ heldStore.unwritten = true ∧ heldStore.res ≠ [] ∧ (owing.gridOf (owing.wref me)).sec = false ∧
      (0x4000000000000000 : DWord).getLsbD 61 = false ∧ (0x6000000000000000 : DWord).getLsbD 61 = true ∧ (base.reg (fqbaseA 0 0)).getLsbD 0 = false := by
  (repeat' apply And.intro) <;> decide +kernel

theorem witness_TranslationFaultsAndWaits_replays :
    ((faulting.die 0).fq 0).recs = [faultRec] ∧ getF (0x4000000000000003 : DWord) 31 0 = 3 ∧
      (faulting.wref me).park = .fault [(3, 1, 0x300000)] false none ∧ (faulting.wref me).shadow = false ∧ Stands faulting me ∧
      (faulting.wref me).hflag = false ∧ (faulting.team (faulting.wref me).team).trapvec ≠ 0 := by
  (repeat' apply And.intro) <;> decide +kernel

theorem witness_TranslationFaultsAndWaits_retries :
    ((stalledAt 0x80008).die 0).fq0.stalled = [stall 0x80008] ∧ canRecord (stalledAt 0x80008) 0 0 = true ∧
      ((stalledAt 0x80008).wref me).park = .fault [] true none ∧
      (findPage ((stalledAt 0x80008).setDie 0 (((stalledAt 0x80008).die 0).setFq 0 { ((stalledAt 0x80008).die 0).fq 0 with stalled := [] })) 0 (some 0) 0
        false 0x80008).2.isSome = true ∧
      (let u := findPage ((stalledAt 0x300000).setDie 0 (((stalledAt 0x300000).die 0).setFq 0 { ((stalledAt 0x300000).die 0).fq 0 with stalled := [] }))
         0 (some 0) 0 false 0x300000
       u.2 = some (.fault 1 1) ∧ (reportFault u.1 0 false 0x300000 0 1 1 0 0 me 1).2 = some 4) := by
  (repeat' apply And.intro) <;> decide +kernel

/-- A die whose dispatcher waits for a place in a fault queue with a descriptor of grid 0, for a page that is there. -/
def kdStall : Stall := { stall 0x80008 with kd := some 0 }
def kdEntry : KdWait := { g := 0, world := 0, seq := 0, killed := false }
def stalledKd : State :=
  let s := loaded.setReg (fqbaseA 0 0) 0x40001
  s.setDie 0 { s.die 0 with
    clTlb := [(12, [{ root := 0, sec := false, big := false, vpage := 1, pte := BitVec.ofNat 64 (3 * 2 ^ 62 + 0x61), entry := 0 }])]
    kdWait := [kdEntry], fq0 := { (s.die 0).fq0 with next := 4, stalled := [kdStall] } }

theorem witness_TranslationFaultsAndWaits_descriptors :
    ((stalledKd.die 0).fq 0).stalled = [kdStall] ∧ canRecord stalledKd 0 0 = true ∧ kdStall.kd = some 0 ∧ (stalledKd.die 0).kdWait = [kdEntry] ∧
      kdEntry.g = 0 ∧ kdEntry.seq = 0 ∧
      (let u := (findPage (stalledKd.setDie 0 ((stalledKd.die 0).setFq 0 { (stalledKd.die 0).fq 0 with stalled := [] })) 0 none 0 false 0x80008).2
       u ≠ some (.fault 1 1) ∧ u.isSome = true) := by
  (repeat' apply And.intro) <;> decide +kernel

/-- `base` with the promotion log, with a watch and a wait on it, and with a feed under way. -/
def logged : State := withC base fun c => { c with plog := [{ line := some 4096, seq := 1, slot := 0 }, { line := some 4097, seq := 2, slot := 0 }] }
def parkedWatch (fired : Bool) : State :=
  withC (withW base fun w => { w with watch := some { line := 4096, near := true, fired := fired }, park := .smwait 5 (some 7), parkAt := 0 }) fun c =>
    { c with clk := 7 }
def feeding : State := withC loaded fun c => { c with feeds := [command loaded .feed (0x80008 + 0x00000001000000010000000100000001 * 2 ^ (8 * 0x18)) 0 0 0 none] }
/-- A COPY of 8 bytes from 0x80008 to 0x80100 at the engines of die 0. -/
def copyCmd : EngOp := command base .copy (0x80008 + 0x80100 * 2 ^ 64 + 8 * 2 ^ 128) 0 0 0 none
def copyingBytes : State :=
  let s := withW loaded fun w => { w with ops := [{ load with path := 3, engine := true }], cnt := [(3, 1)] }
  s.setDie 0 { s.die 0 with copies := [copyCmd], clTlb := [(12, [placedTlb 0 false])] }

theorem witness_TranslationFaultsAndWaits_queues :
    base.dieUp 0 = true ∧ base.coreOn 0 0 = true ∧ (FMap.get OpQueue.none (base.core 0 0).queues 0).count + getF (5 : DWord) 7 0 ≤ 128 ∧
      128 < (FMap.get OpQueue.none (matrix.core 0 0).queues 0).count + getF (5 : DWord) 7 0 ∧
      (logged.core 0 0).plog = [] ++ { line := some 4096, seq := 1, slot := 0 } :: [{ line := some 4097, seq := 2, slot := 0 }] ∧
      Stands (parkedWatch true) me ∧ ((parkedWatch true).wref me).watch = some { line := 4096, near := true, fired := true } ∧
      ((parkedWatch true).wref me).park = .smwait 5 (some 7) ∧
      ((parkedWatch false).wref me).watch = some { line := 4096, near := true, fired := false } ∧
      ((parkedWatch false).wref me).parkAt + 7 ≤ ((parkedWatch false).core 0 0).clk + ((parkedWatch false).wref me).parkPast := by
  (repeat' apply And.intro) <;> decide +kernel

theorem witness_TranslationFaultsAndWaits_engines :
    feedFor (feeding.core 0 0) 0 = some (command loaded .feed (0x80008 + 0x00000001000000010000000100000001 * 2 ^ (8 * 0x18)) 0 0 0 none) ∧
      (FMap.get OpQueue.none (feeding.core 0 0).queues 0).count < 128 ∧
      (let e := command loaded .feed (0x80008 + 0x00000001000000010000000100000001 * 2 ^ (8 * 0x18)) 0 0 0 none
       seqRoom feeding 0 0 false (2 * feedPerRow e.desc.toNat e.fb) = true ∧
       (feedRow (if e.pos = 0 then acquireAct feeding 0 0 e.scope else feeding) e (feedSize e.desc.toNat e.fb) (feedPerRow e.desc.toNat e.fb) (e.pos * feedPerRow e.desc.toNat e.fb)).2.2 = none) ∧
      (copyingBytes.core 0 0).feeds = [] ∧ (copyingBytes.die 0).copies = [copyCmd] ∧ engObject copyCmd = 0 ∧
      (copyingBytes.wref me).ops = [{ load with path := 3, engine := true }] ∧
      (copyChunks copyingBytes (dieWho 0 (engCode copyCmd) false) 0 0x80008 0x80100 8 (copyPiece 0x80008 0x80100 8) 2 0).2.fail = none := by
  (repeat' apply And.intro) <;> decide +kernel

/-- An entry of the SSCB that the leader has made ready, of a check or of a store. -/
def sscbEnt (path : Nat) : SscbEnt :=
  { lane := false, sig := 9, ins := .sst 2 4 2 0, pc := 0, tag := 0, path := path, ready := true, matched := false }
/-- A trailing warp that has the same signature, whose leader holds that store. -/
def comparing (path : Nat) : State :=
  (withW base fun w => { w with shadow := true, mate := some other, sscb := [sscbEnt path], sigs := [(false, some 9)] }).setWref other
    { base.curW with mate := some base.curRef, ops := [{ load with op := 1, path := 1, held := true }] }
/-- A warp with a watchdog limit that has waited too long. -/
def watched : State :=
  withC (withW (vectored.setReg (ctlAddr 0 0 0x30) 1) fun w => { w with park := .swait 0 0 }) fun c => { c with clk := 65537 }

theorem witness_TranslationFaultsAndWaits_pairs :
    ((comparing 4).wref me).mate = some other ∧ ((comparing 4).wref me).shadow = true ∧ ((comparing 4).wref me).sscb = [sscbEnt 4] ∧
      ((comparing 1).wref me).sscb = [sscbEnt 1] ∧ ((comparing 1).wref me).sigs = [(false, some 9)] ∧
      ((comparing 1).wref other).ops = [{ load with op := 1, path := 1, held := true }] ∧
      seqRoom (comparing 1) other.site other.core false 32 = true ∧
      warpKey me.site me.core me.slot ≠ warpKey other.site other.core other.slot := by
  (repeat' apply And.intro) <;> decide +kernel

theorem witness_TranslationFaultsAndWaits_watchdog :
    Stands watched me ∧ (watched.wref me).hflag = false ∧ (watched.team (watched.wref me).team).trapvec ≠ 0 ∧
      watched.regF (ctlAddr 0 0 0x30) 15 0 * 65536 = 65536 ∧ (watched.wref me).parkAt + 65536 < (watched.core 0 0).clk + (watched.wref me).parkPast ∧
      (watched.wref me).park = .swait 0 0 := by
  (repeat' apply And.intro) <;> decide +kernel

/-- `base` with a pre-emption running, with team 0 held back or not; and with team 0 saved and held, or returning to its die. -/
def preempting : State := { base.setReg pestatA 1 with hub := { base.hub with pe := some { teams := [0] } } }
def heldTeam : State := base.setTeam 0 { base.team 0 with st := .saved, hold := true }
def returning : State :=
  let s := base.setGrid 1 { Grid.none with pkt := packet 0, st := .running, checked := true, ranges := [(0, 1, 1)], ready := 1 }
  let u := s.setTeam 3 { Team.none with g := 1, st := .returning, gran := 4, ngran := 1, target := 63, kept := [{ Warp.none with resident := true, team := 3, pinned := 1 }] }
  u.setDie 0 { u.die 0 with grids := [1], clTlb := [(12, [placedTlb 0 false])] }

theorem witness_TeamsAreSavedAndRestored_commands :
    peNamed base 0x4000000000001000 = [] ∧ getF (0x4000000000001000 : DWord) 63 62 = 1 ∧ base.regF pestatA 0 0 = 0 ∧
      preempting.regF pestatA 0 0 = 1 ∧ peNamed base 0x6000000000000000 = [(0, none)] ∧ getF (0x6000000000000000 : DWord) 63 62 = 1 ∧
      (base.grid 0).sec = false ∧ getF (0xA000000000000FC0 : DWord) 63 62 = 2 ∧ getF (0xA000000000000FC0 : DWord) 11 6 = 63 ∧
      peNamed heldTeam 0xA000000000000FC0 = [(0, none)] := by
  (repeat' apply And.intro) <;> decide +kernel

theorem witness_TeamsAreSavedAndRestored_saves :
    preempting.hub.pe = some { teams := [0] } ∧ (FMap.find preempting.hub.teams 0).isSome = true ∧ (preempting.team 0).st = .running ∧
      teamWarps preempting (preempting.team 0) = [me] ∧ atRest preempting me = true := by
  (repeat' apply And.intro) <;> decide +kernel

/-- Whether an access through the page tables has succeeded. -/
def vmOk (v : Vm) : Bool := match v with | .ok _ => true | _ => false

theorem witness_TeamsAreSavedAndRestored_restores :
    let x := returning.grid 1
    let tm := returning.team 3
    returning.dieUp 0 = true ∧ dispatchOrder returning 0 = [1] ∧ returnee returning 0 1 = some 3 ∧
      (returnCore returning 0 3).isSome = true ∧ tm.site = 0 ∧
      vmOk (vmLoads returning (dieWho 0 48 x.sec) x.root (x.ctx tm.t + 4096 + x.wc * 200704) 32 (32 * tm.ngran)).2 = true ∧
      tm.kept.length = 1 ∧
      (tm.kept.all fun w => vmOk (vmLoads returning (dieWho 0 52 x.sec) x.root (imageVa x tm w.wid w.shadow) 32 128).2) = true := by
  (repeat' apply And.intro) <;> decide +kernel

/-! Words written out from R379 to R391, of the families that `Obligations.WordsDecodeAsWritten` names no word of. -/

theorem test_decode_iset : decodeLane 0x044E00800A64500000000200 = .ok (.iset always { d := 8, a := 20, b := 6420, c := 0, m := 0x200 }) := by decide +kernel
theorem test_decode_lmulw : decodeLane 0x120E01900600400000000080 = .ok (.lmulw always { d := 25, a := 12, b := 16, c := 0, m := 0x80 }) := by decide +kernel
theorem test_decode_ffma : decodeLane 0x20CE00400400330200000005 = .ok (.ffma always { d := 4, a := 8, b := 12, c := 6160, m := 5 }) := by decide +kernel
theorem test_decode_dfma : decodeLane 0x30CE00900880640420000001 = .ok (.dfma always { d := 9, a := 17, b := 25, c := 33, m := 1 }) := by decide +kernel
theorem test_decode_hset2 : decodeLane 0x414E00400400300200000310 = .ok (.hset2 always { d := 4, a := 8, b := 12, c := 16, m := 0x310 }) := by decide +kernel
theorem test_decode_drsq : decodeLane 0x624E00900880000000000004 = .ok (.drsq always { d := 9, a := 17, b := 0, c := 0, m := 4 }) := by decide +kernel
theorem test_decode_elect : decodeLane 0x71CE01800000000000000000 = .ok (.elect always { d := 24, a := 0, b := 0, c := 0, m := 0 }) := by decide +kernel
theorem test_decode_st : decodeLane 0x804E0000108053FFFE000002 = .ok (.st always { d := 0, a := 33, b := 20, off := 0xFFFF8, m := 2 }) := by decide +kernel
theorem test_decode_pnot : decodeLane 0xA0CE00400400000000000000 = .ok (.pnot always { d := 4, a := 8, b := 0, c := 0, m := 0 }) := by decide +kernel
theorem test_decode_lcall : decodeLane 0xA18E010FFFFFE00000000000 = .ok (.lcall always { a := 16, off := 0xFFFFFE, m := 0 }) := by decide +kernel
theorem test_decode_accz : decodeLane 0xB0CE2000000000000000000F = .ok (.accz always { zd := 16, qa := 0, qb := 0, fbq := 0, shape := 0, x := 0, m := 15 }) := by decide +kernel
theorem test_decode_mmaw : decodeLane 0xB08E10518800000000000001 = .ok (.mmaw always { zd := 8, qa := 1, qb := 2, fbq := 12, shape := 1, x := 0, m := 1 }) := by decide +kernel
theorem test_decode_tex : decodeLane 0xC0CE012010E4240000000200 = .ok (.tex always { d := 18, a := 33, b := 6409, c := 0, m := 0x200 }) := by decide +kernel
theorem test_decode_sadd64 : decodeScalar 0x04418820 = .ok (.sadd64 4 6 8) := by decide +kernel
theorem test_decode_scmp : decodeScalar 0x04418813 = .ok (.scmp 3 4 6 8) := by decide +kernel
theorem test_decode_sst : decodeScalar 0x2C5182FF = .ok (.sst 5 6 2 0xFF) := by decide +kernel
theorem test_decode_bra : decodeScalar 0x4087FFFE = .ok (.bra 2 7 0xFFFE) := by decide +kernel
theorem test_decode_fence : decodeScalar 0x94000013 = .ok (.fence 4 3) := by decide +kernel
theorem test_decode_rbget : decodeScalar 0xA0000510 = .ok (.rbget 5 16) := by decide +kernel
theorem test_decode_copy : decodeScalar 0xB8020904 = .ok (.copy 8 9 4) := by decide +kernel
theorem test_decode_rejects :
    decodeScalar 0xFC000000 = .err .unassignedOpcode ∧ decodeScalar 0x040000FF = .err .unassignedFn ∧
      decodeLane 0xF00E00000000000000000000 = .err .unassignedClass ∧ decodeLane 0x001E00000000000000000001 = .err .badPredicate := by
  (repeat' apply And.intro) <;> decide +kernel

/-- The word of an L3 instruction on v1, v2 and v3. -/
def l3v (m : BitVec 29) : L3 := { d := 4, a := 8, b := 12, c := 0, m := m }

theorem test_ill_formed_scalar :
    (wellFormed (.sadd64 1 2 4) || wellFormed (.scmp 10 1 2 3) || wellFormed (.sldc 2 0 0 2) || wellFormed (.fence 6 1) ||
      wellFormed (.fence 0 0) || wellFormed (.bra 7 1 0) || wellFormed (.loop 1 63 0) || wellFormed (.swait 1 4) || wellFormed (.rbget 40 9) ||
      wellFormed (.rbput 0 17) || wellFormed (.rbget 0 0) || wellFormed (.feed 2 3 0) || wellFormed (.nbr 2 3 1) || wellFormed (.phase 1 2 8) ||
      wellFormed (.sread 2 0x0F) || wellFormed (.sread 3 0x18) || wellFormed (.swrite 2 0x10)) = false := by decide +kernel
theorem test_ill_formed_fields :
    (wellFormed (.iadd { s := false, pred := 15 } (l3v 0)) || wellFormed (.iadd always { l3v 0 with d := 5 }) ||
      wellFormed (.iadd always { l3v 0 with d := 6400 }) || wellFormed (.iadd always { l3v 0 with a := 6176 }) ||
      wellFormed (.iadd always { l3v 0 with c := 4 }) || wellFormed (.iadd always (l3v 1)) || wellFormed (.iadd always (l3v 0x80)) ||
      wellFormed (.iadd { s := false, pred := 0 } { d := 0, a := 0, b := 0, c := 0, m := 0 }) || wellFormed (.ladd always { l3v 0 with d := 5 }) ||
      wellFormed (.iset always { l3v 0xA00 with d := 4 }) || wellFormed (.iset always { l3v 0x200 with d := 28 }) ||
      wellFormed (.movi always { d := 4, a := 1, imm := 0, m := 0 })) = false := by decide +kernel
theorem test_ill_formed_formats :
    (wellFormed (.hadd2 always (l3v 0)) || wellFormed (.hset2 always { l3v 0x10 with c := 4 }) ||
      wellFormed (.cvt always { d := 4, a := 8, b := 0, c := 0, m := 10 * 8 }) || wellFormed (.pk8 always { d := 4, a := 8, b := 0, c := 0, m := 4 * 8 }) ||
      wellFormed (.shfl always (l3v 0x200)) || wellFormed (.bcast always { l3v 0 with a := 9 }) ||
      wellFormed (.redux always { d := 4, a := 8, b := 0, c := 0, m := 0x300 })) = false := by decide +kernel
theorem test_ill_formed_memory :
    (wellFormed (.ld always { d := 16, a := 9, b := 0, off := 0, m := 6 }) || wellFormed (.ld always { d := 16, a := 9, b := 0, off := 0, m := 0x402 }) ||
      wellFormed (.ld always { d := 16, a := 9, b := 0, off := 0, m := 0xC2 }) || wellFormed (.st always { d := 0, a := 9, b := 4, off := 0, m := 0xA }) ||
      wellFormed (.ld always { d := 6144, a := 9, b := 0, off := 0, m := 2 }) || wellFormed (.atom always { d := 16, a := 9, b := 4, off := 0, m := 0x2402 }) ||
      wellFormed (.mmag always { zd := 0, qa := 0, qb := 1, fbq := 0, shape := 1, x := 6401, m := 0 }) ||
      wellFormed (.mma always { zd := 0, qa := 0, qb := 1, fbq := 2, shape := 0, x := 0, m := 0 }) ||
      wellFormed (.accld always { zd := 0, qa := 0, qb := 0, fbq := 0, shape := 0, x := 9, m := 0 }) ||
      wellFormed (.accld always { zd := 0, qa := 0, qb := 0, fbq := 0, shape := 0, x := 6401, m := 8 }) ||
      wellFormed (.tilew always { d := 0, a := 17, b := 0, c := 0, m := 0x180 }) ||
      wellFormed (.tex always { d := 18, a := 33, b := 6409, c := 0, m := 0x300 })) = false := by decide +kernel
theorem test_ill_formed_events :
    (wellFormed (.runStart { site := 48, core := 0, slot := 0 }) || wellFormed (.memoryPortRequest 0 { req 0x80008 with size := 3 }) ||
      wellFormed (.windowAccess 0 (req 0x80009)) || wellFormed (.routerReceive 49 0 0 0) || wellFormed (.frameOpen 16 1 true) ||
      wellFormed (.sqStart 1024 1 true) || wellFormed (.qctlWrite 0 0 8 0) || wellFormed (.fqbaseEnable 0 2 1 true)) = false := by decide +kernel

theorem test_reset_canonical : State.reset.Canonical := by unfold State.Canonical; decide +kernel

/-- `base` with the word of SLUI at its turn, with no legal word there, and the lane runs of R230 at their 24th place. -/
def badWord : State := State.reset.withFetchWord 32 0xFC000000
def tooLong : State :=
  let s := State.reset.withFetchWord 96 0x000E00000064500000000000
  let w := s.warp 0 0 0
  s.setWarp 0 0 0 { w with lane := { w.lane with s0 := { w.lane.s0 with cnt := 23 } } }
/-- Two LIVE slots, of which the one whose turn it is issued last; and an event on the model's agenda. -/
def bothLive : State :=
  let w := lanePlaced.warp 0 0 0
  lanePlaced.setWarp 0 0 0 { w with lane := { w.lane with s0 := { w.lane.s0 with mask := 3 }, s1 := { w.lane.s0 with mask := 12 } }, lastOne := false }
def planned : State := { base with agenda := [.ptpDelayReq] }
/-- The state in which a turn is taken. -/
def atTurn (s : State) : State := { s with turns := [], cur := s.turns.headD { site := 0, core := 0, slot := 0, lane := none } }

theorem witness_StepRunsTheDecodedInstruction_scalar :
    base.trust.bootFail = false ∧ base.agenda = [] ∧ base.turns = [{ site := 0, core := 0, slot := 0, lane := none }] ∧
      outOfTurn (atTurn base) = false ∧ turnOpen (atTurn base) = true ∧ trapDue (atTurn base) = none ∧ (atTurn base).pairReady = true ∧
      (fetch (atTurn base)).2 = .word 0x24541800 ∧ decodeScalar 0x24541800 = .ok (.slui 5 0x41800) ∧ wellFormed (.slui 5 0x41800) = true ∧
      (fetch (atTurn badWord)).2 = .word 0xFC000000 ∧ (fetch (atTurn badWord)).1.role = .alone ∧
      (decodeScalar 0xFC000000).toOption = none := by
  (repeat' apply And.intro) <;> decide +kernel

/-- `base` with SYNCL at its turn and a run queued: it stays where it is. -/
def synclWaits : State := withW (State.reset.withFetchWord 32 0x68600000) fun w => { w with queue := [runEntry false] }

theorem witness_StepRunsTheDecodedInstruction_issues :
    (atTurn base).curCore.ports ≠ 0 ∧
      nextHas (exec (.slui 5 0x41800) (fetch (atTurn base)).1) (fun x =>
        hasIssued (fetch (atTurn base)).1 x (.word 0x24541800) && !fatalIn (atTurn base) x) = true ∧
      (atTurn synclWaits).curCore.ports ≠ 0 ∧ outOfTurn (atTurn synclWaits) = false ∧ turnOpen (atTurn synclWaits) = true ∧
      trapDue (atTurn synclWaits) = none ∧ (fetch (atTurn synclWaits)).2 = .word 0x68600000 ∧ decodeScalar 0x68600000 = .ok (.syncl 6) ∧
      nextHas (exec (.syncl 6) (fetch (atTurn synclWaits)).1) (fun x => !hasIssued (fetch (atTurn synclWaits)).1 x (.word 0x68600000)) = true := by
  (repeat' apply And.intro) <;> decide +kernel

/-- `bothLive` as the turn of slot 1 comes first. -/
theorem witness_StepRunsTheDecodedInstruction_second :
    nextHas (issueOne { (atTurn bothLive) with cur := { (atTurn bothLive).cur with lane := some true } }) (fun _ => true) = true := by decide +kernel

theorem witness_StepRunsTheDecodedInstruction_lane :
    lanePlaced.turns = [{ site := 0, core := 0, slot := 0, lane := some false }] ∧ outOfTurn (atTurn lanePlaced) = false ∧
      turnOpen (atTurn lanePlaced) = true ∧ trapDue (atTurn lanePlaced) = none ∧ (atTurn lanePlaced).pairReady = true ∧
      (fetch (atTurn lanePlaced)).2 = .word 0x002E00000064500000000000 ∧ (decodeLane 0x002E00000064500000000000).toOption.isSome = true ∧
      (0x002E00000064500000000000 : BitVec 96).getLsbD 85 = true ∧ (fetch (atTurn tooLong)).2 = .word 0x000E00000064500000000000 ∧
      ((fetch (atTurn tooLong)).1.curW.lane.slot false).cnt = 23 ∧ (0x000E00000064500000000000 : BitVec 96).getLsbD 85 = false ∧
      outOfTurn (atTurn tooLong) = false ∧ turnOpen (atTurn tooLong) = true ∧ trapDue (atTurn tooLong) = none := by
  (repeat' apply And.intro) <;> decide +kernel

theorem witness_StepRunsTheDecodedInstruction_order :
    bothLive.turns = [{ site := 0, core := 0, slot := 0, lane := some false }] ∧ (atTurn bothLive).curW.lane.s0.st = .live ∧
      (atTurn bothLive).curW.lane.s1.st = .live ∧ (atTurn bothLive).curW.lastOne = false ∧
      planned.trust.bootFail = false ∧ planned.agenda = [.ptpDelayReq] ∧ instrBytes .ptpDelayReq = 0 ∧ wellFormed .ptpDelayReq = true := by
  (repeat' apply And.intro) <;> decide +kernel

theorem witness_DecodeInvertsEncode :
    wellFormed (.slui 5 0x41800) = true ∧ instrBytes (.slui 5 0x41800) = 4 ∧ instrBytes (.iadd always (l3v 0)) = 12 ∧
      decode (leBytes 4 0x24541800) = .ok (.slui 5 0x41800) := by
  (repeat' apply And.intro) <;> decide +kernel

theorem witness_StepsKeepMemoryCanonical : base.Canonical := by unfold State.Canonical; decide +kernel
end Sys2Proof.Tests
end

section
/-! PHASE (R216, R506). The record that it writes, given by name; one equation for each of its two cases; what the end of a scalar
instruction leaves of the core and the dies. -/
namespace Sys2Proof.Machine

/-- The core with `p` as its declaration record, which counts in the class of the running window (R216, R219). -/
def Core.withRecord (c : Core) (p : PhaseRec) : Core :=
  { c with phase := some p, phLast := p, winCls := some (max (c.winClass.getD 0) p.cls) }

/-- A record in force once a PHASE at clk `now` has raised its class and put off its end (R216). -/
def PhaseRec.extend (p : PhaseRec) (now onset len cls : Nat) : PhaseRec :=
  { tg := p.tg, te := max p.te (now + max onset 256 + len * 256), cls := max p.cls cls }

/-- The clk from which the cluster of the executing core may start another record (R216). -/
def State.clusterFree (s : State) : Nat :=
  match FMap.find (s.die s.cur.site).tlast (s.sliceOf s.cur.site s.cur.core) with
  | some x => x + 128
  | none => 0

/-- The granted start of a record that a PHASE creates now (R216). -/
def State.grant (s : State) (onset : Nat) : Nat :=
  min (max (s.curCore.clk + onset) (max (s.curCore.clk + 256) s.clusterFree)) (s.curCore.clk + max onset 256 + 1920)

/-- The record that a PHASE creates now (R216). -/
def State.newRecord (s : State) (onset len cls : Nat) : PhaseRec :=
  { tg := s.grant onset, te := s.grant onset + len * 256, cls := cls }

/-- The die of the executing core with `tg` as the last granted start of the core's cluster (R216). -/
def State.granted (s : State) (tg : Nat) : Die :=
  { s.die s.cur.site with tlast := FMap.set (s.die s.cur.site).tlast (s.sliceOf s.cur.site s.cur.core) tg }

theorem Core.withRecord_phase (c : Core) (p : PhaseRec) : (c.withRecord p).phase = some p := rfl

/-- Writing a record leaves every other field of the core alone. -/
theorem Core.withRecord_frame (c : Core) (p : PhaseRec) :
    c.withRecord p =
      { c with phase := (c.withRecord p).phase, phLast := (c.withRecord p).phLast, winCls := (c.withRecord p).winCls } := rfl

theorem State.granted_tlast (s : State) (tg : Nat) :
    FMap.find (s.granted tg).tlast (s.sliceOf s.cur.site s.cur.core) = some tg := by
  rw [State.granted, FMap.find_set, if_pos rfl]

theorem State.setC_setDie_curCore (s : State) (c : Core) (site : Nat) (d : Die) : ((s.setC c).setDie site d).curCore = c := by
  rw [State.setDie_curCore, State.setC_curCore]

theorem OnlyWarp.curCore {s t : State} (h : OnlyWarp s t) : t.curCore = s.curCore := by rw [h.1]; rfl
theorem OnlyWarp.die {s t : State} (h : OnlyWarp s t) (site : Nat) : t.die site = s.die site := by rw [h.1]; rfl

theorem exec_phase (a b : BitVec 6) (cls : BitVec 8) (s : State) : exec (.phase a b cls) s = execPhase a b cls s := rfl

/-- From `s` to `t` PHASE has written the record `p`: the warp is at its next word with its registers, memory is as before, and so
is the core but for its record and the class of its window. -/
def WritesRecord (s t : State) (p : PhaseRec) : Prop :=
  NextWord s t ∧ t.curW.s = s.curW.s ∧ t.mem = s.mem ∧
    t.curCore = { s.curCore with phase := t.curCore.phase, phLast := t.curCore.phLast, winCls := t.curCore.winCls } ∧
    t.curCore.phase = some p

/-- A scalar instruction that has written a record into `u` and ends there. -/
theorem retire_writesRecord {s u : State} {p : PhaseRec} (hcore : u.curCore = s.curCore.withRecord p) (hmem : u.mem = s.mem) :
    ∃ t, u.retire s.curW = .next t ∧ WritesRecord s t p ∧ ∀ site, t.die site = u.die site := by
  obtain ⟨t, ht, hframe, hw⟩ := u.retire_spec s.curW
  have hc : t.curCore = s.curCore.withRecord p := hframe.curCore.trans hcore
  refine ⟨t, ht, ⟨?_, ?_, hframe.mem.trans hmem, ?_, ?_⟩, hframe.die⟩
  · rw [NextWord, Warp.plain_pc_of hw, Warp.step_pc]
  · rw [Warp.plain_s_of hw, Warp.step_s]
  · rw [hc]; exact Core.withRecord_frame _ _
  · rw [hc, Core.withRecord_phase]

section Cases
variable {s : State} {a b : BitVec 6} (cls : BitVec 8) (hon : (s.curW.rd a).toNat ≤ 65535) (hlo : 1 ≤ (s.curW.rd b).toNat)
  (hhi : (s.curW.rd b).toNat ≤ 4095)
include hon hlo hhi

/-- The operands of PHASE that R506 allows pass its check. -/
theorem phase_operands_allowed :
    ¬(decide (65535 < (s.curW.rd a).toNat) || decide ((s.curW.rd b).toNat = 0) || decide (4095 < (s.curW.rd b).toNat)) = true := by
  simp only [Bool.or_eq_true, decide_eq_true_eq]
  omega

theorem execPhase_of_inForce {p : PhaseRec} (hp : s.curCore.phase = some p) (ht : s.curCore.clk < p.te) :
    execPhase a b cls s =
      (s.setC (s.curCore.withRecord (p.extend s.curCore.clk (s.curW.rd a).toNat (s.curW.rd b).toNat cls.toNat))).retire s.curW := by
  unfold execPhase
  simp only [if_neg (phase_operands_allowed hon hlo hhi), hp, if_pos ht]
  rfl

theorem execPhase_of_not_inForce (h : ∀ p, s.curCore.phase = some p → p.te ≤ s.curCore.clk) :
    execPhase a b cls s =
      ((s.setC (s.curCore.withRecord (s.newRecord (s.curW.rd a).toNat (s.curW.rd b).toNat cls.toNat))).setDie s.cur.site
        (s.granted (s.grant (s.curW.rd a).toNat))).retire s.curW := by
  unfold execPhase State.newRecord State.grant
  simp only [if_neg (phase_operands_allowed hon hlo hhi), ← max_assoc]
  cases hp : s.curCore.phase with
  | none => rfl
  | some p =>
    simp only [if_neg (Nat.not_lt.mpr (h p hp))]
    rfl

/-- PHASE with a record in force keeps its granted start and extends it (R216). -/
theorem exec_phase_extends {p : PhaseRec} (hp : s.curCore.phase = some p) (ht : s.curCore.clk < p.te) :
    ∃ t, exec (.phase a b cls) s = .next t ∧
      WritesRecord s t (p.extend s.curCore.clk (s.curW.rd a).toNat (s.curW.rd b).toNat cls.toNat) := by
  rw [exec_phase, execPhase_of_inForce cls hon hlo hhi hp ht]
  obtain ⟨t, ht, hwrites, -⟩ := retire_writesRecord (s.setC_curCore _) (s.setC_mem _)
  exact ⟨t, ht, hwrites⟩

/-- PHASE without a record in force creates one, whose granted start becomes the last of the cluster (R216). -/
theorem exec_phase_creates (h : ∀ p, s.curCore.phase = some p → p.te ≤ s.curCore.clk) :
    ∃ t, exec (.phase a b cls) s = .next t ∧
      WritesRecord s t (s.newRecord (s.curW.rd a).toNat (s.curW.rd b).toNat cls.toNat) ∧
      FMap.find (t.die s.cur.site).tlast (s.sliceOf s.cur.site s.cur.core) = some (s.grant (s.curW.rd a).toNat) := by
  rw [exec_phase, execPhase_of_not_inForce cls hon hlo hhi h]
  obtain ⟨t, ht, hwrites, hdie⟩ := retire_writesRecord (s.setC_setDie_curCore _ _ _) rfl
  refine ⟨t, ht, hwrites, ?_⟩
  rw [hdie, State.setDie_die, if_pos rfl, State.granted_tlast]
end Cases

/-- Settles O21, by the two cases of R216: a record is in force, or none is. -/
theorem phasesAreDeclared : Obligations.PhasesAreDeclared := by
  intro s a b cls onset len now hon hlo hhi
  by_cases hforce : ∃ p, s.curCore.phase = some p ∧ now < p.te
  · obtain ⟨p, hp, hlt⟩ := hforce
    have hsame : ∀ q, s.curCore.phase = some q → p = q := fun q hq => Option.some.inj (hp.symm.trans hq)
    obtain ⟨t, ht, hpc, hs, hmem, hcore, hphase⟩ := exec_phase_extends cls hon hlo hhi hp hlt
    refine ⟨t, ht, hpc, hs, hmem, hcore, ?_, ?_⟩
    · rintro (hnone | ⟨q, hq, hle⟩)
      · exact absurd (hp.symm.trans hnone) (Option.some_ne_none p)
      · exact absurd hlt (Nat.not_lt.mpr (hsame q hq ▸ hle))
    · intro q hq _
      exact hsame q hq ▸ hphase
  · have hover : ∀ p, s.curCore.phase = some p → p.te ≤ now := fun p hp => Nat.not_lt.mp fun hlt => hforce ⟨p, hp, hlt⟩
    obtain ⟨t, ht, ⟨hpc, hs, hmem, hcore, hphase⟩, htlast⟩ := exec_phase_creates cls hon hlo hhi hover
    exact ⟨t, ht, hpc, hs, hmem, hcore, fun _ => ⟨hphase, htlast⟩, fun p hp hlt => absurd ⟨p, hp, hlt⟩ hforce⟩

end Sys2Proof.Machine
end

section
/-! SCALAR ARITHMETIC (R405, R407 to R409). The values that the model computes are those of the table; an instruction that writes
scalar registers and ends keeps the frame; each entry of the table is one write of its value. -/
namespace Sys2Proof.Machine
open Sys2Proof.Rules

/-- The comparisons of the model are those of R407. -/
theorem compares_eq_cmpInt (c : Nat) {n : Nat} (a b : BitVec n) : compares c a b = cmpInt c a b :=
  match c with
  | 1 => decide_not
  | 0 | 2 | 3 | 4 | 5 | 6 | 7 | 8 => rfl
  | _ + 9 => rfl

/-- A shift count is the low five bits of its register (R407). -/
theorem extractLow5_toNat (x : Word) : (x.extractLsb' 0 5).toNat = x.toNat % 32 := by
  rw [BitVec.extractLsb'_toNat, Nat.shiftRight_zero]

theorem extractHigh_ofInt (n : Int) : (BitVec.ofInt 64 n).extractLsb' 32 32 = BitVec.ofInt 32 (n / 2 ^ 32) := by
  apply BitVec.eq_of_toNat_eq
  rw [BitVec.extractLsb'_toNat, BitVec.toNat_ofInt, BitVec.toNat_ofInt, Nat.shiftRight_eq_div_pow]
  omega

/-- SMULH: the upper word of the 64-bit product is that of the product of the integers (R407). -/
theorem extractHigh_signExtend_mul (a b : Word) :
    (a.signExtend 64 * b.signExtend 64).extractLsb' 32 32 = BitVec.ofInt 32 (a.toInt * b.toInt / 2 ^ 32) := by
  rw [BitVec.signExtend, BitVec.signExtend, ← BitVec.ofInt_mul, extractHigh_ofInt]

theorem ite_toInt_le_eq_min {n : Nat} (a b : BitVec n) : (if a.toInt ≤ b.toInt then a else b) = if b.slt a then b else a := by
  simp only [BitVec.slt_iff_toInt_lt, ← not_lt, ite_not]

/-- SMAX: registers of equal value are equal, so it does not matter which of them is taken (R407). -/
theorem ite_toInt_le_eq_max {n : Nat} (a b : BitVec n) : (if a.toInt ≤ b.toInt then b else a) = if a.slt b then b else a := by
  simp only [BitVec.slt_iff_toInt_lt]
  rcases lt_trichotomy a.toInt b.toInt with hlt | heq | hgt
  · rw [if_pos hlt.le, if_pos hlt]
  · rw [BitVec.eq_of_toInt_eq heq, ite_self, ite_self]
  · rw [if_neg hgt.not_ge, if_neg hgt.le.not_gt]

/-- SLUI: the immediate shifted by 12 has 12 zeros below it (R409). -/
theorem setWidth_shiftLeft12 (imm : BitVec 20) : imm.setWidth 32 <<< 12 = imm ++ (0 : BitVec 12) := by
  have hlow : (0 : BitVec 12).toNat = 0 := rfl
  apply BitVec.eq_of_toNat_eq
  rw [BitVec.toNat_append, hlow, Nat.or_zero, BitVec.toNat_shiftLeft, BitVec.toNat_setWidth, Nat.shiftLeft_eq, Nat.shiftLeft_eq]
  omega

theorem Warp.wr_frame (w : Warp) (r : BitVec 6) (v : Word) : w.wr r v = { w with s := (w.wr r v).s } := by
  unfold Warp.wr
  split <;> rfl

theorem Warp.wrPair_frame (w : Warp) (r : BitVec 6) (v : DWord) : w.wrPair r v = { w with s := (w.wrPair r v).s } := by
  rw [Warp.wrPair, Warp.wr_frame, Warp.wr_frame w]

/-- The halves of a written pair; they lie in two registers, so the order in which they are named does not matter (R405). -/
theorem Warp.rd_wrPair_halves (w : Warp) (r q : BitVec 6) (v : DWord) :
    (w.wrPair r v).rd q =
      if q = 63 then 0 else if q = r then v.extractLsb' 0 32 else if q = r + 1 then v.extractLsb' 32 32 else w.rd q := by
  have hlow : v.setWidth 32 = v.extractLsb' 0 32 := BitVec.setWidth_eq_extractLsb' (by decide)
  have hhigh : (v >>> 32).setWidth 32 = v.extractLsb' 32 32 := rfl
  rw [Warp.rd_wrPair, hlow, hhigh]
  by_cases hq : q = r
  · have hne : q ≠ r + 1 := by bv_omega
    rw [if_neg hne, if_pos hq, if_pos hq]
  · rw [if_neg hq, if_neg hq]

/-- A scalar instruction that ends with nothing but scalar registers written. -/
theorem State.retire_scalarFrame {s : State} {w : Warp} (h : w = { s.curW with s := w.s }) :
    ∃ t, s.retire w = .next t ∧ ScalarFrame s t ∧ NextWord s t ∧ ∀ r, t.curW.rd r = w.rd r := by
  obtain ⟨t, ht, hframe, hw⟩ := s.retire_spec w
  have hpc : w.pc = s.curW.pc := by rw [h]
  refine ⟨t, ht, ⟨hframe, ?_⟩, ?_, fun r => ?_⟩
  · rw [Warp.plain_s_of hw, Warp.plain_pc_of hw, hw, h]; rfl
  · rw [NextWord, Warp.plain_pc_of hw, Warp.step_pc, hpc]
  · rw [Warp.plain_rd_of hw, Warp.step_rd]

/-- An instruction that writes a pair. -/
theorem State.toPair_spec (s : State) (d : BitVec 6) (v : DWord) :
    ∃ t, s.toPair d v = .next t ∧ ScalarFrame s t ∧ NextWord s t ∧
      ∀ r, t.curW.rd r = if r = 63 then 0 else if r = d then v.extractLsb' 0 32 else if r = d + 1 then v.extractLsb' 32 32
        else s.curW.rd r := by
  obtain ⟨t, ht, hframe, hpc, hrd⟩ := s.retire_scalarFrame (s.curW.wrPair_frame d v)
  exact ⟨t, ht, hframe, hpc, fun r => (hrd r).trans (s.curW.rd_wrPair_halves d r v)⟩

theorem exec_sadd64 (d a b : BitVec 6) (s : State) : exec (.sadd64 d a b) s = s.toPair d (s.curW.rdPair a + s.curW.rdPair b) := rfl
theorem exec_ssub64 (d a b : BitVec 6) (s : State) : exec (.ssub64 d a b) s = s.toPair d (s.curW.rdPair a - s.curW.rdPair b) := rfl

/-- Every entry of the table is one write of its value to its destination. -/
theorem exec_of_scalarResult {i : Instr} {s : State} {d : BitVec 6} {v : Word} (h : scalarResult i s.curW = some (d, v)) :
    exec i s = s.toReg d v := by
  cases i with
  | sadd | ssub | smul | sand | sor | sxor | saddi | sandi | sori | sxori | sshli | sshri | ssrai => cases h; rfl
  | smulh => cases h; rw [extractHigh_signExtend_mul]; rfl
  | sshl | sshr | ssra => cases h; rw [extractLow5_toNat]; rfl
  | smin => cases h; rw [ite_toInt_le_eq_min]; rfl
  | smax => cases h; rw [ite_toInt_le_eq_max]; rfl
  | scmp => cases h; rw [compares_eq_cmpInt]; rfl
  | slui => cases h; rw [setWidth_shiftLeft12]; rfl
  | _ => cases h

/-- Settles O1: an entry of the table is one register written, SADD64 and SSUB64 are one pair written. -/
theorem scalarArithmetic : Obligations.ScalarArithmetic := by
  refine ⟨fun i s d v _ h => ?_, ?_⟩
  · rw [exec_of_scalarResult h]
    exact s.toReg_spec d v
  · rintro s d a b i v (⟨rfl, rfl⟩ | ⟨rfl, rfl⟩) -
    · rw [exec_sadd64]
      exact s.toPair_spec d _
    · rw [exec_ssub64]
      exact s.toPair_spec d _

end Sys2Proof.Machine
end

section
/-! LANE VALUES (R432, R434 to R444). A source is as wide as its field says; the integers that the model reads and writes are those of
the statements; the bit operations on them; and what makes an instruction complete with the value of its entry. -/
namespace Sys2Proof.Machine
open Sys2Proof.Rules

/-! Sources. -/

theorem srcNat_lt (s : State) (e : LaneEnv) (l k : Nat) : ∀ n, srcNat s e n l k < 2 ^ (32 * k) := by
  induction k with
  | zero => exact fun _ => Nat.one_pos
  | succ k ih =>
    intro n
    have hword := (srcWord s e n l).isLt
    have hrest := ih (n + 1)
    rw [srcNat, Nat.mul_succ, Nat.pow_add]
    omega

theorem regCount_of_width {k : Nat} {f : BitVec 13} (h : width k f = true) : regCount f = 2 ^ k := by
  rw [width, Bool.and_eq_true, beq_iff_eq] at h
  rw [regCount, h.1]

theorem width_of_src {k : Nat} {f : BitVec 13} (h : src k f = true) : width k f = true := (Bool.and_eq_true_iff.mp h).1

/-- A source of `2 ^ k` registers is a number of 32 bits each (R361, R387). -/
theorem srcVal_lt {k : Nat} {f : BitVec 13} (h : src k f = true) (s : State) (e : LaneEnv) (l : Nat) :
    srcVal s e f l < 2 ^ (32 * 2 ^ k) := by
  rw [srcVal, ← regCount_of_width (width_of_src h)]
  exact srcNat_lt s e l _ _

/-! Integers of `n` bits. -/

/-- A source is read as a natural number or as two's complement (R434). -/
theorem readU_eq_reads {u : Bool} {n x : Nat} (hn : 0 < n) (hx : x < 2 ^ n) : readU u n x = reads u n x := by
  cases u with
  | true => rfl
  | false =>
    have hmsb : (BitVec.ofNat n x).msb = x.testBit (n - 1) := by
      rw [BitVec.msb_eq_getLsbD_last, BitVec.getLsbD_ofNat, decide_eq_true (Nat.sub_one_lt_of_lt hn), Bool.true_and]
    have hreads : reads false n x = (BitVec.ofNat n x).toInt := rfl
    rw [hreads, BitVec.toInt_eq_msb_cond, hmsb, BitVec.toNat_ofNat, Nat.mod_eq_of_lt hx, readU, Bool.not_false, Bool.true_and]
    push_cast
    rfl

theorem clampInt_eq_ite {lo hi : Int} (h : lo ≤ hi) (x : Int) : clampInt lo hi x = if x < lo then lo else if hi < x then hi else x := by
  unfold clampInt
  split_ifs <;> omega

/-- The bounds of an integer of `n` bits, in order (R361). -/
theorem natBounds_le (n : Nat) : (0 : Int) ≤ 2 ^ n - 1 := Int.sub_nonneg_of_le (one_le_pow₀ (by decide))
theorem intBounds_le (n : Nat) : (-(2 ^ n) : Int) ≤ 2 ^ n - 1 := by
  have := natBounds_le n
  omega

/-- A result is clamped with SAT and written modulo 2^n (R434, R439). -/
theorem writeU_eq_narrowed (sat u : Bool) (n : Nat) (x : Int) : writeU sat u n x = narrowed sat u n x := by
  have hmod (y : Int) : (y % 2 ^ n).toNat = (BitVec.ofInt n y).toNat := by
    rw [BitVec.toNat_ofInt]; push_cast; rfl
  unfold writeU narrowed
  rw [hmod, clampInt_eq_ite (natBounds_le n), clampInt_eq_ite (intBounds_le (n - 1))]
  cases u <;> rfl

/-- Without SAT it does not matter how a result would be clamped. -/
theorem narrowed_of_not_sat (u v : Bool) (n : Nat) (x : Int) : narrowed false u n x = narrowed false v n x := rfl

/-! Bits. -/

theorem getLsbD_ofNat_of_lt {n a : Nat} (ha : a < 2 ^ n) (i : Nat) : (BitVec.ofNat n a).getLsbD i = a.testBit i := by
  rw [← BitVec.testBit_toNat, BitVec.toNat_ofNat, Nat.mod_eq_of_lt ha]

theorem toNat_ofNat_shiftLeft {n : Nat} (a k : Nat) : (BitVec.ofNat n a <<< k).toNat = a * 2 ^ k % 2 ^ n := by
  rw [BitVec.toNat_shiftLeft, BitVec.toNat_ofNat, Nat.shiftLeft_eq, Nat.mod_mul_mod]

theorem toNat_ofNat_ushiftRight {n a : Nat} (ha : a < 2 ^ n) (k : Nat) : (BitVec.ofNat n a >>> k).toNat = a / 2 ^ k := by
  rw [BitVec.toNat_ushiftRight, BitVec.toNat_ofNat, Nat.mod_eq_of_lt ha, Nat.shiftRight_eq_div_pow]

/-- An arithmetic shift divides towards minus infinity (R435). -/
theorem toNat_ofNat_sshiftRight (n a k : Nat) :
    ((BitVec.ofNat n a).sshiftRight k).toNat = narrowed false false n (reads false n a / 2 ^ k) := by
  have hdiv : ((BitVec.ofNat n a).sshiftRight k).toInt = reads false n a / 2 ^ k := by
    rw [BitVec.toInt_sshiftRight, Int.shiftRight_eq_div_pow]; push_cast; rfl
  have hnarrowed : narrowed false false n (reads false n a / 2 ^ k) = (BitVec.ofInt n (reads false n a / 2 ^ k)).toNat := rfl
  rw [hnarrowed, ← hdiv, BitVec.ofInt_toInt]

/-- IROT: the bits shifted out at the top come back at the bottom, so that the two parts do not meet (R435). -/
theorem toNat_ofNat_rotateLeft {n a k : Nat} (ha : a < 2 ^ n) (hk : k < n) :
    ((BitVec.ofNat n a).rotateLeft k).toNat = a * 2 ^ k % 2 ^ n + a / 2 ^ (n - k) := by
  have hsplit : 2 ^ n = 2 ^ (n - k) * 2 ^ k := by rw [← Nat.pow_add, Nat.sub_add_cancel hk.le]
  have hlow : a / 2 ^ (n - k) < 2 ^ k := Nat.div_lt_of_lt_mul (hsplit ▸ ha)
  rw [BitVec.toNat_rotateLeft, BitVec.toNat_ofNat, Nat.mod_eq_of_lt ha, Nat.mod_eq_of_lt hk, Nat.shiftRight_eq_div_pow,
    Nat.shiftLeft_eq, hsplit, Nat.mul_mod_mul_right, ← Nat.shiftLeft_eq, Nat.shiftLeft_add_eq_or_of_lt hlow]

theorem popCount_ofNat {a : Nat} (ha : a < 2 ^ 32) :
    popCount (BitVec.ofNat 32 a) = ((List.range 32).filter fun i => a.testBit i).length := by
  unfold popCount
  simp only [getLsbD_ofNat_of_lt ha]

theorem popCount_le (x : Word) : popCount x ≤ 32 := (List.length_filter_le _ _).trans_eq List.length_range

theorem length_takeWhile_range {p : Nat → Bool} {m n : Nat} (hmn : m ≤ n) (hp : ∀ i < m, p i = true) (hm : m < n → p m = false) :
    ((List.range n).takeWhile p).length = m := by
  obtain ⟨k, rfl⟩ := Nat.exists_eq_add_of_le hmn
  rw [List.range_add, List.takeWhile_append_of_pos fun i hi => hp i (List.mem_range.mp hi), List.length_append, List.length_range]
  cases k with
  | zero => rfl
  | succ k =>
    have hstop : p (m + 0) = false := hm (Nat.lt_add_of_pos_right k.succ_pos)
    rw [List.range_succ_eq_map, List.map_cons, List.takeWhile_cons_of_neg (Bool.eq_false_iff.mp hstop)]
    rfl

/-- CLZ: the zeros above the highest 1 bit, which is bit `log2` of the source (R435). -/
theorem leadingZeros_eq {a : Nat} (ha : a < 2 ^ 32) :
    ((List.range 32).takeWhile fun i => !a.testBit (31 - i)).length = if a = 0 then 32 else 31 - Nat.log2 a := by
  split_ifs with h0
  · exact length_takeWhile_range le_rfl (fun i _ => by rw [h0, Nat.zero_testBit]; rfl) fun h => absurd h (lt_irrefl _)
  · have hlog : Nat.log2 a < 32 := (Nat.log2_lt h0).mpr ha
    refine length_takeWhile_range (by omega) (fun i hi => ?_) fun _ => ?_
    · have hbelow : a < 2 ^ (31 - i) := (Nat.log2_lt h0).mp (by omega)
      rw [Nat.testBit_lt_two_pow hbelow, Bool.not_false]
    · have htop : 31 - (31 - Nat.log2 a) = Nat.log2 a := by omega
      rw [htop, Nat.testBit_log2 h0, Bool.not_true]

/-- BREV (R435). -/
theorem maskOf_reversed (x : Word) : maskOf (fun i => x.getLsbD (31 - i)) = x.reverse :=
  BitVec.eq_of_getLsbD_eq fun i _ => by rw [maskOf_getLsbD, BitVec.getLsbD_reverse, BitVec.getMsbD_eq_getLsbD]

/-- BFI: a number without its field of `n` bits at `pos` is what lies above the field and what lies below it (R437). -/
theorem sub_field_eq (c pos n : Nat) :
    c - c / 2 ^ pos % 2 ^ n * 2 ^ pos = c / 2 ^ (pos + n) * 2 ^ (pos + n) + c % 2 ^ pos := by
  have hlow := Nat.div_add_mod c (2 ^ pos)
  have hhigh := Nat.div_add_mod (c / 2 ^ pos) (2 ^ n)
  rw [Nat.div_div_eq_div_mul, ← Nat.pow_add] at hhigh
  have hparts : c = c / 2 ^ (pos + n) * 2 ^ (pos + n) + c % 2 ^ pos + c / 2 ^ pos % 2 ^ n * 2 ^ pos := by
    calc c = 2 ^ pos * (2 ^ n * (c / 2 ^ (pos + n)) + c / 2 ^ pos % 2 ^ n) + c % 2 ^ pos := by rw [hhigh, hlow]
      _ = _ := by rw [Nat.pow_add]; ring
  omega

/-! Instructions of fixed latency on one, two and three sources. -/

theorem completesWith_of_laneOp {i : Instr} {s : State} {h : Hdr} {t : Timing} {d : BitVec 13} {fs : List (BitVec 13)}
    {g : LaneEnv → Nat → Nat} {v : Nat → Nat} (hexec : exec i s = s.laneOp h t d fs g) (hd : DstOk d) (hp : Pinned s (d :: fs))
    (hv : ∀ l, g (s.laneEnv h) l = v l) : CompletesWith s i (h, d, fs, v) := by
  obtain ⟨w, hw, hframe, hpath, hwrites, hpreds⟩ := s.laneOp_spec h t d fs g hd hp
  exact ⟨w, hexec.trans hw, hframe, hpath, funext hv ▸ hwrites, hpreds⟩

/-- The operand checks of an instruction with four fields. -/
theorem l3_iff {f : L3} {pd pa pb pc : BitVec 13 → Bool} :
    l3 f pd pa pb pc = true ↔ pd f.d = true ∧ pa f.a = true ∧ pb f.b = true ∧ pc f.c = true := by
  simp only [l3, Bool.and_eq_true, and_assoc]

/-- The operand checks of a well-formed instruction stand between those of its predicate and of its modifiers. -/
theorem middle_of_and_and {p c m : Bool} (h : (p && c && m) = true) : c = true :=
  Bool.and_elim_right (Bool.and_elim_left h)

section Completes
variable {i : Instr} {s : State} {h : Hdr} {t : Timing} {f : L3} {kd ka kb kc : Nat}

/-- An instruction on one source. -/
theorem completesWith_on1 {pb pc : BitVec 13 → Bool} {op v : Nat → Nat} (hf : l3 f (dst kd) (src ka) pb pc = true)
    (hp : Pinned s [f.d, f.a]) (hv : ∀ a < 2 ^ (32 * 2 ^ ka), op a = v a) (hexec : exec i s = s.fpOp1 h t f op) :
    CompletesWith s i (on1 s h f v) := by
  obtain ⟨hd, ha, -, -⟩ := l3_iff.mp hf
  exact completesWith_of_laneOp hexec (dstOk_of_dst hd) hp fun l => hv _ (srcVal_lt ha s _ l)

/-- An instruction on two sources. -/
theorem completesWith_on2 {pc : BitVec 13 → Bool} {op v : Nat → Nat → Nat} (hf : l3 f (dst kd) (src ka) (src kb) pc = true)
    (hp : Pinned s [f.d, f.a, f.b]) (hv : ∀ a < 2 ^ (32 * 2 ^ ka), ∀ b < 2 ^ (32 * 2 ^ kb), op a b = v a b)
    (hexec : exec i s = s.fpOp2 h t f op) : CompletesWith s i (on2 s h f v) := by
  obtain ⟨hd, ha, hb, -⟩ := l3_iff.mp hf
  exact completesWith_of_laneOp hexec (dstOk_of_dst hd) hp fun l => hv _ (srcVal_lt ha s _ l) _ (srcVal_lt hb s _ l)

/-- An instruction on three sources. -/
theorem completesWith_on3 {op v : Nat → Nat → Nat → Nat} (hf : l3 f (dst kd) (src ka) (src kb) (src kc) = true)
    (hp : Pinned s [f.d, f.a, f.b, f.c])
    (hv : ∀ a < 2 ^ (32 * 2 ^ ka), ∀ b < 2 ^ (32 * 2 ^ kb), ∀ c < 2 ^ (32 * 2 ^ kc), op a b c = v a b c)
    (hexec : exec i s = s.fpOp3 h t f op) : CompletesWith s i (on3 s h f v) := by
  obtain ⟨hd, ha, hb, hc⟩ := l3_iff.mp hf
  exact completesWith_of_laneOp hexec (dstOk_of_dst hd) hp fun l => hv _ (srcVal_lt ha s _ l) _ (srcVal_lt hb s _ l) _ (srcVal_lt hc s _ l)

end Completes

end Sys2Proof.Machine
end

section
/-! INTEGER LANE INSTRUCTIONS (R432, R434 to R439). Each is one lane operation of fixed latency, and it completes with the
value of the table because the two agree on sources of its widths. -/
namespace Sys2Proof.Machine
open Sys2Proof.Rules

theorem State.intOp2_eq_fpOp2 (s : State) (h : Hdr) (t : Timing) (f : L3) (n : Nat) (op : Int → Int → Int) :
    s.intOp2 h t f n op =
      s.fpOp2 h t f fun a b => writeU (satOf f.m) (natOf f.m) n (op (readU (natOf f.m) n a) (readU (natOf f.m) n b)) := rfl

section Completes
variable {i : Instr} {s : State} {h : Hdr} {t : Timing} {f : L3} {kd ka : Nat}

/-- Integer arithmetic at the width of its sources (R434, R439). -/
theorem completesWith_arith {pc : BitVec 13 → Bool} {n : Nat} {op v : Int → Int → Int}
    (hf : l3 f (dst kd) (src ka) (src ka) pc = true) (hn : n = 32 * 2 ^ ka) (hp : Pinned s [f.d, f.a, f.b])
    (hv : ∀ x y, op x y = v x y) (hexec : exec i s = s.intOp2 h t f n op) : CompletesWith s i (arith s h f n v) := by
  have hpos : 0 < n := hn ▸ Nat.mul_pos (by decide) (Nat.two_pow_pos ka)
  refine completesWith_on2 hf hp (fun a ha b hb => ?_) (hexec.trans (s.intOp2_eq_fpOp2 h t f n op))
  rw [← hn] at ha hb
  rw [writeU_eq_narrowed, readU_eq_reads hpos ha, readU_eq_reads hpos hb, hv]

/-- An operation on the bits of two singles (R435). -/
theorem completesWith_bits2 {pc : BitVec 13 → Bool} {op : Word → Word → Word} {v : Nat → Nat → Nat}
    (hf : l3 f (dst kd) (src 0) (src 0) pc = true) (hp : Pinned s [f.d, f.a, f.b])
    (hv : ∀ a < 2 ^ 32, ∀ b < 2 ^ 32, (op (BitVec.ofNat 32 a) (BitVec.ofNat 32 b)).toNat = v a b)
    (hexec : exec i s = s.bitOp2 h f op) : CompletesWith s i (on2 s h f v) :=
  completesWith_on2 hf hp hv hexec

/-- An operation on the bits of a single (R435). -/
theorem completesWith_bits1 {pb pc : BitVec 13 → Bool} {op : Word → Word} {v : Nat → Nat} (hf : l3 f (dst kd) (src 0) pb pc = true)
    (hp : Pinned s [f.d, f.a]) (hv : ∀ a < 2 ^ 32, (op (BitVec.ofNat 32 a)).toNat = v a) (hexec : exec i s = s.bitOp1 h f op) :
    CompletesWith s i (on1 s h f v) :=
  completesWith_on1 hf hp hv hexec

/-- A shift of a pair by a single (R439). -/
theorem completesWith_pairShift {pc : BitVec 13 → Bool} {op : DWord → Nat → DWord} {v : Nat → Nat → Nat}
    (hf : l3 f (dst kd) (src 1) (src 0) pc = true) (hp : Pinned s [f.d, f.a, f.b])
    (hv : ∀ a < 2 ^ 64, ∀ b, (op (BitVec.ofNat 64 a) (b % 64)).toNat = v a b) (hexec : exec i s = s.pairShift h f op) :
    CompletesWith s i (on2 s h f v) :=
  completesWith_on2 hf hp (fun a ha b _ => hv a ha b) hexec

/-- A select by the predicate of C (R436). -/
theorem completesWith_select {pa pb pc : BitVec 13 → Bool} (hf : l3 f (dst kd) pa pb pc = true) (hp : Pinned s [f.d, f.a, f.b])
    (hexec : exec i s = s.select h t f) :
    CompletesWith s i (h, f.d, [f.a, f.b], fun l =>
      if (predMask s s.curW (num f.c)).getLsbD l then srcVal s (s.laneEnv h) f.a l else srcVal s (s.laneEnv h) f.b l) :=
  completesWith_of_laneOp hexec (dstOk_of_dst (l3_iff.mp hf).1) hp fun _ => rfl

end Completes

/-! The values that single instructions compute are those of the table. -/

/-- The count of a 32-bit shift is the low five bits of its register (R435). -/
theorem shiftCount_ofNat (b : Nat) : (BitVec.ofNat 32 b).toNat % 32 = b % 32 := by
  rw [BitVec.toNat_ofNat]
  exact Nat.mod_mod_of_dvd b (by decide)

theorem toNat_ofNat_word {a : Nat} (ha : a < 2 ^ 32) : (BitVec.ofNat 32 a).toNat = a := Nat.mod_eq_of_lt ha

theorem readU_word {u : Bool} {a : Nat} (ha : a < 2 ^ 32) : readU u 32 a = reads u 32 a := readU_eq_reads (by decide) ha

theorem abs_value {sat : Bool} {a : Nat} (ha : a < 2 ^ 32) :
    writeU sat false 32 (readU false 32 a).natAbs = narrowed sat false 32 |reads false 32 a| := by
  rw [writeU_eq_narrowed, readU_word ha, Int.natCast_natAbs]

theorem neg_value {sat : Bool} {a : Nat} (ha : a < 2 ^ 32) :
    writeU sat false 32 (-readU false 32 a) = narrowed sat false 32 (-reads false 32 a) := by
  rw [writeU_eq_narrowed, readU_word ha]

theorem mad_value {sat u : Bool} {a b c : Nat} (ha : a < 2 ^ 32) (hb : b < 2 ^ 32) (hc : c < 2 ^ 32) :
    writeU sat u 32 (readU u 32 a * readU u 32 b + readU u 32 c) =
      narrowed sat u 32 (reads u 32 a * reads u 32 b + reads u 32 c) := by
  rw [writeU_eq_narrowed, readU_word ha, readU_word hb, readU_word hc]

/-- LMULW: the product of two singles is written to a pair without SAT (R439). -/
theorem wideMul_value {u : Bool} {a b : Nat} (ha : a < 2 ^ 32) (hb : b < 2 ^ 32) :
    writeU false true 64 (readU u 32 a * readU u 32 b) = narrowed false false 64 (reads u 32 a * reads u 32 b) := by
  rw [writeU_eq_narrowed, readU_word ha, readU_word hb, narrowed_of_not_sat true false]

/-- BFX: a field of `n` bits is read as an integer of `n` bits (R437). -/
theorem bfx_value (u : Bool) (a b : Nat) :
    (let (pos, n) := fieldSpec b
     if n = 0 then 0 else writeU false false 32 (readU u n (a / 2 ^ pos % 2 ^ n))) =
    (let (pos, n) := fieldAtOf b
     if n = 0 then 0 else narrowed false false 32 (reads u n (a / 2 ^ pos % 2 ^ n))) := by
  have hspec : fieldSpec b = fieldAtOf b := rfl
  rw [hspec]
  obtain ⟨pos, n⟩ := fieldAtOf b
  dsimp only
  split_ifs with h0
  · rfl
  · rw [writeU_eq_narrowed, readU_eq_reads (Nat.pos_of_ne_zero h0) (Nat.mod_lt _ (Nat.two_pow_pos n))]

/-- BFI: the field is taken out and the new one put in its place (R437). -/
theorem bfi_value (a b c : Nat) :
    (let (pos, n) := fieldSpec b
     c - c / 2 ^ pos % 2 ^ n * 2 ^ pos + a % 2 ^ n * 2 ^ pos) =
    (let (pos, n) := fieldAtOf b
     c / 2 ^ (pos + n) * 2 ^ (pos + n) + a % 2 ^ n * 2 ^ pos + c % 2 ^ pos) := by
  have hspec : fieldSpec b = fieldAtOf b := rfl
  rw [hspec]
  obtain ⟨pos, n⟩ := fieldAtOf b
  dsimp only
  rw [sub_field_eq, Nat.add_right_comm]

/-- Settles O5, by the entries of the table: each is one lane operation, whose value agrees with the entry's on sources of its widths. -/
theorem laneIntegerValues : Obligations.LaneIntegerValues := by
  intro i s x hwf hx hp
  cases i with
  | iadd h f => cases hx; exact completesWith_arith (middle_of_and_and (Bool.and_elim_left hwf)) rfl hp (fun _ _ => rfl) rfl
  | isub h f | imul h f | ladd h f | lsub h f => cases hx; exact completesWith_arith (middle_of_and_and hwf) rfl hp (fun _ _ => rfl) rfl
  | imulh h f =>
    cases hx
    exact completesWith_arith (middle_of_and_and hwf) rfl hp (fun _ _ => Int.fdiv_eq_ediv_of_nonneg _ (by positivity)) rfl
  | imin h f | lmin h f => cases hx; exact completesWith_arith (middle_of_and_and hwf) rfl hp min_def rfl
  | imax h f | lmax h f => cases hx; exact completesWith_arith (middle_of_and_and hwf) rfl hp max_def rfl
  | imad h f => cases hx; exact completesWith_on3 (middle_of_and_and hwf) hp (fun _ ha _ hb _ hc => mad_value ha hb hc) rfl
  | iabs h f => cases hx; exact completesWith_on1 (middle_of_and_and hwf) hp (fun _ ha => abs_value ha) rfl
  | ineg h f => cases hx; exact completesWith_on1 (middle_of_and_and hwf) hp (fun _ ha => neg_value ha) rfl
  | iand h f =>
    cases hx
    refine completesWith_bits2 (middle_of_and_and hwf) hp (fun a ha b hb => ?_) (Eq.refl (execIand h f s))
    rw [BitVec.toNat_and, toNat_ofNat_word ha, toNat_ofNat_word hb]
  | ior h f =>
    cases hx
    refine completesWith_bits2 (middle_of_and_and hwf) hp (fun a ha b hb => ?_) (Eq.refl (execIor h f s))
    rw [BitVec.toNat_or, toNat_ofNat_word ha, toNat_ofNat_word hb]
  | ixor h f =>
    cases hx
    refine completesWith_bits2 (middle_of_and_and hwf) hp (fun a ha b hb => ?_) (Eq.refl (execIxor h f s))
    rw [BitVec.toNat_xor, toNat_ofNat_word ha, toNat_ofNat_word hb]
  | inot h f =>
    cases hx
    refine completesWith_bits1 (middle_of_and_and hwf) hp (fun a ha => ?_) (Eq.refl (execInot h f s))
    rw [BitVec.toNat_not, toNat_ofNat_word ha]
  | ishl h f =>
    cases hx
    refine completesWith_bits2 (middle_of_and_and hwf) hp (fun a _ b _ => ?_) (Eq.refl (execIshl h f s))
    rw [shiftCount_ofNat, toNat_ofNat_shiftLeft]
  | ishr h f =>
    cases hx
    refine completesWith_bits2 (middle_of_and_and hwf) hp (fun a ha b _ => ?_) (Eq.refl (execIshr h f s))
    rw [shiftCount_ofNat, toNat_ofNat_ushiftRight ha]
  | isra h f =>
    cases hx
    refine completesWith_bits2 (middle_of_and_and hwf) hp (fun a _ b _ => ?_) (Eq.refl (execIsra h f s))
    rw [shiftCount_ofNat, toNat_ofNat_sshiftRight]
  | irot h f =>
    cases hx
    refine completesWith_bits2 (middle_of_and_and hwf) hp (fun a ha b _ => ?_) (Eq.refl (execIrot h f s))
    rw [shiftCount_ofNat, toNat_ofNat_rotateLeft ha (Nat.mod_lt _ (by decide))]
  | popc h f =>
    cases hx
    refine completesWith_bits1 (middle_of_and_and hwf) hp (fun a ha => ?_) (Eq.refl (execPopc h f s))
    rw [toNat_ofNat_word ((popCount_le _).trans_lt (by decide)), popCount_ofNat ha]
  | clz h f =>
    cases hx
    refine completesWith_bits1 (middle_of_and_and hwf) hp (fun a ha => ?_) (Eq.refl (execClz h f s))
    have hzero : BitVec.ofNat 32 a = 0 ↔ a = 0 := by rw [← BitVec.toNat_inj, toNat_ofNat_word ha]; rfl
    rw [leadingZeros_eq ha, toNat_ofNat_word ha, toNat_ofNat_word (by split <;> omega)]
    simp only [hzero]
  | brev h f =>
    cases hx
    refine completesWith_bits1 (middle_of_and_and hwf) hp (fun a _ => ?_) (Eq.refl (execBrev h f s))
    rw [maskOf_reversed]
  | bfx h f => cases hx; exact completesWith_on2 (middle_of_and_and hwf) hp (fun a _ b _ => bfx_value (natOf f.m) a b) rfl
  | bfi h f => cases hx; exact completesWith_on3 (middle_of_and_and hwf) hp (fun a _ b _ c _ => bfi_value a b c) rfl
  | isel h f | lsel h f => cases hx; exact completesWith_select (middle_of_and_and hwf) hp rfl
  | mov h f =>
    cases hx
    exact completesWith_of_laneOp (Eq.refl (execMov h f s)) (dstOk_of_dst (middle_of_and_and hwf)) hp fun _ => rfl
  | movi h f =>
    cases hx
    exact completesWith_of_laneOp (Eq.refl (execMovi h f s)) (dstOk_of_dst (middle_of_and_and (Bool.and_elim_left hwf))) hp fun _ => rfl
  | lshl h f =>
    cases hx
    exact completesWith_pairShift (middle_of_and_and hwf) hp (fun a _ b => toNat_ofNat_shiftLeft a _) (Eq.refl (execLshl h f s))
  | lshr h f =>
    cases hx
    exact completesWith_pairShift (middle_of_and_and hwf) hp (fun a ha b => toNat_ofNat_ushiftRight ha _) (Eq.refl (execLshr h f s))
  | lsra h f =>
    cases hx
    exact completesWith_pairShift (middle_of_and_and hwf) hp (fun a _ b => toNat_ofNat_sshiftRight 64 a _) (Eq.refl (execLsra h f s))
  | lmulw h f => cases hx; exact completesWith_on2 (middle_of_and_and hwf) hp (fun _ ha _ hb => wideMul_value ha hb) rfl
  | _ => cases hx

end Sys2Proof.Machine
end

section
/-! FLOATING-POINT LANE INSTRUCTIONS (R440 to R444). What FP32 and FP64 compute has no flush (R368), so that the result is the exact
one rounded once; a paired operation is the operation on both halves of its sources. -/
namespace Sys2Proof.Machine
open Sys2Proof.Rules

@[simp] theorem Fmt.readFlush_false (g : Fmt) (x : Nat) : g.readFlush false x = g.read x := rfl
@[simp] theorem Fmt.roundFlush_false (g : Fmt) (rm : Nat) (sat : Bool) (x : Exact) : g.roundFlush false rm sat x = g.round rm sat x := rfl

/-- Outside the BF16 exception an operation rounds its exact result (R441). -/
theorem Fmt.add_eq_round (g : Fmt) (rm : Nat) (sat : Bool) (a b : Nat) :
    g.add false rm sat a b = g.round rm sat ((g.read a).add rm (g.read b)) := by
  rw [Fmt.add, roundFlush_false, readFlush_false, readFlush_false]

theorem Fmt.sub_eq_round (g : Fmt) (rm : Nat) (sat : Bool) (a b : Nat) :
    g.sub false rm sat a b = g.round rm sat ((g.read a).add rm (g.read b).neg) := by
  rw [Fmt.sub, roundFlush_false, readFlush_false, readFlush_false]

theorem Fmt.mul_eq_round (g : Fmt) (rm : Nat) (sat : Bool) (a b : Nat) :
    g.mul false rm sat a b = g.round rm sat ((g.read a).mul (g.read b)) := by
  rw [Fmt.mul, roundFlush_false, readFlush_false, readFlush_false]

theorem Fmt.fma_eq_round (g : Fmt) (rm : Nat) (sat : Bool) (a b c : Nat) :
    g.fma false rm sat a b c = g.round rm sat (((g.read a).mul (g.read b)).add rm (g.read c)) := by
  rw [Fmt.fma, roundFlush_false, readFlush_false, readFlush_false, readFlush_false]

/-- The elements of a single are its low half and its high half (R362). -/
theorem elemOf_zero (n x : Nat) : elemOf n 0 x = x % 2 ^ n := by rw [elemOf, Nat.mul_zero, Nat.pow_zero, Nat.div_one]

theorem elemOf_one {n x : Nat} (hx : x < 2 ^ (2 * n)) : elemOf n 1 x = x / 2 ^ n := by
  rw [elemOf, Nat.mul_one, Nat.mod_eq_of_lt]
  exact Nat.div_lt_of_lt_mul (by rwa [← Nat.pow_add, ← Nat.two_mul])

/-- A paired operation is the operation on the low halves and on the high halves (R444). -/
theorem halves_eq_paired (op : Nat → Nat → Nat → Nat) {a b c : Nat} (ha : a < 2 ^ 32) (hb : b < 2 ^ 32) (hc : c < 2 ^ 32) :
    halves op a b c = paired op a b c := by
  have hpack : halves op a b c = op (elemOf 16 0 a) (elemOf 16 0 b) (elemOf 16 0 c) % 2 ^ 16 +
      2 ^ 16 * (op (elemOf 16 1 a) (elemOf 16 1 b) (elemOf 16 1 c) % 2 ^ 16) := rfl
  rw [hpack, elemOf_zero, elemOf_zero, elemOf_zero, elemOf_one ha, elemOf_one hb, elemOf_one hc, paired]

section Completes
variable {i : Instr} {s : State} {h : Hdr} {t : Timing} {f : L3} {kd : Nat} {pc : BitVec 13 → Bool}

/-- A paired operation on two sources; its third is not read. -/
theorem completesWith_paired2 {op : Nat → Nat → Nat → Nat} (hf : l3 f (dst kd) (src 0) (src 0) pc = true)
    (hp : Pinned s [f.d, f.a, f.b]) (hexec : exec i s = s.fpOp2 h t f fun a b => halves op a b 0) :
    CompletesWith s i (on2 s h f fun a b => paired op a b 0) :=
  completesWith_on2 hf hp (fun _ ha _ hb => halves_eq_paired op ha hb (by decide)) hexec

end Completes

/-- Settles O6, by the entries of the table: a result rounded once (R441), an operand or a class (R442, R443), or both elements of a
pair (R444). -/
theorem laneFloatValues : Obligations.LaneFloatValues := by
  intro i s x hwf hx hp
  cases i with
  | fadd h f | dadd h f => cases hx; exact completesWith_on2 (middle_of_and_and hwf) hp (fun a _ b _ => Fmt.add_eq_round _ _ _ a b) rfl
  | fsub h f | dsub h f => cases hx; exact completesWith_on2 (middle_of_and_and hwf) hp (fun a _ b _ => Fmt.sub_eq_round _ _ _ a b) rfl
  | fmul h f | dmul h f => cases hx; exact completesWith_on2 (middle_of_and_and hwf) hp (fun a _ b _ => Fmt.mul_eq_round _ _ _ a b) rfl
  | ffma h f | dfma h f =>
    cases hx
    exact completesWith_on3 (middle_of_and_and hwf) hp (fun a _ b _ c _ => Fmt.fma_eq_round _ _ _ a b c) rfl
  | fmin h f | fmax h f | dmin h f | dmax h f => cases hx; exact completesWith_on2 (middle_of_and_and hwf) hp (fun _ _ _ _ => rfl) rfl
  | frnd h f | fclass h f | drnd h f => cases hx; exact completesWith_on1 (middle_of_and_and hwf) hp (fun _ _ => rfl) rfl
  | hadd2 h f | hmul2 h f | hmin2 h f | hmax2 h f => cases hx; exact completesWith_paired2 (middle_of_and_and hwf) hp rfl
  | hfma2 h f =>
    cases hx
    exact completesWith_on3 (middle_of_and_and hwf) hp (fun _ ha _ hb _ hc => halves_eq_paired _ ha hb hc) rfl
  | _ => cases hx

end Sys2Proof.Machine
end

section
/-! LANE PREDICATES AND THE END OF A LANE INSTRUCTION (R432). Two writes of predicates one after the other, what the bookkeeping of a
lane instruction keeps, and its end after registers of its lanes and predicates have been written. -/
namespace Sys2Proof.Machine
open Sys2Proof.Rules

theorem State.setW_setW (s : State) (w x : Warp) : (s.setW w).setW x = s.setW x := by
  simp only [State.setW, State.setWarp, FMap.set_set]

/-- Two predicates are written one after the other: where both writes meet the later one stands. -/
theorem writePred_writePred (s : State) (q q' : Nat) (mask bits bits' : Word) :
    ∃ p, writePred (writePred s s.curRef q mask bits) s.curRef q' mask bits' = s.setW { s.curW with p := p } ∧
      ∀ x l, l < 32 → (FMap.get 0 p x).getLsbD l =
        if x = q' ∧ mask.getLsbD l = true then bits'.getLsbD l
        else if x = q ∧ mask.getLsbD l = true then bits.getLsbD l else (FMap.get 0 s.curW.p x).getLsbD l := by
  obtain ⟨p, hp, hbits⟩ := writePred_wrote s q mask bits
  obtain ⟨p', hp', hbits'⟩ := writePred_wrote (s.setW { s.curW with p := p }) q' mask bits'
  have hcur : (s.setW { s.curW with p := p }).curRef = s.curRef := rfl
  rw [hcur, State.setW_setW, State.setW_curW] at hp'
  refine ⟨p', hp ▸ hp', fun x l hl => ?_⟩
  rw [hbits' x l hl, State.setW_curW, hbits x l hl]

theorem predicates_of_getD {s t : State} {v : Nat → Nat → Option Bool}
    (h : ∀ q l, l < 32 → (FMap.get 0 t.curW.p q).getLsbD l = (v q l).getD ((FMap.get 0 s.curW.p q).getLsbD l)) : Predicates s t v := by
  intro q l hl
  rw [h q l hl]
  cases v q l <;> rfl

section Issued
variable (s : State) (e : LaneEnv) (t : Timing) (res : List (Bool × Nat)) (fs : List (BitVec 13))

@[simp] theorem laneIssued_cur : (laneIssued s e t res fs).cur = s.cur := (congrArg State.cur (laneIssued_spec s e t res fs).1 :)
@[simp] theorem laneIssued_curRef : (laneIssued s e t res fs).curRef = s.curRef := by rw [State.curRef, laneIssued_cur]; rfl
@[simp] theorem laneIssued_curCore : (laneIssued s e t res fs).curCore = s.curCore := by rw [(laneIssued_spec s e t res fs).1]; rfl
@[simp] theorem laneIssued_curW_p : (laneIssued s e t res fs).curW.p = s.curW.p :=
  (congrArg Warp.p (laneIssued_spec s e t res fs).2.2 :)
@[simp] theorem laneIssued_curW_t : (laneIssued s e t res fs).curW.t = s.curW.t :=
  (congrArg Warp.t (laneIssued_spec s e t res fs).2.2 :)
@[simp] theorem laneIssued_curW_tWr : (laneIssued s e t res fs).curW.tWr = s.curW.tWr :=
  (congrArg Warp.tWr (laneIssued_spec s e t res fs).2.2 :)

end Issued

/-- A lane instruction whose registers are pinned does what its entry says (R271). -/
theorem State.withRegs_of_pinned {s : State} {fs : List (BitVec 13)} (hp : Pinned s fs) (h : Hdr) (k : LaneEnv → Out) :
    s.withRegs h fs k = k (s.laneEnv h) :=
  if_neg (Bool.eq_false_iff.mp hp.not_unpinned)

section End
variable {s v : State} {h : Hdr} {t : Timing} {res : List (Bool × Nat)} {fs : List (BitVec 13)} {W : Nat → Nat → Option Word}

/-- The end of a lane instruction whose predicates are those of `p` keeps the frame, its path goes on, and its registers and
temporaries are those that its writes left. -/
theorem lanePath_spec (hv : Wrote (laneIssued s (s.laneEnv h) t res fs) v W) (p : FMap Word) {w : State}
    (hw : w = lanePath (v.setW { v.curW with p := p }) (s.laneEnv h) h) :
    LaneFrame s w ∧ PathNext s w h ∧ w.curW.p = p ∧ w.curCore = v.curCore ∧ w.curW.t = v.curW.t ∧ w.curW.tWr = v.curW.tWr := by
  obtain ⟨hrest, hothers, hwarp⟩ := laneIssued_spec s (s.laneEnv h) t res fs
  rw [lanePath, State.setW_setW, State.setW_curW] at hw
  obtain ⟨hframe, hpath, hpreds, hcore, htemps, hwritten, -⟩ := laneEnd_spec hrest hothers hwarp hv hw
  exact ⟨hframe, hpath, hpreds, hcore, htemps, hwritten⟩

/-- A destination is written in the active lanes after the bookkeeping (R432). -/
theorem writeDst_laneIssued {n k : Nat} {f : Nat → Nat} (hwf : FMap.wf s.curCore.places = true)
    (hv : v = writeDst (laneIssued s (s.laneEnv h) t res fs) (s.laneEnv h).r n k (s.laneEnv h).act
      ((lanesOf (s.laneEnv h).act).map fun l => (l, f l))) :
    Wrote (laneIssued s (s.laneEnv h) t res fs) v fun n' l =>
      if l ∈ lanesOf (s.laneEnv h).act ∧ n ≤ n' ∧ n' < n + k then some (BitVec.ofNat 32 (f l / 2 ^ (32 * (n' - n)))) else none := by
  have href : (s.laneEnv h).r = (laneIssued s (s.laneEnv h) t res fs).curRef := (laneIssued_curRef s (s.laneEnv h) t res fs).symm
  rw [hv, href]
  exact writeDst_wrote n k (s.laneEnv h).act f _ (fun l hl => (mem_lanesOf _ l).mp hl) (by rw [laneIssued_curCore]; exact hwf)

/-- A lane instruction that has written one destination and then predicates. -/
theorem lanePath_writes {d : BitVec 13} {gs : List (BitVec 13)} {f : Nat → Nat} (hd : DstOk d) (hp : Pinned s gs) (hm : d ∈ gs)
    (hv : v = writeDst (laneIssued s (s.laneEnv h) t res fs) (s.laneEnv h).r (num d) (regCount d) (s.laneEnv h).act
      ((lanesOf (s.laneEnv h).act).map fun l => (l, f l))) (p : FMap Word) {w : State}
    (hw : w = lanePath (v.setW { v.curW with p := p }) (s.laneEnv h) h) :
    LaneFrame s w ∧ PathNext s w h ∧ w.curW.p = p ∧ Writes s w h (num d) (regCount d) f := by
  have hwrote := writeDst_laneIssued hp.1 hv
  obtain ⟨hframe, hpath, hpreds, hcore, htemps, -⟩ := lanePath_spec hwrote p hw
  exact ⟨hframe, hpath, hpreds,
    writes_of hd hp hm hwrote hcore htemps (laneIssued_curCore ..) (laneIssued_curW_t ..) (laneIssued_cur ..) (by rw [hframe.1])⟩

/-- A lane instruction that has written predicates alone. -/
theorem lanePath_writesNothing {gs : List (BitVec 13)} (hp : Pinned s gs) (p : FMap Word) {w : State}
    (hv : v = laneIssued s (s.laneEnv h) t res fs) (hw : w = lanePath (v.setW { v.curW with p := p }) (s.laneEnv h) h) :
    LaneFrame s w ∧ PathNext s w h ∧ w.curW.p = p ∧ WritesNothing s w := by
  subst hv
  have hwf : FMap.wf (laneIssued s (s.laneEnv h) t res fs).curCore.places = true := by rw [laneIssued_curCore]; exact hp.1
  obtain ⟨hframe, hpath, hpreds, hcore, htemps, hwritten⟩ := lanePath_spec (Wrote.refl hwf) p hw
  refine ⟨hframe, hpath, hpreds, fun a => ?_, ?_, ?_⟩
  · rw [hcore, laneIssued_curCore]
  · rw [htemps, laneIssued_curW_t]
  · rw [hwritten, laneIssued_curW_tWr]

end End

end Sys2Proof.Machine
end

section
/-! GROUPS OF LANES (R452). The active lanes of a group, their masks, the votes over them, and the source of SHFL are those of the
statements. -/
namespace Sys2Proof.Machine
open Sys2Proof.Rules

section Group
variable (s : State) (h : Hdr) (l : Nat)

theorem groupSize_eq_groupOf : groupSize s (s.laneEnv h) = groupOf s := rfl

theorem groupLanes_eq_groupmates : groupLanes s (s.laneEnv h) l = groupmates s h l := by
  rw [groupLanes, lanesOf, List.filter_filter, groupmates]
  exact List.filter_congr fun _ _ => Bool.and_comm _ _

/-- The first lane of a group (R452). -/
theorem groupBase_eq : l - l % groupOf s = l / groupOf s * groupOf s := Nat.div_mul_self_eq_mod_sub_self.symm

/-- The bits of the lanes of a group for which a condition holds (R455). -/
theorem groupBits_filter_eq_groupMask (p : Nat → Bool) :
    groupBits s (s.laneEnv h) ((groupmates s h l).filter p) = groupMask s h l p := by
  rw [groupMask, List.sum_eq_foldl, List.foldl_map]
  rfl

/-- A group has 16 or 32 lanes (R452). -/
theorem groupOf_eq_two_pow : ∃ k, groupOf s = 2 ^ k := by
  rw [groupOf]
  split_ifs
  · exact ⟨4, rfl⟩
  · exact ⟨5, rfl⟩

end Group

/-- VOTE.all: as many lanes hold the predicate as there are (R455). -/
theorem length_filter_beq_length (p : Nat → Bool) (ls : List Nat) : ((ls.filter p).length == ls.length) = ls.all p := by
  rw [Bool.eq_iff_iff, beq_iff_eq, List.length_filter_eq_length_iff, List.all_eq_true]

/-- VOTE.any and VOTE.uni: no lane holds the predicate (R455). -/
theorem isEmpty_filter_eq_all_not (p : Nat → Bool) (ls : List Nat) : (ls.filter p).isEmpty = ls.all fun k => !p k := by
  rw [Bool.eq_iff_iff, List.isEmpty_iff, List.filter_eq_nil_iff, List.all_eq_true]
  simp only [Bool.not_eq_true, Bool.not_eq_true']

/-- Numbers below `2 ^ k` change the low `k` bits alone (R453). -/
theorem xor_eq_high_add_low_xor {x k : Nat} (hx : x < 2 ^ k) (i : Nat) : i ^^^ x = i - i % 2 ^ k + (i % 2 ^ k ^^^ x) := by
  have hhigh : (i ^^^ x) / 2 ^ k = i / 2 ^ k := by rw [Nat.xor_div_two_pow, Nat.div_eq_of_lt hx, Nat.xor_zero]
  have hlow : (i ^^^ x) % 2 ^ k = i % 2 ^ k ^^^ x := by rw [Nat.xor_mod_two_pow, Nat.mod_eq_of_lt hx]
  rw [← hlow, ← Nat.div_mul_self_eq_mod_sub_self, ← hhigh, Nat.div_add_mod']

/-- The lane that SHFL reads, if it is active, is the source of R453. -/
theorem shflLane_eq_shuffleSource (s : State) (h : Hdr) (f : L3) (l : Nat) :
    shflLane s (s.laneEnv h) f l = shuffleSource s h f l := by
  obtain ⟨b, hb⟩ := groupOf_eq_two_pow s
  have hmin : min (2 ^ segOf f.m) (groupOf s) = 2 ^ min (segOf f.m) b := by
    rw [hb]; exact ((pow_right_mono₀ one_le_two).map_min).symm
  have hdvd : 2 ^ min (segOf f.m) b ∣ groupOf s := hb ▸ Nat.pow_dvd_pow 2 (Nat.min_le_right ..)
  have hite : (if 2 ^ segOf f.m < groupOf s then 2 ^ segOf f.m else groupOf s) = 2 ^ min (segOf f.m) b := by
    rw [← hmin]; split_ifs <;> omega
  unfold shflLane shuffleSource
  dsimp only
  rw [groupSize_eq_groupOf, hmin, hite]
  generalize srcVal s (s.laneEnv h) f.b l % 32 = k
  generalize min (segOf f.m) b = c at hdvd
  have hmod : l % groupOf s % 2 ^ c = l % 2 ^ c := Nat.mod_mod_of_dvd l hdvd
  have hxor := xor_eq_high_add_low_xor (Nat.mod_lt k (Nat.two_pow_pos c)) (l % groupOf s)
  have hi := Nat.mod_le l (groupOf s)
  have hr := Nat.mod_le (l % groupOf s) (2 ^ c)
  rw [hmod] at hxor hr ⊢
  generalize l % groupOf s = i at *
  generalize l % 2 ^ c = r at *
  have hlane (x : Nat) : l - i + (i - r + x) = l - r + x := by omega
  match modeOf f.m with
  | 0 => simp only [hlane, Option.filter_some]
  | 1 =>
    have hup : i - r + k ≤ i ↔ l - r + k ≤ l := by omega
    simp only [hup]
    split_ifs with hk
    · have hsource : l - i + (i - k) = l - k := by omega
      simp only [hsource, Option.filter_some]
    · rfl
  | 2 =>
    have hdown : i + k < i - r + 2 ^ c ↔ l + k < l - r + 2 ^ c := by omega
    simp only [hdown]
    split_ifs with hk
    · have hsource : l - i + (i + k) = l + k := by omega
      simp only [hsource, Option.filter_some]
    · rfl
  | _ + 3 =>
    have hoffset : l - (l - r) = r := by omega
    simp only [hxor, hlane, hoffset, Option.filter_some]

end Sys2Proof.Machine
end

section
/-! LANE INSTRUCTIONS THAT WRITE PREDICATES (R436, R439, R442, R444, R455, R459, R478). Each writes one predicate, but HSET2, which
writes two different ones; the bits are those of the table. -/
namespace Sys2Proof.Machine
open Sys2Proof.Rules

/-- A lane instruction completes with the bits of some predicates in its active lanes, and changes no register. -/
def CompletesWithPredicates (s : State) (i : Instr) (x : PredValue) : Prop :=
  ∃ t, exec i s = .next t ∧ LaneFrame s t ∧ PathNext s t x.1 ∧ WritesNothing s t ∧
    Predicates s t fun q l =>
      if (s.laneEnv x.1).act.getLsbD l = true then (x.2.2.find? fun y => y.1 == q).map fun y => y.2 l else none

theorem completesWithPredicates_of_lanePredOp {i : Instr} {s : State} {h : Hdr} {t : Timing} {d : BitVec 13} {fs : List (BitVec 13)}
    {g : LaneEnv → Nat → Bool} {v : Nat → Bool} (hexec : exec i s = s.lanePredOp h t d fs g) (hp : Pinned s fs)
    (hv : ∀ l, g (s.laneEnv h) l = v l) : CompletesWithPredicates s i (h, fs, [(num d, v)]) := by
  obtain ⟨w, hw, hframe, hpath, hnothing, hpreds⟩ := s.lanePredOp_spec h t d fs g hp
  refine ⟨w, hexec.trans hw, hframe, hpath, hnothing, fun q l hl => ?_⟩
  rw [hpreds q l hl]
  by_cases hq : num d = q
  · simp [hq, hv l]
  · simp [hq, Ne.symm hq]

/-- The comparisons of floating-point values of the model are those of R442. -/
theorem comparesFloat_eq_cmpFloat (g : Fmt) (c a b : Nat) : comparesFloat g c a b = cmpFloat g c a b := by
  unfold comparesFloat cmpFloat
  split_ifs
  · rfl
  · match c with
    | 1 => exact decide_not
    | 0 | 2 | 3 | 4 => rfl
    | _ + 5 => rfl

/-- A comparison of floating-point values (R442). -/
theorem completesWithPredicates_fpSet {i : Instr} {s : State} {h : Hdr} {t : Timing} {f : L3} {g : Fmt}
    (hexec : exec i s = s.fpSet h t f g) (hp : Pinned s [f.a, f.b]) :
    CompletesWithPredicates s i (h, [f.a, f.b], [(num f.d, fun l =>
      comparesFloat g (cmpOf f.m) (srcVal s (s.laneEnv h) f.a l) (srcVal s (s.laneEnv h) f.b l))]) :=
  completesWithPredicates_of_lanePredOp hexec hp fun _ => (comparesFloat_eq_cmpFloat ..).symm

/-- Two predicate fields with one number are equal, for both have the width code 0 (R389). -/
theorem eq_of_pred_of_num_eq {f g : BitVec 13} (hf : pred f = true) (hg : pred g = true) (hn : num f = num g) : f = g := by
  have hwf : wcode f = 0 := beq_iff_eq.mp (Bool.and_elim_left hf)
  have hwg : wcode g = 0 := beq_iff_eq.mp (Bool.and_elim_left hg)
  rw [num, num, BitVec.extractLsb'_toNat, BitVec.extractLsb'_toNat, Nat.shiftRight_eq_div_pow, Nat.shiftRight_eq_div_pow] at hn
  rw [wcode, ← BitVec.toNat_inj, BitVec.extractLsb'_toNat, Nat.shiftRight_zero] at hwf hwg
  have hflt : f.toNat < 2 ^ 13 := f.isLt
  have hglt : g.toNat < 2 ^ 13 := g.isLt
  have hzero : (0 : BitVec 2).toNat = 0 := rfl
  refine BitVec.eq_of_toNat_eq ?_
  omega

/-- HSET2: the elements of its pairs are compared, each for its own predicate (R444). -/
theorem completesWithPredicates_hset2 {s : State} {h : Hdr} {f : L3} (hne : num f.d ≠ num f.c) (hp : Pinned s [f.a, f.b])
    {v : Nat → Nat → Bool} (hv : ∀ i l, cmpFloat (fmt (fmtOf f.m)) (cmpOf f.m) (elemOf 16 i (srcVal s (s.laneEnv h) f.a l))
      (elemOf 16 i (srcVal s (s.laneEnv h) f.b l)) = v i l) :
    CompletesWithPredicates s (.hset2 h f) (h, [f.a, f.b], [(num f.d, v 0), (num f.c, v 1)]) := by
  have hexec : exec (.hset2 h f) s = execHset2 h f s := rfl
  rw [CompletesWithPredicates, hexec, execHset2, State.withRegs_of_pinned hp]
  simp only [hv]
  obtain ⟨p, hpreds, hbits⟩ := writePred_writePred (laneIssued s (s.laneEnv h) tBasic [(true, num f.d), (true, num f.c)] [f.a, f.b])
    (num f.d) (num f.c) (s.laneEnv h).act (maskOf (v 0)) (maskOf (v 1))
  rw [laneIssued_curRef] at hpreds
  have href : (s.laneEnv h).r = s.curRef := rfl
  rw [href, hpreds]
  obtain ⟨hframe, hpath, hwp, hnothing⟩ := lanePath_writesNothing hp p rfl (Eq.refl (lanePath _ (s.laneEnv h) h))
  refine ⟨_, rfl, hframe, hpath, hnothing, predicates_of_getD fun q l hl => ?_⟩
  rw [hwp, hbits q l hl, laneIssued_curW_p, maskOf_getLsbD, maskOf_getLsbD, decide_eq_true hl, Bool.true_and, Bool.true_and]
  cases (s.laneEnv h).act.getLsbD l with
  | false => simp
  | true =>
    by_cases hd : num f.d = q
    · simp [← hd, hne]
    · by_cases hc : num f.c = q
      · simp [← hc, hne]
      · simp [hd, hc, Ne.symm hd, Ne.symm hc]

section Vote
variable {s : State} {h : Hdr} {f : L3}

theorem exec_vote_all (hm : modeOf f.m = 0) : exec (.vote h f) s = s.lanePredOp h tCross f.d [] fun e l =>
    ((groupLanes s e l).filter fun k => predBit s e f.a k).length == (groupLanes s e l).length := by
  have hexec : exec (.vote h f) s = execVote h f s := rfl
  rw [hexec, execVote, hm]
  rfl

theorem exec_vote_any (hm : modeOf f.m = 1) : exec (.vote h f) s = s.lanePredOp h tCross f.d [] fun e l =>
    !((groupLanes s e l).filter fun k => predBit s e f.a k).isEmpty := by
  have hexec : exec (.vote h f) s = execVote h f s := rfl
  rw [hexec, execVote, hm]
  rfl

theorem exec_vote_uni (hm : modeOf f.m = 2) : exec (.vote h f) s = s.lanePredOp h tCross f.d [] fun e l =>
    ((groupLanes s e l).filter fun k => predBit s e f.a k).length == (groupLanes s e l).length ||
      ((groupLanes s e l).filter fun k => predBit s e f.a k).isEmpty := by
  have hexec : exec (.vote h f) s = execVote h f s := rfl
  rw [hexec, execVote, hm]
  rfl

theorem exec_vote_ballot (hm : modeOf f.m = 3) : exec (.vote h f) s = s.laneOp h tCross f.d [] fun e l =>
    groupBits s e ((groupLanes s e l).filter fun k => predBit s e f.a k) := by
  have hexec : exec (.vote h f) s = execVote h f s := rfl
  rw [hexec, execVote, hm]
  rfl

/-- VOTE.all, VOTE.any and VOTE.uni, by the lanes of a group that hold the predicate (R455). -/
theorem completesWithPredicates_vote {x : PredValue} (hx : predValue s (.vote h f) = some x) (hp : Pinned s x.2.1) :
    CompletesWithPredicates s (.vote h f) x := by
  rw [predValue] at hx
  split_ifs at hx with h0 h1 h2 <;> cases hx
  · refine completesWithPredicates_of_lanePredOp (exec_vote_all h0) hp fun l => ?_
    rw [length_filter_beq_length, groupLanes_eq_groupmates]; rfl
  · refine completesWithPredicates_of_lanePredOp (exec_vote_any h1) hp fun l => ?_
    rw [isEmpty_filter_eq_all_not, groupLanes_eq_groupmates, ← List.any_eq_not_all_not]; rfl
  · refine completesWithPredicates_of_lanePredOp (exec_vote_uni h2) hp fun l => ?_
    rw [length_filter_beq_length, isEmpty_filter_eq_all_not, groupLanes_eq_groupmates]; rfl

end Vote

/-- Settles O9, by the entries of the table: each writes one predicate by a condition on its lane or its group, and HSET2 writes two. -/
theorem lanePredicateValues : Obligations.LanePredicateValues := by
  intro i s x hwf hx hp
  cases i with
  | iset h f =>
    cases hx
    exact completesWithPredicates_of_lanePredOp (Eq.refl (execIset h f s)) hp fun _ => (compares_eq_cmpInt ..).symm
  | lset h f =>
    cases hx
    exact completesWithPredicates_of_lanePredOp (Eq.refl (execLset h f s)) hp fun _ => (compares_eq_cmpInt ..).symm
  | fset h f | dset h f => cases hx; exact completesWithPredicates_fpSet rfl hp
  | hset2 h f =>
    cases hx
    have hdiff : f.d ≠ f.c := bne_iff_ne.mp (Bool.and_elim_right (Bool.and_elim_left (Bool.and_elim_left hwf)))
    obtain ⟨hd, -, -, hc⟩ := l3_iff.mp (middle_of_and_and hwf)
    exact completesWithPredicates_hset2 (fun hn => hdiff (eq_of_pred_of_num_eq hd hc hn)) hp fun _ _ =>
      (comparesFloat_eq_cmpFloat ..).symm
  | vote h f => exact completesWithPredicates_vote hx hp
  | elect h f =>
    cases hx
    refine completesWithPredicates_of_lanePredOp (Eq.refl (execElect h f s)) hp fun l => ?_
    rw [groupLanes_eq_groupmates]
  | pand h f => cases hx; exact completesWithPredicates_of_lanePredOp (Eq.refl (execPand h f s)) hp fun _ => rfl
  | por h f => cases hx; exact completesWithPredicates_of_lanePredOp (Eq.refl (execPor h f s)) hp fun _ => rfl
  | pxor h f => cases hx; exact completesWithPredicates_of_lanePredOp (Eq.refl (execPxor h f s)) hp fun _ => rfl
  | pnot h f => cases hx; exact completesWithPredicates_of_lanePredOp (Eq.refl (execPnot h f s)) hp fun _ => rfl
  | _ => cases hx

end Sys2Proof.Machine
end

section
/-! CROSS-LANE INSTRUCTIONS (R378, R453 to R459). Each that writes a register is one lane operation, whose value the lanes of its
group give; SHFL with a predicate writes both. -/
namespace Sys2Proof.Machine
open Sys2Proof.Rules

/-- The combination of two elements that a mode of FREDUX names (R457). -/
def reduceFloat (m : BitVec 29) : Nat → Nat → Nat :=
  let g := fmt (fmtOf m)
  if modeOf m = 0 then fun a b => g.round (rmOf m) (satOf m) ((g.read a).add (rmOf m) (g.read b))
  else if modeOf m = 1 then g.min else g.max

/-- The leaves of the tree of FREDUX: the values of the active lanes of a group (R378). -/
def reduceLeaves (s : State) (e : LaneEnv) (f : L3) (base : Nat) : List (Option Nat) :=
  (List.range (groupSize s e)).map fun i => if e.act.getLsbD (base + i) then some (srcVal s e f.a (base + i)) else none

theorem exec_fredux (h : Hdr) (f : L3) (s : State) : exec (.fredux h f) s = s.laneOp h tReduce f.d [f.a] fun e l =>
    (treeRoot (reduceFloat f.m) 5 (reduceLeaves s e f (l - l % groupSize s e))).getD 0 := by
  have hadd : (fmt (fmtOf f.m)).add false (rmOf f.m) (satOf f.m) = fun a b =>
      (fmt (fmtOf f.m)).round (rmOf f.m) (satOf f.m) (((fmt (fmtOf f.m)).read a).add (rmOf f.m) ((fmt (fmtOf f.m)).read b)) :=
    funext₂ (Fmt.add_eq_round _ _ _)
  have hexec : exec (.fredux h f) s = execFredux h f s := rfl
  rw [hexec, execFredux, hadd, reduceFloat]
  generalize modeOf f.m = mode
  refine congrArg (s.laneOp h tReduce f.d [f.a]) (funext₂ fun e l => ?_)
  match mode with
  | 0 | 1 | _ + 2 =>
    simp only [reduceIte, Nat.reduceEqDiff, reduceLeaves]
    generalize treeRoot _ 5 _ = root
    cases root <;> rfl

theorem completesWith_fredux {s : State} {h : Hdr} {f : L3} {x : LaneValue} (hd : DstOk f.d) (hx : crossValue s (.fredux h f) = some x)
    (hp : Pinned s [f.d, f.a]) : CompletesWith s (.fredux h f) x := by
  cases hx
  refine completesWith_of_laneOp (exec_fredux h f s) hd hp fun l => ?_
  rw [groupSize_eq_groupOf, groupBase_eq]; rfl

/-- BCAST: the lane that the lowest lane of a group names gives its value, if it is active (R454). -/
theorem completesWith_bcast {s : State} {h : Hdr} {f : L3} {x : LaneValue} (hd : DstOk f.d) (hx : crossValue s (.bcast h f) = some x)
    (hp : Pinned s [f.d, f.a, f.b]) : CompletesWith s (.bcast h f) x := by
  cases hx
  refine completesWith_of_laneOp (Eq.refl (execBcast h f s)) hd hp fun l => ?_
  rw [groupLanes_eq_groupmates, groupSize_eq_groupOf]
  cases groupmates s h l with
  | nil => rfl
  | cons low _ => dsimp only; rw [groupBase_eq]

/-- SCAN: the lanes up to a lane, or strictly before it (R458). -/
theorem completesWith_scan {s : State} {h : Hdr} {f : L3} {x : LaneValue} (hd : DstOk f.d) (hx : crossValue s (.scan h f) = some x)
    (hp : Pinned s [f.d, f.a]) : CompletesWith s (.scan h f) x := by
  cases hx
  refine completesWith_of_laneOp (Eq.refl (execScan h f s)) hd hp fun l => ?_
  have hupto : (fun k => if f.m.getLsbD 14 = true then decide (k < l) else decide (k ≤ l)) =
      fun k => decide (k < l) || (!f.m.getLsbD 14 && k == l) := by
    funext k
    cases f.m.getLsbD 14 with
    | true => simp
    | false => simp [Nat.le_iff_lt_or_eq, Bool.decide_or, beq_eq_decide]
  rw [groupLanes_eq_groupmates, hupto, List.foldl_map]

/-- VOTE.ballot: the mask of the lanes that hold the predicate (R455). -/
theorem completesWith_vote {s : State} {h : Hdr} {f : L3} {x : LaneValue} (hd : modeOf f.m = 3 → DstOk f.d)
    (hx : crossValue s (.vote h f) = some x) (hp : Pinned s (x.2.1 :: x.2.2.1)) : CompletesWith s (.vote h f) x := by
  rw [crossValue] at hx
  split_ifs at hx with hm
  cases hx
  refine completesWith_of_laneOp (exec_vote_ballot hm) (hd hm) hp fun l => ?_
  rw [groupLanes_eq_groupmates, groupBits_filter_eq_groupMask]; rfl

theorem dstOk_of_oneOrTwo {f : L3} (hf : oneOrTwo f = true) : DstOk f.d :=
  dstOk_of_dst (Bool.and_elim_right (Bool.and_elim_left hf))

theorem dstOk_of_redInt {f : L3} (hf : redInt f = true) : DstOk f.d :=
  dstOk_of_dst (Bool.and_elim_right (Bool.and_elim_left (Bool.and_elim_left (Bool.and_elim_left hf))))

theorem Writes.of_eq {s t : State} {h : Hdr} {d k : Nat} {f g : Nat → Nat} (hw : Writes s t h d k f) (hfg : ∀ l, f l = g l) :
    Writes s t h d k g := funext hfg ▸ hw

/-- The end of SHFL: with VP it writes its predicate after its destination, without it writes none (R453). -/
theorem lanePath_ite_writePred (vp : Bool) (v : State) (e : LaneEnv) (h : Hdr) (q : Nat) (mask bits : Word) :
    ∃ p, lanePath (if vp then writePred v v.curRef q mask bits else v) e h = lanePath (v.setW { v.curW with p := p }) e h ∧
      ∀ x l, l < 32 → (FMap.get 0 p x).getLsbD l =
        if vp = true ∧ x = q ∧ mask.getLsbD l = true then bits.getLsbD l else (FMap.get 0 v.curW.p x).getLsbD l := by
  cases vp with
  | true =>
    obtain ⟨p, hp, hbits⟩ := writePred_wrote v q mask bits
    exact ⟨p, by rw [if_pos rfl, hp], fun x l hl => by rw [hbits x l hl]; simp⟩
  | false =>
    refine ⟨v.curW.p, ?_, fun x l _ => by simp⟩
    rw [lanePath, lanePath, State.setW_setW, State.setW_curW]; rfl

/-- SHFL gives each lane the value of its source, and with VP says whether there is one (R453). -/
theorem shfl_completes {s : State} {h : Hdr} {f : L3} (hd : DstOk f.d) (hp : Pinned s [f.d, f.a, f.b]) :
    ∃ t, exec (.shfl h f) s = .next t ∧ LaneFrame s t ∧ PathNext s t h ∧
      Writes s t h (num f.d) (regCount f.d) (fun l => srcVal s (s.laneEnv h) f.a ((shuffleSource s h f l).getD l)) ∧
      Predicates s t fun q l =>
        if f.m.getLsbD 15 = true ∧ q = num f.c ∧ (s.laneEnv h).act.getLsbD l = true then some (shuffleSource s h f l).isSome
        else none := by
  have hexec : exec (.shfl h f) s = execShfl h f s := rfl
  rw [hexec, execShfl, State.withRegs_of_pinned hp]
  simp only [shflLane_eq_shuffleSource]
  generalize hv : writeDst _ (s.laneEnv h).r (num f.d) (regCount f.d) (s.laneEnv h).act _ = v
  have hwrote := writeDst_laneIssued hp.1 hv.symm
  have href : (s.laneEnv h).r = v.curRef := (hwrote.curRef.trans (laneIssued_curRef ..)).symm
  obtain ⟨p, hend, hbits⟩ := lanePath_ite_writePred (f.m.getLsbD 15) v (s.laneEnv h) h (num f.c) (s.laneEnv h).act
    (maskOf fun l => (shuffleSource s h f l).isSome)
  obtain ⟨hframe, hpath, hpreds, hwrites⟩ := lanePath_writes hd hp List.mem_cons_self hv.symm p hend
  rw [href]
  refine ⟨_, rfl, hframe, hpath, hwrites.of_eq fun l => ?_, predicates_of_getD fun q l hl => ?_⟩
  · cases shuffleSource s h f l <;> rfl
  · rw [hpreds, hbits q l hl, hwrote.warp, laneIssued_curW_p, maskOf_getLsbD, decide_eq_true hl, Bool.true_and]
    split_ifs <;> rfl

/-- Settles O8, by the entries of the table: what a lane's group gives is what the model computes from the group's lanes, and SHFL
reads the lane of R453. -/
theorem crossLaneValues : Obligations.CrossLaneValues := by
  refine ⟨fun i s x hwf hx hp => ?_, fun h f s hwf hp => ?_⟩
  · cases i with
    | bcast h f =>
      have hd : DstOk f.d := dstOk_of_oneOrTwo (Bool.and_elim_right (Bool.and_elim_left (Bool.and_elim_left hwf)))
      exact completesWith_bcast hd hx (by cases hx; exact hp)
    | vote h f =>
      refine completesWith_vote (fun hm => ?_) hx hp
      have hd := Bool.and_elim_right hwf
      rw [if_pos hm] at hd
      exact dstOk_of_dst hd
    | redux h f =>
      cases hx
      refine completesWith_of_laneOp (Eq.refl (execRedux h f s)) (dstOk_of_redInt (Bool.and_elim_right hwf)) hp fun l => ?_
      rw [groupLanes_eq_groupmates, List.foldl_map]
    | scan h f => exact completesWith_scan (dstOk_of_redInt (Bool.and_elim_right hwf)) hx (by cases hx; exact hp)
    | fredux h f =>
      have hd : DstOk f.d := dstOk_of_dst
        (Bool.and_elim_right (Bool.and_elim_left (Bool.and_elim_left (Bool.and_elim_left hwf))))
      exact completesWith_fredux hd hx (by cases hx; exact hp)
    | matchL h f =>
      cases hx
      have hd : DstOk f.d := dstOk_of_dst
        (Bool.and_elim_right (Bool.and_elim_left (Bool.and_elim_left (Bool.and_elim_left (Bool.and_elim_left hwf)))))
      refine completesWith_of_laneOp (Eq.refl (execMatchL h f s)) hd hp fun l => ?_
      rw [groupLanes_eq_groupmates, groupBits_filter_eq_groupMask]
    | _ => cases hx
  · have hd : DstOk f.d := dstOk_of_oneOrTwo (Bool.and_elim_right (Bool.and_elim_left (Bool.and_elim_left hwf)))
    exact shfl_completes hd hp

end Sys2Proof.Machine
end
